-- ==== Sys2Proof/Word.lean ====
section
/-! DEFINITION. Word.lean: the names of the device's parts and the plain word types.
Numbers of parts are those of R18, R40, R80, R236, R248 and R342 (01, 02, 03, 07, 08, 11). -/

namespace Sys2Proof

/-- One byte (R7). -/
abbrev Byte := BitVec 8

/-- A sparse table: pairs of a key and a value, keys strictly rising, no value equal to the table's default. -/
abbrev Tab (α : Type) := List (Nat × α)

/-- A vat, 0 to 7 (R342). -/
abbrev Vat := Fin 8
/-- A physical press, 0 to 67 (R18, R24). -/
abbrev Press := Fin 68
/-- A physical plate of a press, or the slice bank that senses it, 0 to 16 (R20). -/
abbrev Plate := Fin 17
/-- A stream, 0 to 4,095 (R255). -/
abbrev StreamId := Fin 4096
/-- A PCI Express function: 0 the physical function, v + 1 the virtual function of vat v (R248, R249). -/
abbrev Fn := Fin 9
/-- A stipple macro of a press, 0 or 1 (R151). -/
abbrev Macro := Fin 2
/-- A job slot of a press, 0 to 127 (R232). -/
abbrev Slot := Fin 128
/-- A survey converter, 0 or 1 (R401). -/
abbrev Conv := Fin 2

end Sys2Proof
end

