-- ==== Sys2Proof/Syntax.lean ====
section
/-! DEFINITION. Syntax.lean: the commands, one constructor for each row of spec/opcode_table.json, and their operands.
The table gives no operands (assumption 3): an operand is what the requester writes, or what comes from outside the
device (an analogue or electrical outcome, an elapsed time, what host software has written to host memory before). -/

namespace Sys2Proof

/-- The principal of a dictionary access (R14, R386); `anon` is an access without a session (R379). -/
inductive Principal
  | M
  | H
  | V (f : Fn)
  | T (v : Vat)
  | anon
  deriving DecidableEq, Repr

/-- What starts a cold reset (R443, R471). -/
inductive ColdCause
  | supplyRemoved
  | perstLow
  | powerGoodFall
  deriving DecidableEq, Repr

/-- Widths to which the link trains (R245). -/
inductive LinkWidth
  | x1
  | x2
  | x4
  | x8
  deriving DecidableEq, Repr

/-- Speeds to which the link trains (R245, R279). -/
inductive LinkSpeed
  | gt2_5
  | gt5
  | gt8
  | gt16
  | gt32
  deriving DecidableEq, Repr

/-- What the tests and the link training of start-up find (R100, R300, R454, R453 step 4). -/
structure SelfTest where
  parityGood : Bool := true
  sramFail : List Press := []
  bankFail : List Press := []
  sliceFail : List (Press × Plate × Fin 129) := []
  sliceTrim : List (Press × Plate × Fin 129 × BitVec 16) := []
  /-- MaxAbs of a proof column after the first and after the second test, in twelve-bit LSBs (R454); a column that is not
  listed reads its ideal value. -/
  proofMax : List (Press × Plate × Fin 8 × BitVec 16 × BitVec 16) := []
  frameFail : List (BitVec 24) := []
  /-- The memory hubs whose controller fails, by number. -/
  hubsFail : List (Fin 2) := []
  bridgeFail : Bool := false
  smFail : Bool := false
  /-- Codes of channel 46 in the start-up calibrations of SC0 and SC1 (R404, R406). -/
  reference0 : BitVec 12 := 0x800
  reference1 : BitVec 12 := 0x800
  link : Option (LinkWidth × LinkSpeed) := some (.x8, .gt32)
  /-- Presses whose diode stands at or above the trip level when power-good is reached (R465). -/
  tripped : List Press := []
  deriving DecidableEq, Repr

/-- A memory hub fails its test (R454). -/
def SelfTest.hubFail (t : SelfTest) : Bool := !t.hubsFail.isEmpty

/-- How host software makes an access to a BAR0 register (R252); `other` is any other size, or a misaligned access. -/
inductive BarSize
  | four
  | eight
  | twoFours
  | other
  deriving DecidableEq, Repr

/-- An access to a register of a function's BAR0 (R251, R252). -/
structure BarAccess where
  fn : Fn
  size : BarSize
  deriving DecidableEq, Repr

/-- An access to a register in the window of a stream (R251, R252, R257). -/
structure WindowAccess where
  access : BarAccess
  st : StreamId
  deriving DecidableEq, Repr

/-- A write of a word to StreamControl of a stream (R255). -/
structure ControlWrite where
  access : BarAccess
  st : StreamId
  word : BitVec 32
  deriving DecidableEq, Repr

/-- Accesses of one size that write consecutive bytes from a BAR0 offset of a function, to registers that only store
what is written (R252, R256, R278, R392). -/
structure RegWrite where
  fn : Fn
  off : Nat
  size : BarSize
  data : List Byte
  deriving DecidableEq, Repr

/-- Writes of configuration space that have no row of their own (R245). -/
inductive ConfigWrite
  | maxPayload (f : Fn) (code : BitVec 3)
  | maxReadRequest (f : Fn) (code : BitVec 3)
  | ecrc (generation checking : Bool)
  | aerClear (bits : BitVec 32)
  deriving DecidableEq, Repr

/-- What host software has written before the command: bytes of host memory as (host address, byte), registers of BAR0
that only store, and configuration space. -/
structure HostWrites where
  mem : List (Nat × Byte) := []
  regs : List RegWrite := []
  config : List ConfigWrite := []
  deriving DecidableEq, Repr

/-- The destination of a remote operation, relative to the issuing vat (R19, R27, R29, R214, R236); host memory is the
bounce region of the issuing job's stream. -/
inductive RemoteDst
  | scratch (vatPress : Fin 64) (off : BitVec 20)
  | package (addr : BitVec 46)
  | counter (c : Fin 512)
  | host (off : BitVec 46)
  deriving DecidableEq, Repr

/-- The remote operations (R27). -/
inductive RemoteKind
  | put (data : List Byte)
  | get (len : Nat)
  | signal
  | add (v : BitVec 64)
  | fetchAdd (v : BitVec 64)
  | compareSwap (expected new : BitVec 64)
  deriving DecidableEq, Repr

/-- A remote operation with the press and slot that issue it (none: the host bridge) and its vat (R29). -/
structure RemoteOp where
  src : Option (Press × Slot) := none
  vat : Vat
  dst : RemoteDst
  kind : RemoteKind
  deriving DecidableEq, Repr

/-- What the SECDED code finds in a word that is read (R183, R284). -/
inductive Ecc
  | clean
  | single
  | double
  deriving DecidableEq, Repr

/-- A read or a write of package memory (R294). -/
inductive MemOp
  | read (len : Nat)
  | write (data : List Byte)
  deriving DecidableEq, Repr

/-- The two channels of a streamed job (R276). -/
inductive Channel
  | data
  | scale
  deriving DecidableEq, Repr

/-- From where a completion is posted: a press slot, or the host bridge for a job it ended itself (R216, R233). -/
inductive PostSrc
  | slot (p : Press) (k : Slot)
  | bridge (s : StreamId)
  deriving DecidableEq, Repr

/-- A dictionary read: the request a mailbox holds, or one access by a principal (R383, R386, R393). -/
inductive DictReadSrc
  | mailbox (f : Fn)
  | direct (pr : Principal) (idx : BitVec 16) (sub : BitVec 8) (off : Nat) (len : Nat)
  deriving DecidableEq, Repr

/-- A dictionary write: the request a mailbox holds, or one access by a principal (R383, R386, R393). -/
inductive DictWriteSrc
  | mailbox (f : Fn)
  | direct (pr : Principal) (idx : BitVec 16) (sub : BitVec 8) (off : Nat) (data : List Byte)
  deriving DecidableEq, Repr

/-- What of a USDO download arrives (R378): a request with the whole value, a request with its first segments, further
segments of the download in progress, or its last ones. -/
inductive UsdoPart
  | whole
  | unfinished
  | more
  | last
  deriving DecidableEq, Repr

/-- What a client asks of an upload (R378): a request that the whole value answers, a request that the first n bytes answer,
or the next n bytes of the upload in progress. -/
inductive UsdoAsk
  | whole
  | first (n : Nat)
  | more (n : Nat)
  deriving DecidableEq, Repr

/-- A sub-index and what is asked of the upload of its entry (R378). -/
structure UsdoUpload where
  sub : BitVec 8
  ask : UsdoAsk := .whole
  deriving DecidableEq, Repr

/-- Energy of work that is ready in a window though no command has asked for it, in microjoules by class (R417); busy is in
PCLK cycles (R370). -/
structure GovMeasure where
  demandA : Nat := 0
  demandD : Nat := 0
  demandE : Nat := 0
  busy : List (Press × Nat) := []
  deriving DecidableEq, Repr

/-- The clocks whose lock ClockLock and CclkLock show (R30, R459). -/
inductive Clock
  | pclk
  | fclk
  | hclk
  | mclk
  | sclk
  | vclk
  | cclk (p : Press)
  deriving DecidableEq, Repr

/-- The boundary-scan instructions (R466). -/
inductive ScanInstr
  | bypass
  | idcode
  | samplePreload
  | extest
  | clamp
  | highz
  deriving DecidableEq, Repr

/-- What the check of an engaging spare shows (R100, R439): its SRAM test, the slices that its calibration finds failed, and
the trims that it sets. -/
structure EngageCheck where
  ok : Bool
  fails : List (Plate × Fin 129) := []
  trims : List (Plate × Fin 129 × BitVec 16) := []
  deriving DecidableEq, Repr

/-- The end of a live copy of a frame, with the ECC outcomes of the words that it read (R284, R298). -/
structure CopyEnd where
  frame : BitVec 24
  found : List (Fin 256 × Ecc) := []
  deriving DecidableEq, Repr

/-- The commands. -/
inductive Instr
  | startUp (t : SelfTest)
  | coldReset (c : ColdCause)
  | thermtrip (p : Press)
  | nodeIdWrite (pr : Principal) (n : BitVec 8)
  | imageChunk (pr : Principal) (data : List Byte)
  | imageVerify
  | startUpActivation (ms : Nat)
  | activate (pr : Principal)
  | activationHoldEnd (ms : Nat)
  | discard (pr : Principal)
  | deviceReset (pr : Principal)
  | deviceResetEnd (ms : Nat)
  | pressReset (pr : Principal) (p : Press) (ms : Nat)
  | retire (pr : Principal) (p : Press)
  | engageCheckDone (p : Press) (c : EngageCheck)
  | spareEngagementDone (p : Press) (ms : Nat)
  | configure (pr : Principal) (v : Vat)
  | allocationDone (v : Vat)
  | pulp (pr : Principal) (v : Vat)
  | pulpingEnd (v : Vat)
  | vatReset (pr : Principal) (v : Vat)
  | vatResetEnd (v : Vat) (ms : Nat)
  | debugRequestTrue (pr : Principal) (v : Vat)
  | debugRequestFalse (pr : Principal) (v : Vat)
  | stagingPagesWrite (pr : Principal) (v : Vat) (n : BitVec 32)
  | retireAtStart (pr : Principal) (off : Nat) (data : List Byte)
  | streamOpen (a : BarAccess) (v : Vat)
  | streamStart (a : WindowAccess) (word : BitVec 32) (hw : HostWrites)
  | keyExchangeDone (s : StreamId)
  | newKeyInstall (s : StreamId)
  | streamClose (w : ControlWrite)
  | closingEnd (s : StreamId)
  | streamReset (w : ControlWrite)
  | functionLevelReset (f : Fn)
  | doorbell (a : WindowAccess) (tail : BitVec 16) (hw : HostWrites)
  | descriptorFetch
  | jobPlacement (s : StreamId)
  | plate (p : Press) (k : Slot)
  | stipple (p : Press) (k : Slot)
  | macroLoad (p : Press) (k : Slot)
  | drainRead (p : Press) (k : Slot) (since : Nat)
  | drainClear (p : Press) (k : Slot) (since : Nat)
  | counterSet (p : Press) (k : Slot)
  | ewAdd (p : Press) (k : Slot)
  | ewMul (p : Press) (k : Slot)
  | ewFma (p : Press) (k : Slot)
  | convert (p : Press) (k : Slot)
  | quantise (p : Press) (k : Slot)
  | reducePartial (p : Press) (k : Slot)
  | softmax (p : Press) (k : Slot)
  | layernorm (p : Press) (k : Slot)
  | rmsnorm (p : Press) (k : Slot)
  | attention (p : Press) (k : Slot)
  | attnMerge (p : Press) (k : Slot)
  | topk (p : Press) (k : Slot)
  | optAdamw (p : Press) (k : Slot)
  | optSgdm (p : Press) (k : Slot)
  | counterPoll (p : Press) (k : Slot)
  | claimFetchAdd (p : Press) (k : Slot)
  | ledgerFullRetry (p : Press) (k : Slot)
  | remoteOperation (op : RemoteOp)
  | completionPost (src : PostSrc)
  | cqHeadWrite (a : WindowAccess) (head : BitVec 16)
  | mailboxHeadRead (a : WindowAccess) (e : Fin 4)
  | blockPost (a : WindowAccess) (c : Channel) (q : BitVec 16) (hw : HostWrites)
  | skewTimeout (p : Press) (k : Slot)
  | jobQuery (a : WindowAccess) (i : BitVec 16)
  | numvfsWrite (n : Fn)
  | functionPowerState (f : Fn) (d3hot : Bool)
  | linkTraining (w : LinkWidth) (g : LinkSpeed)
  | aerErrorLogged (ptr : BitVec 8)
  | msixUnmask (a : BarAccess) (vec : Fin 32)
  | dictGo (f : Fn) (size : BarSize) (hw : HostWrites)
  | dictRead (src : DictReadSrc)
  | dictWrite (src : DictWriteSrc)
  | usdoDownload (idx : BitVec 16) (sub : BitVec 8) (data : List Byte) (part : UsdoPart)
  | usdoUpload (idx : BitVec 16) (u : UsdoUpload)
  | usdoTimeout
  | sessionOffer (data : List Byte)
  | sessionExchangeDone
  | sessionRequest (data : List Byte)
  | sessionClose (data : List Byte)
  | sessionIdleTimeout
  | nmtStartRemoteNode
  | nmtEnterPreOperational
  | nmtStopRemoteNode
  | nmtResetCommunication
  | nmtResetNode
  | heartbeat
  | emcySend
  | busOffRecovery
  | eventQuery (pr : Principal) (n : BitVec 32)
  | eventAck (pr : Principal) (n : BitVec 32)
  | reportRequest (pr : Principal) (i : Fin 10) (nonce : List Byte)
  | reportBuilt
  | reamLoad (pr : Principal) (v : Vat) (data : List Byte) (hw : HostWrites)
  | manifestReadDone (v : Vat) (readOk : Bool)
  | quirePost (pr : Principal) (v : Vat) (w : BitVec 64) (hw : HostWrites)
  | quireReadDone (v : Vat)
  | quireTimeout (v : Vat)
  | reamCancel (pr : Principal) (v : Vat)
  | swapRequest (pr : Principal) (v : Vat) (w : BitVec 32)
  | engravingStart
  | bite (p : Press) (seen : List (Fin 520 × Int))
  | engravingCheck (p : Press) (errs : List (Fin 512 × Int × Int))
  | engravingDone (p : Press) (errs : List Int)
  | platePulpDone (p : Press)
  | enduranceLedgerWrite (pr : Principal) (p : Press) (data : List Byte)
  | refreshStepDue (p : Press)
  | trimFence (p : Press) (q : Plate)
  | trimFenceWaitExpiry (p : Press) (q : Plate)
  | proofPass (p : Press) (q : Plate) (errs : List Int)
  | bankFrame (p : Press) (b : Plate)
  | repeatDecision (p : Press) (b : Plate)
  | drainRegisterRead (p : Press) (k : Slot)
  | dwellEnd (p : Press) (b : Plate)
  | spareSelfCheck (p : Press) (b : Plate) (errs : List Int)
  | fallbackCheckDone (p : Press) (errs : List Int)
  | bankPowerDown (p : Press) (b : Plate)
  | satWindowEnd (p : Press) (b : Plate)
  | rowGroupLoadDone (p : Press) (m : Macro) (g : Fin 4)
  | scrubRow (p : Press) (m : Macro) (es : List Ecc)
  | stippleReloadDone (p : Press) (m : Macro) (ok : Bool)
  | memoryAccess (v : Vat) (a : BitVec 46) (op : MemOp) (e : Ecc) (job : Option (Press × Slot))
  | patrolRead (f : BitVec 24) (word : Fin 256) (e : Ecc)
  | pageCopyDone (c : CopyEnd)
  | pagePulpWriteDone (stack : Fin 4)
  | surveyScan (c : Conv)
  | conversionDone (c : Conv) (code : BitVec 12)
  | surveyReader (c : Conv) (us : Nat)
  | injectedStart (pr : Principal) (c : Conv) (mask : BitVec 3)
  | calibrateRequest (pr : Principal) (c : Conv)
  | calIntervalExpiry (c : Conv)
  | calibrationDone (c : Conv)
  | regularStart (pr : Principal) (c : Conv) (on : Bool)
  | governorWindow (m : GovMeasure)
  | budgetPlan (pr : Principal) (data : List Byte)
  | activityRefresh
  | streamResetDone (s : StreamId)
  | canBusError (tec : BitVec 9) (rec : BitVec 8)
  | linkDown
  | clockLockLoss (c : Clock)
  | boundaryScanInstructionLoad (i : ScanInstr)
  deriving DecidableEq, Repr

end Sys2Proof
end

