-- ==== Sys2Proof/Decode.lean ====
section
/-! DEFINITION. Decode.lean: the command that a word of the opcode table spells. The table gives none of its 143 rows any
bits: the commands come from registers, pins, messages and the device's own engines, and their operands are the
model's (assumption 3). So no word spells a command. -/

namespace Sys2Proof

/-- The command that a word spells by the table's bits: none, for every word. -/
def decodeTableWord (_nbits _w : Nat) : Option Instr := none

end Sys2Proof
end

