-- ==== Sys2Proof/Config.lean ====
section
/-! DEFINITION. Config.lean: what the spec leaves to an implementation or to a named standard, and the free values.
Every constant here is opaque: nothing in Lean can see its value, so what is proved holds for every value of it. -/

namespace Sys2Proof

/-! Named cryptographic standards (R7, R345, R346): uninterpreted functions (assumption 4). -/

/-- SM3 digest (GB/T 32905). -/
opaque Config.sm3 : List Byte → BitVec 256
/-- Key stream byte of SM4 in GCM: key, nonce, byte position (GB/T 32907). -/
opaque Config.gcmStream : BitVec 128 → BitVec 96 → Nat → Byte
/-- Tag of SM4-GCM: key, nonce, additional data, ciphertext. -/
opaque Config.gcmTag : BitVec 128 → BitVec 96 → List Byte → List Byte → BitVec 128
/-- SM4-CMAC: key, message (R384). -/
opaque Config.cmac : BitVec 128 → List Byte → BitVec 128
/-- The SM3 key derivation function of GB/T 32918.4, 128 bits out. -/
opaque Config.kdf128 : List Byte → BitVec 128
/-- The SM3 key derivation function of GB/T 32918.4, 320 bits out. -/
opaque Config.kdf320 : List Byte → BitVec 320
/-- The SM2 public key, x then y, of a private key. -/
opaque Config.sm2Public : BitVec 256 → BitVec 512
/-- SM2 signature verification: public key, message, r then s. -/
opaque Config.sm2Verify : BitVec 512 → List Byte → BitVec 512 → Bool
/-- SM2 signature: private key, message, random number. -/
opaque Config.sm2Sign : BitVec 256 → List Byte → BitVec 256 → BitVec 512
/-- SM2 decryption of a wrapped content key (R304): private key, 112 bytes. -/
opaque Config.sm2Unwrap : BitVec 256 → List Byte → Option (BitVec 128)
/-- The part of user B in the key exchange of GB/T 32918.3, klen 384 (R348, R381): static private key, own identifier,
the peer's key, ephemeral and identifier, random number; it gives R_B, S_B and the 384 shared bits. -/
opaque Config.sm2Exchange : BitVec 256 → List Byte → BitVec 512 → BitVec 512 → List Byte → BitVec 256 → BitVec 512 × BitVec 256 × BitVec 384

/-! Free values: a draw number gives the value (State.free counts the draws). -/

/-- Numbers of the random bit generator of the SM hub (R349, R197). -/
opaque Config.randomBits : Nat → BitVec 256
/-- The analogue error of one conversion (R72, R73). -/
opaque Config.analogueError : Nat → Int
/-- The slice of a bank, 128 for the spare slice, whose failure begins at a sense, if one does (R101). -/
opaque Config.sliceOnset : Nat → Option (Fin 129)
/-- A byte of output that the spec calls undefined (R15, R231, R268, R441). -/
opaque Config.freeByte : Nat → Byte
/-- A draw of 0 to 65,535 for stochastic rounding (R197), from a press's generator state and draw number. -/
opaque Config.stochastic : BitVec 64 → Nat → BitVec 16
/-- Which of the three FP16 words within one ULP the exponential of k / 2^24 takes (R202): the same for the same argument. -/
opaque Config.expChoice : Int → Nat

/-! Constants of an implementation. -/

/-- Payload and sign of the quiet NaN of a format (R192), by its exponent and fraction bits. -/
opaque Config.quietNan : Nat → Nat → Nat
/-- Rounding of the drift factor 2^((T - 85) / 10) (R425): 0 or 1 unit above the lower neighbour, by reading in 1/8 °C. -/
opaque Config.driftRounding : Int → Nat
/-- Where a plate layer's outlier weights lie (R178): logical plate, MacroSet; macro, row group, half of an INT4 group. -/
opaque Config.outlierPlace : Nat → Nat → Nat × Nat × Bool
/-- Where the two stages of an adapter run (R179): logical plate, MacroSet; macro of the A stage, row group of the B stage,
rank r. -/
opaque Config.adapterPlace : Nat → Nat → Nat × Nat × Nat
/-- The energy table of an image (R417, R456: layout internal to the device): image, kind of work, resolution or vector
operation, couch or mode, reading of the press; picojoules. -/
opaque Config.energyTable : List Byte → Nat → Nat → Nat → Int → Nat
/-- What a code of a supply channel stands for (R401, R418): the converter, the channel, 38 to 45, and the code; millivolts
for a voltage channel, milliamperes for a current channel. -/
opaque Config.supplyScale : Nat → Nat → BitVec 12 → Nat
/-- Where a staged section lies (R310, internal to the device): edition, vat-relative press, unit. -/
opaque Config.stagingPlace : Nat → Nat → Nat → BitVec 64
/-- The order in which an implementation adds the n terms of ATTENTION and ATTN_MERGE (R205, R206), from a draw number. -/
opaque Config.fmaOrder : Nat → Nat → List Nat
/-- Vector lane operations of one operation that is not elementwise (R360): VectorOp, RowLength, RowCount, HeadDim, Count. -/
opaque Config.laneOperations : Nat → Nat → Nat → Nat → Nat → Nat
/-- JEP106 code of Balyel Devices in IDCODE (R466). -/
opaque Config.jep106 : BitVec 11

end Sys2Proof
end

