-- ==== Sys2Proof/Machine/Tables.lean ====
section
/-! DEFINITION. Tables.lean: sparse tables in one canonical form (keys strictly rising, no value equal to the default),
and lists read by position. -/

namespace Sys2Proof.Machine

/-- What a table holds at a key: the default d where nothing is listed. -/
def tget {α : Type} (d : α) : Tab α → Nat → α
  | [], _ => d
  | (j, v) :: r, k => if j = k then v else tget d r k

/-- The table without what it lists at key k. -/
def tdel {α : Type} : Tab α → Nat → Tab α
  | [], _ => []
  | (j, v) :: r, k => if j = k then tdel r k else (j, v) :: tdel r k

/-- The table with v at key k; writing the default removes the entry. -/
def tput {α : Type} [DecidableEq α] (d : α) : Tab α → Nat → α → Tab α
  | [], k, v => if v = d then [] else [(k, v)]
  | (j, w) :: r, k, v =>
    if k < j then (if v = d then (j, w) :: tdel r k else (k, v) :: (j, w) :: r)
    else if j = k then (if v = d then tdel r k else (k, v) :: r)
    else (j, w) :: tput d r k v

/-- Every key is at least lo, keys rise strictly and no value is the default. -/
def twfFrom {α : Type} [DecidableEq α] (d : α) : Nat → Tab α → Bool
  | _, [] => true
  | lo, (j, v) :: r => decide (lo ≤ j) && !decide (v = d) && twfFrom d (j + 1) r

/-- The canonical form. -/
def twf {α : Type} [DecidableEq α] (d : α) (m : Tab α) : Bool := twfFrom d 0 m

/-- The table with f applied to what key k holds. -/
def tmod {α : Type} [DecidableEq α] (d : α) (m : Tab α) (k : Nat) (f : α → α) : Tab α :=
  tput d m k (f (tget d m k))

/-- n entries from key k, in order. -/
def tgetN {α : Type} (d : α) (m : Tab α) (k : Nat) : Nat → List α
  | 0 => []
  | n + 1 => tget d m k :: tgetN d m (k + 1) n

/-- The table with a list of values written at consecutive keys from k. -/
def tputL {α : Type} [DecidableEq α] (d : α) : Tab α → Nat → List α → Tab α
  | m, _, [] => m
  | m, k, v :: vs => tputL d (tput d m k v) (k + 1) vs

/-- The table with f applied to every listed entry. -/
def tmap {α : Type} [DecidableEq α] (d : α) (f : Nat → α → α) : Tab α → Tab α
  | [] => []
  | (j, v) :: r => if f j v = d then tdel (tmap d f r) j else (j, f j v) :: tmap d f r

/-- The table without the entries of the keys lo to hi - 1. -/
def tcut {α : Type} (m : Tab α) (lo hi : Nat) : Tab α := m.filter fun e => decide (e.1 < lo ∨ hi ≤ e.1)

/-- The element of a list at a position, d beyond its end. -/
def lget {α : Type} (d : α) (l : List α) (i : Nat) : α := l.getD i d

/-- The list with the element at a position replaced. -/
def lset {α : Type} : List α → Nat → α → List α
  | [], _, _ => []
  | _ :: r, 0, v => v :: r
  | x :: r, i + 1, v => x :: lset r i v

/-- A list of n elements: cut, or filled with d. -/
def lpad {α : Type} (d : α) : Nat → List α → List α
  | 0, _ => []
  | n + 1, [] => d :: lpad d n []
  | n + 1, x :: r => x :: lpad d n r

/-- The sum of f over a list of integers. -/
def lsum (l : List Int) : Int := l.foldl (· + ·) 0

/-- The greatest of a list of naturals, 0 when empty. -/
def lmax (l : List Nat) : Nat := l.foldl max 0

/-- The first element of a list for which the key is smallest. -/
def argMin {α : Type} (key : α → Nat) : List α → Option α
  | [] => none
  | x :: r =>
    match argMin key r with
    | none => some x
    | some y => if key y < key x then some y else some x

/-- The element of a list at the first position where p holds removed, and that element. -/
def takeFirst {α : Type} (p : α → Bool) : List α → Option (α × List α)
  | [] => none
  | x :: r => if p x then some (x, r) else (takeFirst p r).map fun (y, r') => (y, x :: r')

end Sys2Proof.Machine
end

