-- ==== Sys2Proof/Machine/Bits.lean ====
section
/-! DEFINITION. Bits.lean: bit fields, byte orders and saturating counters (R7, R8, R13). -/

namespace Sys2Proof.Machine

/-- Bits msb to lsb of a natural number (R8). -/
def field (v msb lsb : Nat) : Nat := v / 2 ^ lsb % 2 ^ (msb + 1 - lsb)

/-- Bit b of a natural number. -/
def nbit (v b : Nat) : Bool := v / 2 ^ b % 2 = 1

/-- 1 for true. -/
def bitOf (b : Bool) : Nat := if b then 1 else 0

/-- n bytes of a number, least significant first (R7). -/
def leBytes : Nat → Nat → List Byte
  | 0, _ => []
  | n + 1, v => BitVec.ofNat 8 v :: leBytes n (v / 256)

/-- The number that bytes spell, least significant first (R7). -/
def leNat : List Byte → Nat
  | [] => 0
  | b :: r => b.toNat + 256 * leNat r

/-- n bytes of a number, most significant first (cryptographic strings, R7). -/
def beBytes (n v : Nat) : List Byte := (leBytes n v).reverse

/-- The number that bytes spell, most significant first. -/
def beNat (l : List Byte) : Nat := leNat l.reverse

/-- The number in n bytes of a list from an offset, least significant first; bytes beyond its end count as 0. -/
def leAt (l : List Byte) (off n : Nat) : Nat := leNat ((l.drop off).take n)

/-- A slice of a list of bytes, filled with 0 to its length. -/
def slice (l : List Byte) (off n : Nat) : List Byte := lpad 0 n (l.drop off)

/-- Two's complement of w bits, as an integer (R9). -/
def sext (w v : Nat) : Int := if v % 2 ^ w < 2 ^ (w - 1) then (v % 2 ^ w : Nat) else (v % 2 ^ w : Nat) - 2 ^ w

/-- An integer as w bits of two's complement (R9). -/
def toBits (w : Nat) (i : Int) : Nat := (i % (2 ^ w : Nat)).toNat

/-- An integer in n bytes, least significant first. -/
def leInt (n : Nat) (i : Int) : List Byte := leBytes n (toBits (8 * n) i)

/-- A counter plus n that stops at its maximum (R13). -/
def satAdd {w : Nat} (v : BitVec w) (n : Nat) : BitVec w :=
  if v.toNat + n < 2 ^ w then BitVec.ofNat w (v.toNat + n) else BitVec.allOnes w

/-- A counter plus 1 that stops at its maximum (R13). -/
def satInc {w : Nat} (v : BitVec w) : BitVec w := satAdd v 1

/-- An integer limited to lo to hi. -/
def clampI (lo hi i : Int) : Int := if i < lo then lo else if hi < i then hi else i

/-- All bytes are zero. -/
def allZero (l : List Byte) : Bool := l.all (· == 0#8)

/-- A list of bits, bit 0 first, as a number. -/
def bitsNat : List Bool → Nat
  | [] => 0
  | b :: r => bitOf b + 2 * bitsNat r

/-- Exclusive or of two byte lists, as long as the first. -/
def xorBytes : List Byte → List Byte → List Byte
  | [], _ => []
  | a :: r, [] => a :: xorBytes r []
  | a :: r, b :: q => (a ^^^ b) :: xorBytes r q

/-- The quotient of two integers rounded to nearest, ties to even (R9); the divisor is positive. -/
def rneDiv (a : Int) (b : Nat) : Int :=
  let q := a / (b : Int)
  let r := a % (b : Int)
  if 2 * r < b then q else if 2 * r > b then q + 1 else if q % 2 = 0 then q else q + 1

/-- The quotient rounded to nearest, halves away from zero; the divisor is positive. -/
def rhazDiv (a : Int) (b : Nat) : Int :=
  if 0 ≤ a then (2 * a + b) / (2 * (b : Int)) else -((2 * (-a) + b) / (2 * (b : Int)))

/-- The quotient rounded up, for naturals. -/
def ceilDiv (a b : Nat) : Nat := (a + b - 1) / b

end Sys2Proof.Machine
end

