-- ==== Sys2Proof/Machine/Num.lean ====
section
/-! DEFINITION. Num.lean: the number formats of R9 as exact rationals with infinities and NaN, rounding to a format
(R123, R126, R192, R197), square roots and the exponential of R202. -/

namespace Sys2Proof.Machine

/-- An exact rational: numerator and positive denominator. -/
structure Frac where
  num : Int
  den : Nat
  deriving DecidableEq, Repr

/-- A rational in lowest terms. -/
def mkFrac (n : Int) (d : Nat) : Frac :=
  let g := Nat.gcd n.natAbs d
  if g = 0 then ⟨0, 1⟩ else ⟨n / (g : Int), d / g⟩

/-- An integer as a rational. -/
def Frac.ofInt (n : Int) : Frac := ⟨n, 1⟩
/-- Sum. -/
def Frac.add (a b : Frac) : Frac := mkFrac (a.num * b.den + b.num * a.den) (a.den * b.den)
/-- Negation. -/
def Frac.neg (a : Frac) : Frac := ⟨-a.num, a.den⟩
/-- Product. -/
def Frac.mul (a b : Frac) : Frac := mkFrac (a.num * b.num) (a.den * b.den)
/-- Quotient; 0 for a zero divisor (every caller handles it first). -/
def Frac.div (a b : Frac) : Frac :=
  if b.num = 0 then ⟨0, 1⟩ else mkFrac (a.num * b.den * b.num.sign) (a.den * b.num.natAbs)
/-- Magnitude. -/
def Frac.abs (a : Frac) : Frac := ⟨a.num.natAbs, a.den⟩
/-- Less than. -/
def Frac.lt (a b : Frac) : Bool := decide (a.num * b.den < b.num * a.den)
/-- At most. -/
def Frac.le (a b : Frac) : Bool := decide (a.num * b.den ≤ b.num * a.den)
/-- 2 to an integer power. -/
def pow2 (e : Int) : Frac := if 0 ≤ e then ⟨(2 ^ e.toNat : Nat), 1⟩ else ⟨1, 2 ^ (-e).toNat⟩
/-- Rounded to the nearest integer, ties to even. -/
def Frac.rne (a : Frac) : Int := rneDiv a.num a.den
/-- Rounded down. -/
def Frac.floor (a : Frac) : Int := a.num / (a.den : Int)
/-- The exponent e with 2^e ≤ a < 2^(e+1) of a positive rational. -/
def Frac.log2 (a : Frac) : Int :=
  let l : Int := (Nat.log2 a.num.natAbs : Int) - (Nat.log2 a.den : Int)
  if (pow2 l).le a then l else l - 1

/-- A value of a float format: NaN, an infinity, or an exact value with the sign of a zero. -/
inductive FVal
  | nan
  | inf (neg : Bool)
  | val (q : Frac) (negZero : Bool)
  deriving DecidableEq, Repr

/-- A finite value. -/
def fv (q : Frac) : FVal := .val q false
/-- An integer. -/
def fInt (n : Int) : FVal := fv (.ofInt n)
/-- Zero. -/
def fZero : FVal := fInt 0

/-- The sign bit. -/
def FVal.isNeg : FVal → Bool
  | .nan => false
  | .inf n => n
  | .val q z => decide (q.num < 0) || (q.num = 0 && z)

/-- Negation. -/
def FVal.neg : FVal → FVal
  | .nan => .nan
  | .inf n => .inf !n
  | .val q z => .val q.neg (q.num = 0 && !z)

/-- Exact sum (IEEE 754-2019 for NaN, infinities and the sign of zero). -/
def FVal.add : FVal → FVal → FVal
  | .nan, _ => .nan
  | _, .nan => .nan
  | .inf a, .inf b => if a = b then .inf a else .nan
  | .inf a, _ => .inf a
  | _, .inf b => .inf b
  | .val a za, .val b zb => .val (a.add b) (a.num = 0 && b.num = 0 && za && zb)

/-- Exact product. -/
def FVal.mul (x y : FVal) : FVal :=
  match x, y with
  | .nan, _ => .nan
  | _, .nan => .nan
  | .inf a, .inf b => .inf (a != b)
  | .inf a, .val q _ => if q.num = 0 then .nan else .inf (a != y.isNeg)
  | .val q _, .inf b => if q.num = 0 then .nan else .inf (x.isNeg != b)
  | .val a _, .val b _ => .val (a.mul b) ((a.num = 0 || b.num = 0) && (x.isNeg != y.isNeg))

/-- Exact quotient. -/
def FVal.div (x y : FVal) : FVal :=
  match x, y with
  | .nan, _ => .nan
  | _, .nan => .nan
  | .inf _, .inf _ => .nan
  | .inf a, _ => .inf (a != y.isNeg)
  | .val _ _, .inf b => .val ⟨0, 1⟩ (x.isNeg != b)
  | .val a _, .val b _ =>
    if b.num = 0 then (if a.num = 0 then .nan else .inf (x.isNeg != y.isNeg))
    else .val (a.div b) (a.num = 0 && (x.isNeg != y.isNeg))

/-- The larger of two values, NaN skipped. -/
def FVal.max (x y : FVal) : FVal :=
  match x, y with
  | .nan, v => v
  | v, .nan => v
  | .inf true, v => v
  | v, .inf true => v
  | .inf false, _ => .inf false
  | _, .inf false => .inf false
  | .val a za, .val b zb => if a.lt b then .val b zb else .val a za

/-- x is less than y; false with a NaN; zeros are equal. -/
def FVal.lt (x y : FVal) : Bool :=
  match x, y with
  | .nan, _ => false
  | _, .nan => false
  | .inf a, .inf b => a && !b
  | .inf a, .val _ _ => a
  | .val _ _, .inf b => !b
  | .val a _, .val b _ => a.lt b

/-- Exponent bits, fraction bits and whether an all-ones exponent holds infinity and NaN. -/
structure FFmt where
  eb : Nat
  mb : Nat
  ieee : Bool
  deriving DecidableEq, Repr

/-- binary16. -/
def fp16 : FFmt := ⟨5, 10, true⟩
/-- The upper 16 bits of binary32. -/
def bf16 : FFmt := ⟨8, 7, true⟩
/-- OFP8 E4M3. -/
def e4m3 : FFmt := ⟨4, 3, false⟩
/-- OFP8 E5M2. -/
def e5m2 : FFmt := ⟨5, 2, true⟩

/-- Exponent bias. -/
def FFmt.bias (f : FFmt) : Int := 2 ^ (f.eb - 1) - 1
/-- The word of the largest finite value. -/
def FFmt.maxWord (f : FFmt) : Nat :=
  if f.ieee then (2 ^ f.eb - 1) * 2 ^ f.mb - 1 else 2 ^ (f.eb + f.mb) - 2
/-- The word of the quiet NaN that the device writes (R192): its payload and its sign are free (assumption 15). -/
def FFmt.nanWord (f : FFmt) : Nat :=
  (if f.ieee then (2 ^ f.eb - 1) * 2 ^ f.mb + 2 ^ (f.mb - 1) + Config.quietNan f.eb f.mb % 2 ^ (f.mb - 1)
   else 2 ^ (f.eb + f.mb) - 1) + Config.quietNan f.eb f.mb / 2 ^ (f.mb - 1) % 2 * 2 ^ (f.eb + f.mb)

/-- The value of a word. -/
def decodeF (f : FFmt) (w : Nat) : FVal :=
  let neg := nbit w (f.eb + f.mb)
  let e := field w (f.eb + f.mb - 1) f.mb
  let m := w % 2 ^ f.mb
  if f.ieee && e = 2 ^ f.eb - 1 then (if m = 0 then .inf neg else .nan)
  else if !f.ieee && w % 2 ^ (f.eb + f.mb) = 2 ^ (f.eb + f.mb) - 1 then .nan
  else
    let n : Nat := if e = 0 then m else m + 2 ^ f.mb
    let q := (Frac.ofInt n).mul (pow2 ((if e = 0 then 1 else (e : Int)) - f.bias - (f.mb : Int)))
    .val (if neg then q.neg else q) (neg && n = 0)

/-- How a value between two neighbours is rounded: to nearest, ties to even, or by a draw r (R197). -/
inductive Rnd
  | rne
  | stochastic (r : Nat)
  deriving DecidableEq, Repr

/-- A rational rounded to an integer. -/
def Frac.round (a : Frac) : Rnd → Int
  | .rne => a.rne
  | .stochastic r =>
    let lo := a.floor
    let rest := a.add (Frac.ofInt (-lo))
    if (Frac.ofInt r).lt (rest.mul ⟨65536, 1⟩) then lo + 1 else lo

/-- The word of a value in a format; a finite value beyond the range becomes the largest finite one of its sign (R192).
An infinity stays one where the format has it and becomes the largest finite value in E4M3 (assumption 16). -/
def encodeF (f : FFmt) (x : FVal) (r : Rnd := .rne) : Nat :=
  let sgn := if x.isNeg then 2 ^ (f.eb + f.mb) else 0
  match x with
  | .nan => f.nanWord
  | .inf _ => sgn + (if f.ieee then f.maxWord + 1 else f.maxWord)
  | .val q _ =>
    if q.num = 0 then sgn
    else
      let a := q.abs
      let e := max a.log2 (1 - f.bias)
      let scaled := a.mul (pow2 ((f.mb : Int) - e))
      let n : Int :=
        match r with
        | .rne => scaled.rne
        | .stochastic _ => if q.num < 0 then -((scaled.neg).round r) else scaled.round r
      let w := (e + f.bias - 1) * 2 ^ f.mb + n
      sgn + min w.toNat f.maxWord

/-- The word of the output stage (R123): an infinite value becomes the largest finite one. -/
def encodeSat (f : FFmt) (x : FVal) (r : Rnd := .rne) : Nat :=
  match x with
  | .inf n => (if n then 2 ^ (f.eb + f.mb) else 0) + f.maxWord
  | v => encodeF f v r

/-- A value rounded to FP16 as the output stage does it (R123 to R127). -/
def rneSat16 (x : FVal) : FVal := decodeF fp16 (encodeSat fp16 x)
/-- A value rounded to FP16 (R192). -/
def rne16 (x : FVal) : FVal := decodeF fp16 (encodeF fp16 x)
/-- The value of an FP16 word. -/
def h16 (w : BitVec 16) : FVal := decodeF fp16 w.toNat
/-- A value as an FP16 word of the output stage. -/
def toH16 (x : FVal) : BitVec 16 := BitVec.ofNat 16 (encodeSat fp16 x)

/-- An element's magnitude for m of R114: NaN counts 0, an infinity 65,504. -/
def magOf : FVal → Frac
  | .nan => ⟨0, 1⟩
  | .inf _ => ⟨65504, 1⟩
  | .val q _ => q.abs

/-- An element's value for the codes of R114: an infinity counts as 65,504 of its sign; none for NaN. -/
def finOf : FVal → Option Frac
  | .nan => none
  | .inf n => some ⟨if n then -65504 else 65504, 1⟩
  | .val q _ => some q

/-- The largest of a list of magnitudes. -/
def maxFrac (l : List Frac) : Frac := l.foldl (fun a b => if a.lt b then b else a) ⟨0, 1⟩

/-- The integer square root, bit by bit. -/
def isqrtGo (n : Nat) : Nat → Nat → Nat
  | 0, r => r
  | b + 1, r => isqrtGo n b (if (r + 2 ^ b) * (r + 2 ^ b) ≤ n then r + 2 ^ b else r)
/-- The integer square root, rounded down. -/
def isqrt (n : Nat) : Nat := isqrtGo n (Nat.log2 n / 2 + 1) 0

/-- The square root of a rational: exact where it is rational; else to 2,048 fraction bits, rounded down, which is closer
to the root than any rounding boundary of R203 or R209 is. -/
def sqrtFrac (q : Frac) : Frac :=
  let x := mkFrac q.num q.den
  let n := isqrt x.num.toNat
  let d := isqrt x.den
  if n * n = x.num.toNat ∧ d * d = x.den then ⟨n, d⟩ else mkFrac (isqrt (x.num.toNat * 2 ^ 4096 / x.den)) (2 ^ 2048)

/-- exp(-1) in units of 2^-96. -/
def expM1 : Nat := 29146412150787779157341161346
/-- Terms of the exponential series of -r / 2^96, 0 ≤ r ≤ 2^96, in units of 2^-96: sum over i from k down. -/
def expSeries (r : Nat) : Nat → Int → Int → Nat → Int
  | 0, acc, _, _ => acc
  | n + 1, acc, term, i =>
    let t := -(term * r) / ((2 ^ 96 : Nat) * (i : Int))
    expSeries r n (acc + t) t (i + 1)
/-- exp(k / 2^24) for k ≤ 0, to about 2^-90. -/
def expFrac (k : Int) : Frac :=
  let a := (-k).toNat
  let n := a / 2 ^ 24
  let r := a % 2 ^ 24 * 2 ^ 72
  let f := (expSeries r 30 (2 ^ 96 : Nat) (2 ^ 96 : Nat) 1).toNat
  if 40 < n then ⟨0, 1⟩ else mkFrac ((f * expM1 ^ n : Nat) : Int) (2 ^ (96 * (n + 1)))

/-- The exponential of R202: the FP16 word within one ULP that Config chooses, at most 1. -/
def expWord (k : Int) : Nat :=
  let w := encodeF fp16 (fv (expFrac k))
  let c := match Config.expChoice k % 3 with
    | 0 => w
    | 1 => w + 1
    | _ => w - 1
  min c 0x3C00

end Sys2Proof.Machine
end

