-- ==== Sys2Proof/Machine/State.lean ====
section
/-! DEFINITION. State.lean: everything the spec gives the device to hold, as plain data, and the machine at reset.
Each field's comment gives its width, the rule that names it and its reset value. Tables (Tab) list only what differs
from the default that the accessors of Tables.lean name. Widths that the spec does not give are Nat. -/

namespace Sys2Proof.Machine

/-- No command of this model stops with a fault (assumption 2): what the spec calls a failure is a status, an event or a
refusal Result in State. -/
inductive Fault
  /-- Raised by no command; safe. It stands for behaviour outside operating conditions (R2), which no command names. -/
  | outsideOperatingConditions
  deriving DecidableEq, Repr

/-- No command of this model is refused (assumption 2). -/
inductive Refusal
  /-- An arm of exec without a meaning; safe. -/
  | notModelled (mnemonic : String)
  deriving DecidableEq, Repr

/-! ## Names -/

/-- The grades of R1. -/
inductive Grade | aq | iq
  deriving DecidableEq, Repr
/-- DeviceState of R459. -/
inductive DevState | starting | awaitingImage | service | activating | deviceReset | failed
  deriving DecidableEq, Repr
/-- ImageStatus.State of R460. -/
inductive ImgState | none | receiving | verifying | pending | activating | rejected
  deriving DecidableEq, Repr
/-- Press states of R436. -/
inductive PressSt | testing | spare | active | engaging | retiring | retired
  deriving DecidableEq, Repr
/-- PlateState.State of R76. -/
inductive PlateSt | blank | engraving | live | refreshTarget | retired
  deriving DecidableEq, Repr
/-- RotationState of R75. -/
inductive Rotation | running | suspended | priority | stopped
  deriving DecidableEq, Repr
/-- CouchMode of R67. -/
inductive Couch | none | tall | deep
  deriving DecidableEq, Repr
/-- BankState.State of R108. -/
inductive BankSt | working | degraded | fallback | parked | lost
  deriving DecidableEq, Repr
/-- FallbackState of R107. -/
inductive FallbackSt | standby | active | failed
  deriving DecidableEq, Repr
/-- MacroState.State of R187. -/
inductive MacroSt | idle | busy | reloading | failed
  deriving DecidableEq, Repr
/-- Vat states of R343. -/
inductive VatSt | off | allocating | serving | pulping | resetting
  deriving DecidableEq, Repr
/-- DebugState of R368. -/
inductive DebugSt | off | entering | active
  deriving DecidableEq, Repr
/-- Stream states of R255. -/
inductive StreamSt | free | allocated | keying | opened | rekey | closing | resetting
  deriving DecidableEq, Repr
/-- Slot states of R232 (FREE is the absence of a job). -/
inductive SlotSt | issued | waiting | running | posting
  deriving DecidableEq, Repr
/-- Mailbox entry states of R273. -/
inductive MailSt | free | reserved | valid
  deriving DecidableEq, Repr
/-- LoadState of R335. -/
inductive LoadSt | idle | fetching | staged | failed | aborted
  deriving DecidableEq, Repr
/-- Page states of R288. -/
inductive PageSt | free | owned | pulping | retired
  deriving DecidableEq, Repr
/-- Use of a page (R288). -/
inductive PageUse | data | staging | map
  deriving DecidableEq, Repr
/-- Level states of R412. -/
inductive Level | normal | warn | half | quarter | hold
  deriving DecidableEq, Repr
/-- Survey classes of R411. -/
inductive SurveyClass | slow | medium | fast
  deriving DecidableEq, Repr
/-- NMT states of R376. -/
inductive NmtSt | initialising | preOperational | operational | stopped
  deriving DecidableEq, Repr
/-- ReportStatus of R369. -/
inductive ReportSt | empty | building | ready
  deriving DecidableEq, Repr
/-- Why a plate is engraved or pulped (R62, R65, R326, R329, R352, R356, R439). -/
inductive Purpose
  | refresh | inPlace | swap | swapTarget | engage | reengrave | vatPulp | resetPulp
  deriving DecidableEq, Repr
/-- The phase of an engraving (R319). -/
inductive EngPhase | pulp | bites | check | recheck | verify
  deriving DecidableEq, Repr

/-! ## Fuses -/

/-- One TrimEntry of R420. -/
structure TrimEntry where
  readGain : Int := 0
  senseOffset : Int := 0
  senseGain : Int := 0
  proofShift : Int := 0
  verifyShift : Int := 0
  deriving DecidableEq, Repr

/-- Two-point calibration of a diode (R410): codes and temperatures in 1/8 °C. -/
structure DiodeCal where
  code0 : Nat := 1000
  temp0 : Int := -320
  code1 : Nat := 3000
  temp1 : Int := 1000
  deriving DecidableEq, Repr

/-- The one-time-programmable array and the mask ROM (R23, R345, R364, R366, R375, R410, R420, R455). Fused: no reset
changes it. The values here are DESIGN CHOICE (assumption 5). -/
structure Otp where
  /-- 1 bit; R1, R364; fused. -/
  grade : Grade := .aq
  /-- 16 bytes; R348, R369; fused. -/
  serial : List Byte := List.replicate 16 0#8
  /-- 256 bits; R345; fused. -/
  identitySeed : BitVec 256 := 0
  /-- 256 bits; R345; fused. -/
  masterSecret : BitVec 256 := 0
  /-- 256 bits; R345; fused. -/
  ownerDigest : BitVec 256 := 0
  /-- 8 bits; R366; fused. -/
  skuCode : Byte := 0
  /-- 1 bit; R366; fused. -/
  identityFused : Bool := true
  /-- 1 bit; R366; fused. -/
  masterFused : Bool := true
  /-- 1 bit; R366; fused. -/
  ownerFused : Bool := true
  /-- 1 bit; R366; fused. -/
  trimFused : Bool := true
  /-- 8 bits; R375, R397; fused. -/
  nodeId : Byte := 1
  /-- 1 bit; R375, R397; fused (true: HOST_ASSIGNED). -/
  hostAssigned : Bool := false
  /-- up to 4,096 bytes; R367; fused. -/
  chain : List Byte := []
  /-- 256 bits; R364; mask ROM. -/
  maskRomDigest : BitVec 256 := 0
  /-- 512 bits; R455; mask ROM. -/
  imageKey : BitVec 512 := 0
  /-- 5 sets of 68 x 17 TrimEntry, key (set * 68 + press) * 17 + plate; R420; fused. -/
  trims : Tab TrimEntry := []
  /-- 68 entries; R410; fused. -/
  diodes : Tab DiodeCal := []
  /-- 8 x 16 bits per plate, key (press * 17 + plate) * 8 + spare; R52, R77; fused. -/
  rowDefects : Tab (BitVec 16) := []
  /-- 16 x 16 bits per plate, key (press * 17 + plate) * 16 + spare; R52, R77; fused. -/
  colDefects : Tab (BitVec 16) := []
  /-- factory slice failures, key (press * 17 + bank) * 129 + slice; R107; fused. -/
  sliceDefects : Tab Bool := []
  deriving DecidableEq, Repr

/-! ## Settings: the entries that the management node may write and that are plain values (R387) -/

/-- Per-press settings (R75, R107). -/
structure PressCfg where
  /-- 32 bits; R75; 65,536. -/
  proofInterval : BitVec 32 := 65536
  /-- 16 bits; R75; 100. -/
  proofBand : BitVec 16 := 100
  /-- 16 bits; R75; 400. -/
  proofLimit : BitVec 16 := 400
  /-- 16 bits; R107; 256. -/
  shadowDwell : BitVec 16 := 256
  /-- 16 bits; R107; 200. -/
  sliceFailLimit : BitVec 16 := 200
  /-- 8 bits; R107; 4. -/
  sliceFailCount : BitVec 8 := 4
  /-- 16 bits; R107; 4,096. -/
  spareCheckInterval : BitVec 16 := 4096
  /-- 1 bit; R107; TRUE. -/
  powerDownEnable : Bool := true
  deriving DecidableEq, Repr

/-- Device-wide settings. -/
structure Settings where
  /-- 16 bits; R396; 1,000 ms. -/
  heartbeatTime : BitVec 16 := 1000
  /-- 8 bits; R146; 3. -/
  cmRepeatLimit : BitVec 8 := 3
  /-- 1 bit; R146; TRUE. -/
  clipRepeatEnable : Bool := true
  /-- 8 bits; R146; 7. -/
  maxScaleStep : BitVec 8 := 7
  /-- 32 bits; R146; 65,536. -/
  satWindow : BitVec 32 := 65536
  /-- 32 bits; R146; 64. -/
  satThreshold : BitVec 32 := 64
  /-- 16 bits; R146; 256. -/
  coarseRatio : BitVec 16 := 256
  /-- 8 bits; R146; 8. -/
  blockQuietSteps : BitVec 8 := 8
  /-- 8 bits; R185; 64. -/
  spillInterval : BitVec 8 := 64
  /-- 8 bits; R185; 3. -/
  overflowRepeatLimit : BitVec 8 := 3
  /-- 16 bits; R185; 1,024. -/
  scrubRowInterval : BitVec 16 := 1024
  /-- 16 bits signed; R427, R412; 105 (AQ). -/
  warnThreshold : BitVec 16 := 105
  /-- 16 bits signed; R427, R412; 110 (AQ). -/
  halfThreshold : BitVec 16 := 110
  /-- 16 bits signed; R427, R412; 115 (AQ). -/
  quarterThreshold : BitVec 16 := 115
  /-- 16 bits signed; R427, R412; 125 (AQ). -/
  holdThreshold : BitVec 16 := 125
  /-- 8 bits; R427; 3. -/
  thermHysteresis : BitVec 8 := 3
  /-- 16 bits; R427; 50. -/
  riseLimit : BitVec 16 := 50
  /-- 16 bits; R428; 110. -/
  packageMax : BitVec 16 := 110
  /-- 8 bits; R428; 0. -/
  lendOrder : BitVec 8 := 0
  /-- 8 bits; R434; 8. -/
  trimStep : BitVec 8 := 8
  /-- 16 bits; R434; 10. -/
  trimFenceWait : BitVec 16 := 10
  /-- 32 bits; R434; 16,200. -/
  refreshStepInterval : BitVec 32 := 16200
  /-- 8 bits; R434; 18. -/
  refreshOverdueSteps : BitVec 8 := 18
  /-- 32 bits; R301; 65,536. -/
  replacementReserve : BitVec 32 := 65536
  /-- 8 bits; R301; 16. -/
  retireThreshold : BitVec 8 := 16
  /-- 16 bits; R301; 24. -/
  scrubPeriod : BitVec 16 := 24
  /-- 8 bits; R301; 64. -/
  pulpShare : BitVec 8 := 64
  /-- 8 x 8 bits, key vat; R301; 32 each. -/
  memoryWeight : Tab (BitVec 8) := []
  /-- 16 bits; R333; 100. -/
  quireTimeout : BitVec 16 := 100
  /-- 8 bits; R333; 64. -/
  biteLimit : BitVec 8 := 64
  /-- 16 bits; R333; 50. -/
  engraveCheckLimit : BitVec 16 := 50
  /-- 32 bits; R333; 900,000. -/
  enduranceWarn : BitVec 32 := 900000
  /-- 32 bits; R397, R373; 0x1010_3F02. -/
  nominalBitTiming : BitVec 32 := 0x10103F02
  /-- 32 bits; R397, R373; 0x0A0A_1D01. -/
  dataBitTiming : BitVec 32 := 0x0A0A1D01
  /-- 16 bits; R397; 60. -/
  sessionIdle : BitVec 16 := 60
  /-- 8 bits; R397; 16. -/
  authFailLimit : BitVec 8 := 16
  /-- 2 x 16 bits, key converter; R431; 10 each. -/
  calInterval : Tab (BitVec 16) := []
  /-- 2 x 3 x 8 bits, key converter * 3 + slot; R431; 0. -/
  injectedChannel : Tab (BitVec 8) := []
  /-- 2 x 64 x 32 bits, key converter * 64 + channel; R433; 0x0FFF_0000. -/
  channelWindow : Tab (BitVec 32) := []
  /-- 8 bits; R149; 0. -/
  statsDebugMaxAbs : BitVec 8 := 0
  /-- 4 x 16 bits: SustainedBudget, AnalogueShare, DigitalShare, EngravingReserve; R428; 90, 36, 22, 8. -/
  budgetPlan : List (BitVec 16) := [90, 36, 22, 8]
  deriving DecidableEq, Repr

/-! ## Events (R398) -/

/-- An EventRecord. -/
structure Event where
  code : BitVec 16
  errorRegister : Byte
  sequence : BitVec 32
  press : Byte
  unit : Byte
  vat : Byte
  detail : List Byte
  deriving DecidableEq, Repr

/-- The event log and the EMCY queue. -/
structure Events where
  /-- 32 bits; R397; 0. -/
  newest : BitVec 32 := 0
  /-- up to 1,024 records, newest first; R398; empty. -/
  log : List Event := []
  /-- up to 64 records, oldest first; R398; empty. -/
  emcy : List Event := []
  /-- 32 bits; R397; 0. -/
  skipped : BitVec 32 := 0
  /-- 32 bits; R397; 0. -/
  ack : BitVec 32 := 0
  /-- 32 bits; R397 (management node's query); 0. -/
  queryM : BitVec 32 := 0
  /-- 32 bits; R397 (host physical function's query); 0. -/
  queryH : BitVec 32 := 0
  deriving DecidableEq, Repr

/-! ## Jobs -/

/-- A job descriptor (R211), field by field. -/
structure Descriptor where
  scaleAddress : BitVec 48
  preloadAddress : BitVec 48
  dstAddress : BitVec 48
  srcAddress : BitVec 48
  k : BitVec 32
  n : BitVec 32
  m : BitVec 32
  waitValue : BitVec 32
  claimCounter : BitVec 9
  syncCounter : BitVec 9
  inputBf16 : Bool
  feltBase : BitVec 13
  extentIndirect : BitVec 3
  claimed : Bool
  waitOnCounter : Bool
  signalOnDone : Bool
  afterPrior : Bool
  accMode16 : Bool
  stippleInput16 : Bool
  oz4030 : Bool
  disableJoin : Bool
  disableActivation : Bool
  feltMode : BitVec 2
  preloadSelect : BitVec 3
  outputFormat : BitVec 3
  scaleSource : BitVec 2
  resolution : BitVec 2
  sliced : Bool
  plateCount : BitVec 5
  plateFirst : BitVec 4
  macroSet : BitVec 2
  pressIndex : BitVec 6
  epoch : BitVec 16
  stream : BitVec 12
  vat : BitVec 3
  opcode : BitVec 8
  hostTag : BitVec 64
  deriving DecidableEq, Repr

/-- VectorParams (R194), field by field. -/
structure VectorParams where
  params : List (BitVec 16)
  rowCount : BitVec 32
  rowLength : BitVec 32
  dst : BitVec 64
  src2 : BitVec 64
  src1 : BitVec 64
  src0 : BitVec 64
  headDim : BitVec 9
  count : BitVec 7
  keepStats : Bool
  topKEntries : Bool
  topKMin : Bool
  stochasticRound : Bool
  activationEnable : Bool
  activationTable : BitVec 3
  decodeBook : BitVec 4
  outFormat : BitVec 4
  inFormat : BitVec 4
  op : BitVec 8
  deriving DecidableEq, Repr

/-- What one token of a stipple job needs: its codes, s_x and the bytes of its preload (R164, R182). -/
structure LaneIn where
  codes : List Int := []
  sx : BitVec 16 := 0
  bias : List Byte := []
  rest : List Byte := []
  deriving DecidableEq, Repr

/-- The accumulation of one output: A of R172 at an AccShift, and whether an add saturated in it (R176). -/
structure Summed where
  value : Int := 0
  shift : Nat := 0
  sat : Bool := false
  deriving DecidableEq, Repr

/-- A token lane of one macro: its AccShift, whether a wrap repeat runs it in 32-bit mode, its span (the input bits that its
registers have taken or are to take since they were last cleared, as places in the order of issue; none: all of the token's),
whether the preload is outside the span, the bits of the span issued so far, and its sums once it is drained (R154, R168, R171
to R175). -/
structure LaneRun where
  shift : Nat := 0
  wide : Bool := false
  span : Option (List Nat) := none
  bare : Bool := false
  issued : Nat := 0
  out : Option (List Summed) := none
  deriving DecidableEq, Repr

/-- A token on a lane: its number, its input, and its run on each macro of the job (R155). -/
structure StippleLane where
  token : Nat
  input : LaneIn
  runs : List LaneRun
  deriving DecidableEq, Repr

/-- The stage of a stipple operand: outlier rows, the A stage of an adapter, its B stage with s_j and the codes q_k of the A
stage, from which a repeat runs it again (R173, R178, R179). -/
inductive OperandStage
  | outlier
  | stageA
  | stageB (scale : BitVec 16) (rows : List Int)
  deriving DecidableEq, Repr

/-- A stipple operand of a pass of a PLATE job, on the registers of a macro: AccReg i of segment i in SEGMENTED mode, AccReg 0
in WHOLE mode (R155, R178 to R181). -/
structure OperandRun where
  token : Nat
  unit : Nat
  /-- 4 bits: the PassTag of its pass; R181. -/
  tag : Nat
  stage : OperandStage
  /-- The macro, and the row group with its half in SEGMENTED mode; R155. -/
  mac : Nat
  group : Nat
  half : Bool
  /-- The codes that the stage issues, of so many bits; R130, R154, R179. -/
  codes : List Int
  bits : Nat
  /-- s_o or s_a, and INT4 input of the plate; R130, R179. -/
  scale : BitVec 16
  int4 : Bool
  /-- A wrap repeat runs the A stage in 32-bit mode; R175. -/
  wide : Bool := false
  /-- Its span, and the bits of it issued so far, as in a token lane; R168, R173. -/
  span : Option (List Nat) := none
  issued : Nat := 0
  deriving DecidableEq, Repr

/-- A stipple operand as it reaches the output stage: B_n and s_j (R124, R181). -/
structure Operand where
  token : Nat
  unit : Nat
  tag : Nat
  sums : List Int
  scale : BitVec 16
  deriving DecidableEq, Repr

/-- A job from its fetch to its post (R211, R220, R222, R232, R269). -/
structure Job where
  desc : Descriptor
  stream : StreamId
  sqIndex : BitVec 16
  /-- Counter of its descriptor (R263). -/
  counter : BitVec 64
  /-- Order of placement on its press (R233). -/
  order : Nat := 0
  state : SlotSt := .issued
  /-- Extents after R217. -/
  m : Nat := 0
  n : Nat := 0
  k : Nat := 0
  /-- Limit read at issue for a claimed job (R238). -/
  limit : Nat := 0
  vp : Option VectorParams := none
  /-- Waits (R232): counter reached; epoch barrier. -/
  counterMet : Bool := true
  barrier : Bool := false
  /-- The mailbox entry that it named when it was admitted, and the one it reserved (R273). -/
  names : Option (Fin 4) := none
  mailbox : Option (Fin 4) := none
  /-- Outcomes (R222). -/
  internal : Bool := false
  vatResetting : Bool := false
  vatPulping : Bool := false
  sealFail : Bool := false
  scaleSkew : Bool := false
  rescaled : Bool := false
  saturated : Bool := false
  reissued : Bool := false
  accSaturated : Bool := false
  notOwned : Bool := false
  /-- The status of a check of R216 or R218 that ended it. -/
  checkStatus : Option (BitVec 8) := none
  cause : BitVec 8 := 0
  committed : Nat := 0
  saturatedPasses : Nat := 0
  drainWait : Nat := 0
  /-- Next token to start, tokens committed in the running chunk, next PassTag (R88). -/
  next : Nat := 0
  doneTokens : Nat := 0
  tag : Nat := 0
  /-- Contributions committed for SLICED tokens: token, count (R225). -/
  slices : Tab Nat := []
  /-- y of units' stipple operands kept for the last unit of a SLICED job: key token, list of (unit, B, s_j) (R225). -/
  joins : List (Nat × Nat × List Int × BitVec 16) := []
  /-- The next token that each entry unit of the set takes, where it is beyond `next` (R225, R234). -/
  fed : List Nat := []
  /-- Stipple operands whose bits are issued, oldest first, and those that wait for their passes (R178 to R181). -/
  operandRuns : List OperandRun := []
  operands : List Operand := []
  /-- Outputs of STREAMED tokens that wait for those of earlier tokens (R226). -/
  lateOut : List (Nat × List Byte) := []
  /-- Felt entries touched by this job (R171). -/
  feltSeen : Tab Bool := []
  /-- Chunk in hand of a claimed job, and whether EXHAUSTED or LEDGER_FULL was answered (R238, R239). -/
  chunk : Option Nat := none
  exhausted : Bool := false
  ledgerFull : Bool := false
  /-- An input block, a drain or a load that has been asked for (R168, R229). -/
  draining : Bool := false
  loading : Bool := false
  /-- The tokens that a stipple job has on its lanes, by lane (R155). -/
  batch : List StippleLane := []
  /-- Energy in picojoules already admitted for the vector work it starts next (R38, R417). -/
  funded : Nat := 0
  /-- AccumulatorWords of an accepted drain (R168). -/
  drainWords : List (BitVec 64) := []
  /-- Blocks of host memory verified for it; key 2 x block + channel (R267, R276). -/
  arrived : Tab Bool := []
  /-- Blocks read with another BlockSeq, not read again before the next write to their channel's register; same key
  (R276). -/
  stale : Tab Bool := []
  /-- Tokens whose outputs are committed: CommittedTokens counts the leading ones (R220, R267). -/
  tokensDone : Tab Bool := []
  /-- SyncCounter waits for operations that the job issued and that are held at their source (R235, R439 step 3). -/
  signalDue : Bool := false
  /-- Output bytes for host memory not yet written, key bounce offset (R268). -/
  hostOut : Tab (Option Byte) := []
  /-- Parts of host blocks of the job or chunk that have been written once, key the bounce offset of the part (R268). -/
  hostDone : Tab Bool := []
  /-- Output bytes for a mailbox, up to 16 (R274). -/
  mailOut : List Byte := []
  deriving DecidableEq, Repr

/-! ## Streams (R255 to R275) -/

/-- A mailbox entry. -/
structure Mailbox where
  /-- R273; FREE. -/
  state : MailSt := .free
  /-- 16 bits; R273; 0. -/
  generation : BitVec 16 := 0
  /-- 8 bits; R275; 0. -/
  status : BitVec 8 := 0
  /-- 16 bits; R275; 0. -/
  epoch : BitVec 16 := 0
  /-- 8 bits; R275; 0. -/
  outputLength : BitVec 8 := 0
  /-- 64 bits; R274; 0. -/
  counter : BitVec 64 := 0
  /-- 32 bytes; R274; 0. -/
  ciphertext : List Byte := []
  /-- 128 bits; R274; 0. -/
  tag : BitVec 128 := 0
  deriving DecidableEq, Repr

/-- The registers of a stream's window that host software sets while the stream is ALLOCATED (R256, R257). -/
structure StreamCfg where
  /-- 64 bits; R257; 0. -/
  sqBase : BitVec 64 := 0
  /-- 64 bits; R257; 0. -/
  cqBase : BitVec 64 := 0
  /-- 64 bits; R257; 0. -/
  bounceBase : BitVec 64 := 0
  /-- 32 bits; R259; 0. -/
  ringConfig : BitVec 32 := 0
  /-- 32 bits; R257; 0. -/
  bounceBlocks : BitVec 32 := 0
  /-- 32 bits; R257; 0. -/
  irqConfig : BitVec 32 := 0
  deriving DecidableEq, Repr

/-- A stream: its window registers, its keys and what the bridge holds for it. -/
structure Stream where
  /-- 3 bits; R255, R258; FREE. -/
  state : StreamSt := .free
  /-- Registers of R257; 0. -/
  cfg : StreamCfg := {}
  /-- 16 bits; R257; 0. -/
  sqTail : BitVec 16 := 0
  /-- 16 bits; R257; 0. -/
  sqHead : BitVec 16 := 0
  /-- 16 bits; R257; 0. -/
  cqHead : BitVec 16 := 0
  /-- 16 bits; R257; 0. -/
  cqTail : BitVec 16 := 0
  /-- 1 bit; R269; 1 in the first pass. -/
  phase : Bool := true
  /-- 16 bits; R257, R276; 0. -/
  dataPosted : BitVec 16 := 0
  /-- 16 bits; R257, R276; 0. -/
  scalePosted : BitVec 16 := 0
  /-- 32 bits; R257; 0. -/
  submitted : BitVec 32 := 0
  /-- 32 bits; R257; 0. -/
  fetched : BitVec 32 := 0
  /-- 32 bits; R257; 0. -/
  dropped : BitVec 32 := 0
  /-- 32 bits; R257; 0. -/
  returned : BitVec 32 := 0
  /-- 32 bits; R257; 0. -/
  doorbellRejects : BitVec 32 := 0
  /-- 32 bits; R257; 0. -/
  sealFailures : BitVec 32 := 0
  /-- 64 bits; R257, R265; 0. -/
  inbound : BitVec 64 := 0
  /-- 64 bits; R257, R265; 0. -/
  outbound : BitVec 64 := 0
  /-- 16 bits; R260; 0. -/
  query : BitVec 16 := 0
  /-- 1 bit; R258; 0. -/
  configError : Bool := false
  /-- 1 bit; R258; 0. -/
  counterWarn : Bool := false
  /-- 128 bits; R345; none. -/
  key : Option (BitVec 128) := none
  /-- The agreed key that waits to be installed (R350); none. -/
  newKey : Option (BitVec 128) := none
  /-- An exchange has been asked for and has not ended (R349); no. -/
  exchange : Bool := false
  /-- Descriptors of the doorbell being handled still to fetch, and to drop after them (R264); 0. -/
  grant : Nat := 0
  condemned : Nat := 0
  /-- Written and unconsumed records, oldest first; true is a CREDIT_VIOLATION record (R264, R272); none. -/
  records : List Bool := []
  /-- Posts since the last MSI-X message (R271); 0. -/
  unsignalled : Nat := 0
  /-- Admitted jobs that wait in the bridge, oldest first (R233); none. -/
  bridge : List Job := []
  /-- Jobs that the bridge ended and has not posted (R216, R233, R264); none. -/
  ended : List Job := []
  /-- 4 entries (R273). -/
  mailboxes : Tab Mailbox := []
  /-- The reset running was begun in CLOSING (R447); no. -/
  resetFromClosing : Bool := false
  deriving DecidableEq, Repr

/-- The dictionary mailbox of a function (R392) and its power state and vectors (R246, R278). -/
structure FnRec where
  /-- 1,088 bytes; R392; 0. -/
  request : List Byte := []
  /-- 12 bits; R392; 0. -/
  requestLength : BitVec 12 := 0
  /-- up to 1,088 bytes; R392; 0. -/
  response : List Byte := []
  /-- 8 bits; R392; 0. -/
  result : BitVec 8 := 0
  /-- 1 bit; R392; 0. -/
  done : Bool := false
  /-- 1 bit; R392; 0. -/
  busy : Bool := false
  /-- The plain Data of the SEALED request that the bridge accepted (R394); none. -/
  sealedData : Option (List Byte) := none
  /-- 1 bit; R246; D0. -/
  d3hot : Bool := false
  /-- 32 bits: vectors unmasked; R278, R250; all masked. -/
  unmasked : Tab Bool := []
  /-- 32 bits: pending; R278; 0. -/
  pendingBits : Tab Bool := []
  /-- 64 bits per vector: message addresses of the MSI-X table; R278; 0 (assumption 74). -/
  msgAddress : Tab (BitVec 64) := []
  /-- 32 bits per vector: message data of the MSI-X table; R278; 0 (assumption 74). -/
  msgData : Tab (BitVec 32) := []
  /-- Max Payload Size 128 x 2^n bytes, n 0 to 2; R245; 0 (assumption 73). -/
  maxPayload : BitVec 3 := 0
  /-- Max Read Request Size 128 x 2^n bytes, n 0 to 5; R245; 2 (assumption 73). -/
  maxReadRequest : BitVec 3 := 2
  /-- Messages sent per vector (the model's record of what leaves the device; R271, R278); 0. -/
  sent : Tab Nat := []
  /-- Messages held in D3hot, oldest first (R246); none. -/
  held : List Nat := []
  deriving DecidableEq, Repr

/-- The host bridge and the link (R245 to R280). -/
structure Bridge where
  /-- 4 bits; R248; 0. -/
  numVfs : Fn := 0
  /-- Width and speed; R279; down. -/
  link : Option (LinkWidth × LinkSpeed) := none
  /-- 16 bits; R279; 0. -/
  linkRetrains : BitVec 16 := 0
  /-- 1 bit: the link has trained since start-up (R279); no. -/
  trainedOnce : Bool := false
  /-- 32 bits; R279; 0. -/
  droppedTotal : BitVec 32 := 0
  /-- 32 bits; R279; 0. -/
  sealFailuresTotal : BitVec 32 := 0
  /-- The stream after which the round-robin goes on (R264); 0. -/
  rr : Nat := 0
  /-- Key exchanges asked for, oldest first (R349); none. -/
  exchanges : List StreamId := []
  /-- The word that the last read of StreamOpen or MailboxHead returned (the model's record; R254, R275); 0. -/
  lastRead : BitVec 64 := 0
  /-- First error pointer of the last logged error (R280); none. -/
  aer : Option (BitVec 8) := none
  /-- 32 bits: uncorrectable error status of Advanced Error Reporting; R245; 0 (assumption 73). -/
  aerStatus : BitVec 32 := 0
  /-- ECRC generation enabled; R245; no (assumption 73). -/
  ecrcGeneration : Bool := false
  /-- ECRC checking enabled; R245; no (assumption 73). -/
  ecrcChecking : Bool := false
  /-- 9 functions. -/
  fns : Tab FnRec := []
  deriving DecidableEq, Repr

/-! ## The counter bank (R236) -/

/-- A work counter. -/
structure Counter where
  /-- 64 bits; R236; 0. -/
  value : BitVec 64 := 0
  /-- 64 bits; R236; 0. -/
  limit : BitVec 64 := 0
  /-- up to 256 claims: physical press, index; R236; empty. -/
  ledger : List (Press × Nat) := []
  /-- up to 256 indices, oldest first; R236; empty. -/
  returns : List Nat := []
  deriving DecidableEq, Repr

/-! ## Package memory (R281 to R302) -/

/-- A page-map entry (R288). -/
structure PageEntry where
  state : PageSt := .free
  vat : Nat := 0
  forwarded : Bool := false
  use : PageUse := .data
  corrected : Nat := 0
  forwardFrame : Nat := 0
  vatPage : Nat := 0
  deriving DecidableEq, Repr

/-- A request to a page under copy (R298 step 2): an access of the hub, a remote operation, or the part on one page of a get
over several, by the number of the get and its address and length. -/
inductive HeldAccess
  | access (a : BitVec 46) (op : MemOp) (e : Ecc) (job : Option (Press × Slot))
  | remote (op : RemoteOp)
  | part (id a n : Nat)
  deriving DecidableEq, Repr

/-- A live copy that runs (R298): frame, replacement, vat, vat page and cause, with the requests held, oldest first. -/
structure Copy where
  frame : Nat
  target : Nat
  vat : Vat
  vatPage : Nat
  cause : Nat
  held : List HeldAccess := []
  deriving DecidableEq, Repr

/-- A get over several pages of which one was under copy (R27, R298): its number, the operation, and the parts read so far
by address, none where one failed. -/
structure Gather where
  id : Nat
  op : RemoteOp
  parts : List (Nat × Option (List Byte))
  deriving DecidableEq, Repr

/-- The hubs. -/
structure Hubs where
  /-- 16,777,216 entries of 64 bits; R287, R288; FREE. -/
  map : Tab PageEntry := []
  /-- 32 GiB, key physical byte address; R281; unlisted bytes read 0 (R300; before start-up assumption 6). -/
  mem : Tab Byte := []
  /-- Poisoned 64-bit words, key word address; R284; none. -/
  poison : Tab Bool := []
  /-- Copies that run; R298; none. -/
  copies : List Copy := []
  /-- Gets that wait for parts on pages under copy, and the number of the next one; R27, R298; none, 0. -/
  gathers : List Gather := []
  nextGather : Nat := 0
  /-- 32 bits; R301; 0. -/
  correctedTotal : BitVec 32 := 0
  /-- 32 bits; R301; 0. -/
  uncorrectableTotal : BitVec 32 := 0
  /-- 32 bits; R301; 0. -/
  pageQuery : BitVec 32 := 0
  /-- A vat has been configured since start-up (R300, R301); no. -/
  everConfigured : Bool := false
  /-- The bytes that the last read returned (the model's record of a response; R284, R294); none. -/
  lastRead : List Byte := []
  /-- The last read returned an error (R284); no. -/
  lastError : Bool := false
  deriving DecidableEq, Repr

/-! ## Reams (R303 to R337) -/

/-- A section of a decrypted payload (R306). -/
structure Section where
  type : Nat
  edition : Nat
  press : Nat
  unit : Nat
  param0 : Nat
  param1 : Nat
  body : List Byte
  deriving DecidableEq, Repr

/-- A staged ream. -/
structure Ream where
  /-- 256 bits; R308. -/
  digest : BitVec 256
  isProtected : Bool
  editionCount : Nat
  sections : List Section := []
  /-- Staging pages held (R310). -/
  pages : Nat := 0
  /-- Which pages of the staging area it holds, in the order of its sections (R310; assumption 96). -/
  held : List Nat := []
  deriving DecidableEq, Repr

/-- A manifest after its checks (R303, R304): this device's record and quires. -/
structure Manifest where
  reamId : BitVec 64
  publisherKey : BitVec 512
  digest : BitVec 256
  isProtected : Bool
  editionCount : Nat
  stagedPages : Nat
  /-- Quires of this device: number, length, digest. -/
  own : List (Nat × Nat × BitVec 256)
  /-- Quire numbers of other devices. -/
  foreign : List Nat
  deriving DecidableEq, Repr

/-- The load of a vat (R312 to R318, R335). -/
structure Load where
  state : LoadSt := .idle
  stream : StreamId := 0
  offset : Nat := 0
  length : Nat := 0
  manifest : Option Manifest := none
  /-- 128 bits; R345; erased when LoadState leaves FETCHING. -/
  contentKey : Option (BitVec 128) := none
  /-- Quires whose read is in progress: number, bounce offset (R316). -/
  reading : List (Nat × Nat) := []
  verified : List Nat := []
  expected : Nat := 0
  result : BitVec 8 := 0
  failCause : BitVec 8 := 0
  failedQuire : BitVec 16 := 0
  deriving DecidableEq, Repr

/-- The swap of a vat (R325 to R329, R337). -/
structure Swap where
  active : Bool := false
  epoch : BitVec 16 := 0
  fromPending : Bool := false
  edition : Nat := 0
  /-- Physical plates still to be engraved or pulped (R337). -/
  todo : List (Press × Plate) := []
  /-- Macros whose stipple sections still have to be loaded (R326, step 3). -/
  stippleTodo : List (Press × Macro) := []
  deriving DecidableEq, Repr

/-- One set of a vat's tables (R147, R328): what a ream loaded; the rest keeps the defaults. -/
structure TableSet where
  activations : Tab (List Byte) := []
  books : Tab (List Byte) := []
  deriving DecidableEq, Repr

/-! ## Vats (R342, R368) -/

/-- A vat. -/
structure VatRec where
  /-- 8 bits; R343; OFF. -/
  state : VatSt := .off
  /-- 64 x 8 bits, key element; R368; 0xFF. -/
  pressMap : Tab (BitVec 8) := []
  /-- 32 bits; R368; 0. -/
  quotaBase : BitVec 32 := 0
  /-- 32 bits; R368; 0. -/
  quotaPages : BitVec 32 := 0
  /-- 16 bits; R368; 0. -/
  streamBase : BitVec 16 := 0
  /-- 16 bits; R368; 0. -/
  streamCount : BitVec 16 := 0
  /-- 256 bits; R368; 0. -/
  tenantKey : BitVec 256 := 0
  /-- 256 bits; R334; 0. -/
  publisherKey : BitVec 256 := 0
  /-- 32 bits; R334; 0. -/
  stagingPages : BitVec 32 := 0
  /-- 8 bits; R368; OFF. -/
  debug : DebugSt := .off
  /-- 16 bits; R368; 0. -/
  debugCount : BitVec 16 := 0
  /-- Pulping for debug entry rather than PULP (R352); no. -/
  pulpForDebug : Bool := false
  /-- Pulping for a device reset (R448); no. -/
  pulpForReset : Bool := false
  /-- Plates and pages of the pulp (R354); 0. -/
  platesTotal : Nat := 0
  pagesTotal : Nat := 0
  /-- 16 bits; R368, R355; 0. -/
  padWatts : BitVec 16 := 0
  /-- The hold of R355: full windows still to pass after step 9; 0. -/
  padHold : Nat := 0
  /-- 16 bits; R368, R361; 0. -/
  power : BitVec 16 := 0
  /-- Energy of the vat's work in the running 1 s window, in microjoules (R361); 0. -/
  powerSum : Nat := 0
  /-- 1,024 x 16 bits, oldest first; R370; 0. -/
  powerTrace : List (BitVec 16) := []
  /-- 5 exact counts in the order of R360: passes, bits, operations, bytes, completions; R370; 0. -/
  exact : List Nat := [0, 0, 0, 0, 0]
  /-- 5 x 32 bits: the activity entries as last refreshed; R360, R368; 0. -/
  shown : List (BitVec 32) := [0, 0, 0, 0, 0]
  /-- 64 x 64 bits, key vat-relative press; R370; 0. -/
  busy : Tab Nat := []
  /-- 16 bits; R334, R241; 0x0000. -/
  currentEpoch : BitVec 16 := 0
  /-- 16 bits; R337, R325; none. -/
  incomingEpoch : Option (BitVec 16) := none
  /-- R311; none. -/
  active : Option Ream := none
  /-- R311; none. -/
  pendingReam : Option Ream := none
  /-- R335; IDLE. -/
  load : Load := {}
  /-- R337; IDLE. -/
  swap : Swap := {}
  /-- Epochs of the active ream, with the set of tables that serves them, newest first (R328); none. -/
  epochs : List (BitVec 16 × Bool) := []
  /-- The two sets of tables (R328); defaults. -/
  tableSet0 : TableSet := {}
  tableSet1 : TableSet := {}
  /-- The set of the current epoch: false the first (R328); false. -/
  tableNow : Bool := false
  /-- 16 bits; R334; 0. -/
  foreignPosts : BitVec 16 := 0
  /-- Ream digests held when PULPING or RESETTING began (R365); 0. -/
  voidActive : BitVec 256 := 0
  voidPending : BitVec 256 := 0
  deriving DecidableEq, Repr

/-! ## The plate path -/

/-- One attempt of a pass of a token on a plate (R88, R112, R114, R134); in the replay store, with its input elements. -/
structure Pass where
  slot : Slot
  token : Nat
  /-- Position of its plate or couch in the set. -/
  unit : Nat
  /-- 4 bits; R88. -/
  tag : Nat := 0
  /-- 512 row codes deposited on this plate, -127 to 127 (R46). -/
  codes : List Int := []
  /-- Sum of the deposited row codes over all rows of the pass (R121). -/
  rowSum : Int := 0
  /-- Token scale of the first attempt (R123). -/
  scale : BitVec 16 := 0
  /-- INT4 input and the zero point (R114, R120). -/
  int4 : Bool := false
  zero : Int := 0
  /-- Drive halvings and scale step (R134), the AccShift of an overflow repeat (R174), a clip repeat has run. -/
  h : Nat := 0
  step : Nat := 0
  shift : Nat := 0
  clipRepeated : Bool := false
  /-- CmRepeatLimit, ClipRepeatEnable and MaxScaleStep as they were when the pass was formed (R146). -/
  cmLimit : Nat := 3
  clipEnable : Bool := true
  maxStep : Nat := 7
  /-- The attempt is a repeat (R131); the committed attempt is saturated (R136). -/
  repeated : Bool := false
  saturated : Bool := false
  /-- Stored or streamed input, whose scale the job supplies (R113, R133). -/
  stored : Bool := false
  /-- Elements of the replay store (R132): words in FP16, BF16 or codes by format 0, 1, 2; and m of R114. -/
  inputs : List (BitVec 16) := []
  inFmt : Nat := 0
  mNum : Nat := 0
  mDen : Nat := 1
  /-- The stipple operand: integer sums of the columns and s_j (R124, R130, R179); empty when there is none. -/
  operand : List Int := []
  operandScale : BitVec 16 := 0
  /-- The frame of the bank that deposits it before which it is not deposited (R93, R131); of a sensed attempt, the frames
  of the sensing bank, and of BE where the next unit is a couch, from which its result may go on, and of the upstream bank,
  and of BE in a couch, from which its repeat may be deposited. -/
  notBefore : Nat := 0
  forwardAt : Nat := 0
  forwardOddAt : Nat := 0
  repeatAt : Nat := 0
  repeatOddAt : Nat := 0
  deriving DecidableEq, Repr

/-- The sense side of the output-stage registers (R117, R307). -/
structure SenseRegs where
  /-- 32 bits, bits [15:10] used; R120, R148; 0. -/
  control : BitVec 32 := 0
  /-- 512 x 16 bits, the rest 0x3C00; R148. -/
  columnScale : List (BitVec 16) := []
  /-- 512 x 16 bits, the rest 0x3C00; R148. -/
  joinScale : List (BitVec 16) := []
  /-- 512 x 32 bits, the rest 0; R148. -/
  columnOffset : List (BitVec 32) := []
  /-- 512 x 16 bits, the rest -516; R148. -/
  rowSumCoef : List (BitVec 16) := []
  deriving DecidableEq, Repr

/-- The drive side of the output-stage registers (R117, R307). -/
structure DriveRegs where
  /-- 32 bits, bits [31:16] used; R120, R148; 0. -/
  control : BitVec 32 := 0
  /-- 16 bits; R148; 0x7C00. -/
  alpha : BitVec 16 := 0x7C00
  /-- 32 x 16 bits, the rest 0; R148. -/
  outliers : List (BitVec 16) := []
  deriving DecidableEq, Repr

/-- What a plate is engraved to, with the registers that go with it (R62 step 4, R307, R326 step 4, R440). -/
structure Content where
  /-- 131,072 bytes of weight codes (R307). -/
  codes : List Byte := []
  /-- 32 bytes; empty stands for the default (R44). -/
  codebook : List Byte := []
  fullScaleShift : Nat := 3
  couch : Couch := .none
  epoch : BitVec 16 := 0
  sense : Option SenseRegs := none
  drive : Option DriveRegs := none
  /-- Its sections in the staging area: digest of their ream, edition, logical plate (R62, R310). -/
  staged : Option (BitVec 256 × Nat × Nat) := none
  deriving DecidableEq, Repr

/-- A plate (R40, R75 to R78). -/
structure PlateRec where
  /-- 3 bits; R76; BLANK. -/
  state : PlateSt := .blank
  /-- 1 bit; R76; 0. -/
  priority : Bool := false
  /-- Couch mode of its pair when engraved; R67; NONE. -/
  couch : Couch := .none
  /-- 3 bits; R75, R49; 3. -/
  fullScaleShift : Nat := 3
  /-- 32 bytes; R75, R44; empty stands for the default of R45. -/
  codebook : List Byte := []
  /-- 131,072 bytes of weight codes as engraved (R307); empty: every cell pulped. -/
  codes : List Byte := []
  /-- 16 bits; R241; 0x0000. -/
  epoch : BitVec 16 := 0
  /-- The staged sections of its content (R62 step 4, R310); none. -/
  staged : Option (BitVec 256 × Nat × Nat) := none
  /-- 8 x 16 bits, key spare; R77; factory. -/
  rowMap : Tab (BitVec 16) := []
  /-- 16 x 16 bits, key spare; R77; factory. -/
  colMap : Tab (BitVec 16) := []
  /-- Disabled proof columns; R59, R76; none. -/
  proofDisabled : List (Fin 8) := []
  /-- 8 bits; R78; 0. -/
  outside : BitVec 8 := 0
  /-- 16 bits; R78; 0. -/
  columnResult : BitVec 16 := 0
  /-- 32 bits; R75; 0. -/
  cmTripCount : BitVec 32 := 0
  /-- 16 bits; R75; 0. -/
  proofTrips : BitVec 16 := 0
  /-- Plate passes since the last proof pass (R56); 0. -/
  passes : Nat := 0
  /-- Window centres of the proof columns in twelve-bit LSBs and the reading at their verify (R55, R99, R422); 0. -/
  centres : List Int := []
  verifyTemp : Int := 0
  /-- Drift-equivalent time in microseconds / 2^16 (R426); 0. -/
  driftAge : Nat := 0
  /-- REFRESH_OVERDUE was raised since the last engraving (R426); no. -/
  overdue : Bool := false
  /-- 32 bits; R330; 0. -/
  ledger : BitVec 32 := 0
  /-- ENDURANCE_WARN was raised (R332); no. -/
  warned : Bool := false
  /-- Passes held in the integrators, oldest first, at most two (R87); none. -/
  integrators : List Pass := []
  /-- The order of the job whose pass was deposited last (R233, R423); none. -/
  openJob : Option Nat := none
  /-- Out of job service under R58 or R65; no. -/
  outOfService : Bool := false
  /-- PROOF_LIMIT was raised since the plate's last engraving (R58, R79); no. -/
  limitTripped : Bool := false
  /-- Engraved for a swap, and LIVE with this content once step 3 of R326 has finished; none. -/
  ready : Option Content := none
  /-- No new pass starts on the plate before its forced fence (R424); no. -/
  fenceHold : Bool := false
  /-- It is being refreshed in place (R65); no. -/
  inPlace : Bool := false
  /-- ProofInterval as its last proof pass or its verify took it (R75); 65,536. -/
  proofGoal : Nat := 65536
  deriving DecidableEq, Repr

/-- The output-stage registers of a bank (R117, R148): what a ream loaded; none stands for the defaults of the active
personality image (R307, R457). -/
structure OutRegs where
  sense : Option SenseRegs := none
  drive : Option DriveRegs := none
  deriving DecidableEq, Repr

/-- A slice bank with its output stage (R80 to R109, R117, R149). -/
structure Bank where
  /-- 3 bits; R108; WORKING. -/
  state : BankSt := .working
  /-- 8 bits; R108; 0xFF. -/
  substituted : BitVec 8 := 0xFF
  /-- 1 bit; R108; 0. -/
  spareFailed : Bool := false
  /-- 1 bit; R108; 0. -/
  shadowActive : Bool := false
  /-- 1 bit; R108; 1. -/
  poweredDown : Bool := true
  /-- 129 x 16 bits; R109; set by R100, 0 before (assumption 7). -/
  sliceTrim : Tab (BitVec 16) := []
  /-- Trim steps that wait for the fence (R98); none. -/
  pendingTrim : Tab (Option (BitVec 16)) := []
  /-- 129 bits; R107; factory. -/
  sliceFailed : Tab Bool := []
  /-- 32 bits; R107; 0. -/
  rounds : BitVec 32 := 0
  /-- 16 bits; R107; 0. -/
  shadowColumn : BitVec 16 := 0
  /-- 512 x 16 bits; R107; 0. -/
  lastCodes : Tab (BitVec 16) := []
  /-- 16 bits; R107; 0. -/
  sliceFailures : BitVec 16 := 0
  /-- Sums of the dwell: conversions, differences, products, squares (R98, R139); 0. -/
  dwellN : Nat := 0
  /-- ShadowDwell as it was when the dwell began (R107); 256. -/
  dwellGoal : Nat := 256
  dwellDiff : Int := 0
  dwellProd : Int := 0
  dwellSquare : Int := 0
  /-- Sums of the round: conversions, squared differences, squares (R139); 0. -/
  roundN : Nat := 0
  roundDiff2 : Nat := 0
  roundSquare : Nat := 0
  /-- Consecutive counted conversions beyond SliceFailLimit (R101); 0. -/
  mismatches : Nat := 0
  /-- Slices whose failure has begun and has not been detected (R101); none. -/
  failing : List Nat := []
  /-- Levels found out of limit at the last self-check (R99); none. -/
  badLevels : List Nat := []
  /-- The PCLK to CCLK queue: row codes that wait to be deposited, at most two passes (R32, R92); none. -/
  driveQueue : List Pass := []
  /-- Repeats asked for, oldest first, re-formed before every pass of the queue (R131); none. -/
  repeats : List Pass := []
  /-- The CCLK to PCLK queue: at most 256 entries of R91 that the output stage has not taken (R32, R33, R92); none. -/
  resultQueue : List (BitVec 32) := []
  /-- The attempt in the pass buffer with the entries taken, and those of the second halves of a tall couch (R94, R122);
  none. -/
  passBuffer : Option (Pass × List (BitVec 32) × List (BitVec 32)) := none
  /-- Frames begun (R88, R93); 0. -/
  frames : Nat := 0
  /-- Neither phase ran in the last frame (R423); no. -/
  idleFrame : Bool := false
  /-- Frames since the spare slice's last self-check, and whether this frame's sense phase is given to one (R99); 0, no. -/
  sinceCheck : Nat := 0
  checkDue : Bool := false
  /-- Passes in the replay store (R132): at most four; none. -/
  replay : List Pass := []
  /-- R117, R148. -/
  regs : OutRegs := {}
  /-- 2 x 512 AccumulatorWords, key lane * 512 + column; R160, R188; 0. -/
  outputAcc : Tab (BitVec 64) := []
  /-- The lane of the next pass (R160); 0. -/
  lane : Bool := false
  /-- The pass whose contribution each lane holds, until it is drained; key lane (R160, R163); none. -/
  lanes : Tab (Option Pass) := []
  /-- 1 bit; R149 (StatsMode of the unit); MAXABS. -/
  maxAbsMode : Bool := true
  /-- 32 bits; R149; 0. -/
  convMse : BitVec 32 := 0
  /-- 32 bits; R149; 0. -/
  convSignal : BitVec 32 := 0
  /-- 32 bits; R149; 0. -/
  clipCount : BitVec 32 := 0
  /-- Conversions of the current window (R137); 0. -/
  windowConversions : Nat := 0
  /-- SatWindow and SatThreshold as they were when the window began (R146); 65,536, 64. -/
  windowGoal : Nat := 65536
  windowLimit : Nat := 64
  /-- 16 bits; R149; 0. -/
  satDriftWindows : BitVec 16 := 0
  /-- 16 bits; R149; 0. -/
  cmRepeats : BitVec 16 := 0
  /-- 16 bits; R149; 0. -/
  clipRepeats : BitVec 16 := 0
  /-- 32 bits; R149; 0. -/
  saturatedPasses : BitVec 32 := 0
  /-- 16 bits; R149; 0. -/
  coarseRounds : BitVec 16 := 0
  /-- 520 x 16 bits; R149; 0. -/
  maxAbs : Tab (BitVec 16) := []
  /-- The trim in force at the position (R420, R423); 0 before step 6 of start-up. -/
  trim : TrimEntry := {}
  /-- The reading at which the trim in force was formed, 1/8 °C (R423); 0. -/
  trimFor : Int := 0
  /-- The trim that waits for a fence, and the reading at which it was formed (R423); none, 0. -/
  trimPending : Option TrimEntry := none
  pendingFor : Int := 0
  /-- Refresh steps run to park the bank (R105); 0. -/
  parkSteps : Nat := 0
  deriving DecidableEq, Repr

/-! ## Stipple macros (R151 to R187) -/

/-- A LoadRecord (R153, R186). -/
structure LoadRecord where
  vat : Byte := 0
  format : Byte := 0
  source : BitVec 64 := 0
  /-- The source is a staged section rather than an address: digest of its ream, edition (R326 step 3). -/
  staged : Option (BitVec 256 × Nat) := none
  deriving DecidableEq, Repr

/-- A stipple macro. -/
structure MacroRec where
  /-- 3 bits; R187; IDLE. -/
  state : MacroSt := .idle
  /-- 1 bit; R187; 0. -/
  segmented : Bool := false
  /-- 1 bit; R187; 0. -/
  mode16 : Bool := false
  /-- 4 bits; R187; 0. -/
  valid : BitVec 4 := 0
  /-- 4 bits; R187; 0. -/
  loading : BitVec 4 := 0
  /-- 4 bits; R187; 0. -/
  int4 : BitVec 4 := 0
  /-- 65,536 bytes, key row * 64 + column; R151; 0. -/
  weights : Tab Byte := []
  /-- 64 x 8 AccumulatorWords, key column * 8 + register; R160, R188; 0. -/
  acc : Tab (BitVec 64) := []
  /-- 4 records, key row group; R153, R186; 0. -/
  records : Tab LoadRecord := []
  /-- What a running load writes: row group, bytes; R153; none. -/
  incoming : Tab (List Byte) := []
  /-- 64 x 16 bits; R186; 0x3C00. -/
  scale : Tab (BitVec 16) := []
  /-- 16 bits; R186; 0x3C00. -/
  downScale : BitVec 16 := 0x3C00
  /-- The row the scrubber reads next (R183); 0. -/
  scrubRow : Nat := 0
  /-- The row groups to be reloaded, the first being reloaded (R184); none. -/
  reload : List Nat := []
  deriving DecidableEq, Repr

/-! ## Presses -/

/-- An engraving or pulp that runs on a press (R319, R320). -/
structure EngRec where
  plate : Plate
  purpose : Purpose
  cls : Nat
  phase : EngPhase := .pulp
  /-- What it is engraved to; none for a pulp alone, which leaves the plate BLANK (R326 step 4, R352). -/
  content : Option Content := none
  /-- The lines still to be bitten, in order (R320); lines 2n and 2n + 1 serve column n, 1,024 up spare columns. -/
  lines : List Nat := []
  /-- Bites of the first of them so far (R320). -/
  bites : Nat := 0
  /-- Reset pulses that the lines of spares mapped in still have to receive (R320). -/
  pulses : Nat := 0
  /-- The pulp's pulses have been admitted, and the energy in picojoules admitted for them so far (R319, R417). -/
  pulsed : Bool := false
  paid : Nat := 0
  /-- The work stands still because the diode reads above 105 °C (R324). -/
  held : Bool := false
  deriving DecidableEq, Repr

/-- The thermal state of a press (R410 to R415, R429). -/
structure Thermal where
  /-- 16 bits signed, 1/8 °C; R429; 0. -/
  reading : Int := 0
  /-- 3 bits; R430; NORMAL. -/
  level : Level := .normal
  /-- 1 bit; R430; 0. -/
  rise : Bool := false
  /-- 3 bits; R430; 0. -/
  skip : Nat := 0
  /-- 2 bits; R430; SLOW. -/
  cls : SurveyClass := .slow
  /-- 1 bit; R430; 0. -/
  diodeFailed : Bool := false
  /-- 16 bits signed, 0.1 °C/s; R429; 0. -/
  rate : Int := 0
  /-- 16 bits signed, 1/8 °C; R429; 0. -/
  peak : Int := 0
  /-- A reading has been taken since start-up (R429); no. -/
  seen : Bool := false
  /-- The previous code was 0 or 4,095 (R410); no. -/
  badCode : Bool := false
  /-- Readings of the last 200 ms, and the last one before: age in microseconds, reading (R414); none. -/
  history : List (Nat × Int) := []
  /-- Microseconds plus 1 for which the readings have stayed below the release point (R413); 0 when they have not. -/
  belowFor : Nat := 0
  /-- Microseconds plus 1 for which the rate has stayed at or below RiseLimit / 2 (R414); 0 when it has not. -/
  calmFor : Nat := 0
  /-- An injected conversion was asked for to confirm (R413, R414); no. -/
  confirming : Bool := false
  deriving DecidableEq, Repr

/-- A physical press. -/
structure PressRec where
  /-- 3 bits; R436, R462; TESTING. -/
  state : PressSt := .testing
  /-- 4 bits; R462; none. -/
  vat : Option Vat := none
  /-- 7 bits; R462; none. -/
  vatPress : Nat := 0x7F
  /-- 4 bits; R462; 0. -/
  retireCause : Nat := 0
  /-- 8 bits; R462; none. -/
  replaces : Option Press := none
  /-- The press that this RETIRING press is replaced by (R439); none. -/
  replacement : Option Press := none
  /-- The press whose place this ENGAGING press takes (R439); none. -/
  engagingFor : Option Press := none
  /-- The check of step 6 of R439 has passed; no. -/
  engageChecked : Bool := false
  /-- Plates that this ENGAGING press still has to engrave, with their contents (R440); none. -/
  engageTodo : List (Plate × Content) := []
  /-- 16 bits; R461; 0. -/
  jobsReissued : BitVec 16 := 0
  /-- 5 bits; R60, R75; 16. -/
  refreshTarget : Plate := 16
  /-- 5 bits; R60, R75; 0. -/
  logicalBase : Plate := 0
  /-- 8 bits; R75; RUNNING. -/
  rotation : Rotation := .running
  /-- 8 x 2 bits, key pair; R75; NONE. -/
  couchMode : Tab Couch := []
  /-- R75, R107 settings. -/
  cfg : PressCfg := {}
  /-- 17 plates; R40. -/
  plates : Tab PlateRec := []
  /-- 17 banks; R80. -/
  banks : Tab Bank := []
  /-- 2 bits; R107; STANDBY. -/
  fallback : FallbackSt := .standby
  /-- 8 bits; R107; none. -/
  fallbackBank : Option Plate := none
  /-- The bank whose hand-over waits for the converter's check (R104); none. -/
  fallbackFor : Option Plate := none
  /-- 2 macros; R151. -/
  macros : Tab MacroRec := []
  /-- 786,432 bytes, key offset; R23; 0. -/
  scratch : Tab Byte := []
  /-- 8,192 FeltWords; R170, R189; 0. -/
  felt : Tab (BitVec 64) := []
  /-- 128 slots; R232; FREE. -/
  slots : Tab (Option Job) := []
  /-- Jobs placed since start-up (R233); 0. -/
  placed : Nat := 0
  /-- 32 bits; R186; 0. -/
  wrapRepeats : BitVec 32 := 0
  /-- 32 bits; R186; 0. -/
  overflowRepeats : BitVec 32 := 0
  /-- 32 bits; R186; 0. -/
  accSaturations : BitVec 32 := 0
  /-- 8 bits; R186; 0. -/
  drainWaitMax : BitVec 8 := 0
  /-- 32 bits; R186; 0. -/
  eccCorrected : BitVec 32 := 0
  /-- 16 bits; R186; 0. -/
  eccUncorrected : BitVec 16 := 0
  /-- 64 bits; R197; seeded at reset, 0 before (assumption 8). -/
  generator : BitVec 64 := 0
  /-- Draws taken from the generator (R197); 0. -/
  draws : Nat := 0
  /-- R319; none. -/
  engraving : Option EngRec := none
  /-- The press has engraved a plate since start-up (R331); no. -/
  engravedOnce : Bool := false
  /-- The engraved refresh target waits for its fence (R62 step 6); no. -/
  handover : Bool := false
  /-- An in-place refreshed plate waits for its fence (R65); none. -/
  returning : Option Plate := none
  /-- R429. -/
  thermal : Thermal := {}
  /-- 16 bits signed, 1/8 °C; R434; 0. -/
  trimTemp : Int := 0
  /-- 32 bits; R434; 0. -/
  fencesForced : BitVec 32 := 0
  /-- Drift-equivalent microseconds / 2^16; R425, R434; 0. -/
  stepAcc : Nat := 0
  /-- Clocks run (R18, R439); no. -/
  clocked : Bool := false
  deriving DecidableEq, Repr

/-- A plate that waits for engraving power (R323). -/
structure EngReq where
  cls : Nat
  press : Press
  plate : Plate
  purpose : Purpose
  content : Option Content := none
  deriving DecidableEq, Repr

/-! ## Survey converters and governor (R401 to R433) -/

/-- A survey converter. -/
structure Survey where
  /-- 1 bit; R432; 0. -/
  regular : Bool := false
  /-- 8 bits; R432; 0. -/
  calGeneration : BitVec 8 := 0
  /-- 1 bit; R432; 0. -/
  calPending : Bool := false
  /-- 1 bit; R432; 0. -/
  calibrating : Bool := false
  /-- Injected slots pending, key slot 0 to 3; R432; none. -/
  injPending : Tab Bool := []
  /-- The channel that slot 3 converts (R413); 0. -/
  slot3Channel : Nat := 0
  /-- What a latched calibration waits for: the conversions of injected slots, bit s slot s, and the regular conversion in
  progress, bit 4 (R406); 0. -/
  calWaits : Nat := 0
  /-- 4 x 32 bits, key slot; R431; 0. -/
  injResult : Tab (BitVec 32) := []
  /-- 64 x 32 bits, key channel; R433; 0. -/
  last : Tab (BitVec 32) := []
  /-- Up to 256 SurveyResults, oldest first; R407, R432; empty. -/
  queue : List (BitVec 32) := []
  /-- Channels of the scan not yet converted, ascending; R403; none. -/
  due : List Nat := []
  /-- Scans begun (R403); 0. -/
  scans : Nat := 0
  /-- Channels whose last result was outside its window (R409); none. -/
  outside : Tab Bool := []
  /-- Code of channel 46 at the last calibration (R406); none yet. -/
  ref46 : Option (BitVec 12) := none
  /-- Code of channel 46 converted in the running calibration. -/
  new46 : Option (BitVec 12) := none
  /-- The conversion in progress: its channel, and its slot when it is injected (R405, R406); none. -/
  current : Option (Nat × Option Nat) := none
  deriving DecidableEq, Repr

/-- The power governor (R417 to R419, R428). -/
structure Gov where
  /-- BudgetPlan in force, four values in W; R428; 90, 36, 22, 8. -/
  plan : List (BitVec 16) := [90, 36, 22, 8]
  /-- 16 bits; R428; 0. -/
  packagePower : BitVec 16 := 0
  /-- 4 x 16 bits; R428; 0. -/
  classPower : List (BitVec 16) := [0, 0, 0, 0]
  /-- 16 bits; R428; 256. -/
  factor : Nat := 256
  /-- 3 bits; R428; 0. -/
  limited : List Bool := [false, false, false]
  /-- Consecutive windows with demand above the grant, per class (R419); 0. -/
  limitedFor : List Nat := [0, 0, 0]
  /-- Consecutive windows without since the event, up to 1,000: at 1,000 the event may be raised (R419); 1,000. -/
  clearFor : List Nat := [1000, 1000, 1000]
  /-- Measured energies of the last 999 windows in microjoules, newest first (R418); none. -/
  history : List Nat := []
  /-- Halvings in force (R418); 0. -/
  halvings : Nat := 0
  /-- Grants of the last window, analogue, digital, engraving, in microjoules (R417); 0. -/
  grants : List Nat := [0, 0, 0]
  /-- Sums of the running 1 s window: measured, and the three classes (R361); 0. -/
  sums : List Nat := [0, 0, 0, 0]
  /-- Windows of the running 1 s (R361); 0. -/
  windows : Nat := 0
  /-- What is left of the allowances of the running window, analogue, digital, engraving, in picojoules (R417); none before
  the first window. -/
  credits : Option (List Nat) := none
  /-- Energy admitted in the running window, in picojoules: key 9 x class + vat, 8 for no vat (R361, R417); 0. -/
  admitted : Tab Nat := []
  /-- Energy in picojoules of work that was ready in the running window and not admitted, key class; by press and place of the
  work (R417); 0. -/
  refused : Tab Nat := []
  /-- The image whose energy table is in force (R417, R457 step 3); none. -/
  table : Option (List Byte) := none
  /-- The last codes of the supply channels, key 8 x converter + channel - 38 (R408, R418); 0. -/
  supply : Tab (BitVec 12) := []
  /-- Demands and grants in microjoules over the windows that limitedFor counts, per class (R361, R419); 0. -/
  limitDemand : List Nat := [0, 0, 0]
  limitGrant : List Nat := [0, 0, 0]
  deriving DecidableEq, Repr

/-! ## Management port (R372 to R400) -/

/-- A management session (R381 to R384). -/
structure Session where
  id : BitVec 32
  key : BitVec 128
  /-- Last accepted Counter (R384). -/
  last : Option (BitVec 32) := none
  /-- The response of that Counter (R384 step 3). -/
  kept : List Byte := []
  deriving DecidableEq, Repr

/-- A CAN frame that the device sent, in CAN FD base format, with or without a switched bit rate (the model's record of
what leaves the device; R372, R374). -/
structure Frame where
  canId : Nat
  data : List Byte
  fd : Bool := true
  brs : Bool := true
  deriving DecidableEq, Repr

/-- The CAN node, the USDO server and the sessions. -/
structure Mgmt where
  /-- 8 bits; R375, R397; fused, 0 before step 2 of start-up. -/
  nodeId : Byte := 0
  /-- NodeId has been written since power-on (R375); no. -/
  nodeIdWritten : Bool := false
  /-- Restricted operation mode (R375); no. -/
  restricted : Bool := false
  /-- R376; initialising, which the entry of R397 reads as its default 0x7F (assumption 9). -/
  nmt : NmtSt := .initialising
  /-- 9 bits; R397, R399; 0. -/
  tec : BitVec 9 := 0
  /-- 8 bits; R397; 0. -/
  recv : BitVec 8 := 0
  /-- R372; no. -/
  busOff : Bool := false
  /-- 8 bits; R397; 0. -/
  recoveries : BitVec 8 := 0
  /-- Bit timings in force (R373): nominal, data; defaults of R397. -/
  nominalNow : BitVec 32 := 0x10103F02
  dataNow : BitVec 32 := 0x0A0A1D01
  /-- The USDO download in progress: index, sub-index, bytes so far (R378); none. -/
  usdo : Option (BitVec 16 × BitVec 8 × List Byte) := none
  /-- The USDO upload in progress: index, sub-index, bytes still to be sent (R378); none. -/
  usdoUp : Option (BitVec 16 × BitVec 8 × List Byte) := none
  /-- Abort code of the last USDO transfer, 0 when it succeeded (R378, R391); 0. -/
  usdoAbort : BitVec 32 := 0
  /-- Data of the last upload (R378); none. -/
  usdoData : List Byte := []
  /-- The last transfer that another request aborted with 0x0504_0000 (the model's record; R378); none. -/
  usdoBroken : Option (BitVec 16 × BitVec 8) := none
  /-- R382; none. -/
  active : Option Session := none
  /-- R382; none. -/
  pending : Option Session := none
  /-- The accepted offer whose exchange runs, and those that wait for it, oldest first (R381); none. -/
  offer : Option (List Byte) := none
  offers : List (List Byte) := []
  /-- 140 bytes; R380, R397; 0. -/
  answer : List Byte := []
  /-- 36 to 1,060 bytes; R384, R397; 0. -/
  response : List Byte := []
  /-- 32 bits: SessionId last assigned (R381); 0. -/
  sessionId : BitVec 32 := 0
  /-- Consecutive tag failures (R384); 0. -/
  failures : Nat := 0
  /-- 32 bits; R397; 0. -/
  authFailures : BitVec 32 := 0
  /-- The last frame sent and the number of frames sent (model's record); none. -/
  lastFrame : Option Frame := none
  framesSent : Nat := 0
  /-- Result and data of the last direct dictionary access (model's record; R391); OK. -/
  result : BitVec 8 := 0
  data : List Byte := []
  deriving DecidableEq, Repr

/-- A report slot (R362, R369). -/
structure Report where
  /-- 8 bits; R369; EMPTY. -/
  status : ReportSt := .empty
  /-- The snapshot without its signature (R363). -/
  snapshot : List Byte := []
  /-- up to 5,428 bytes; R369; empty. -/
  report : List Byte := []
  deriving DecidableEq, Repr

/-! ## The device -/

/-- Device control, image and pins (R443 to R466). -/
structure Dev where
  /-- Start-up has begun since the last cold reset (R453); no. -/
  started : Bool := false
  /-- 8 bits; R459; STARTING. -/
  state : DevState := .starting
  /-- 1 bit; R253; 0. -/
  serviceReady : Bool := false
  /-- 3 bits; R460; NONE. -/
  image : ImgState := .none
  /-- 32 bits; R460; 0. -/
  bytesReceived : BitVec 32 := 0
  /-- ImageLength of the chunks (R456); 0. -/
  imageLength : BitVec 32 := 0
  /-- 8 bits; R460; 0. -/
  rejectCause : BitVec 8 := 0
  /-- Bytes of the image being received or held; R456; none. -/
  imageBytes : List Byte := []
  /-- The active image (R387); none. -/
  activeImage : Option (List Byte) := none
  /-- 32 bits; R459; 0. -/
  selfTestSummary : BitVec 32 := 0
  /-- 32 bits; R459; 0. -/
  startupTime : BitVec 32 := 0
  /-- 32 bits; R459; 0. -/
  outageMs : BitVec 32 := 0
  /-- 4 x 32 bits: device, vat, press, stream; R459; 0. -/
  resetCounts : List (BitVec 32) := [0, 0, 0, 0]
  /-- 6 bits: PCLK, FCLK, HCLK, MCLK, SCLK, VCLK locked; R459; 0. -/
  clockLock : BitVec 6 := 0
  /-- 68 bits; R459; 0. -/
  cclkLock : Tab Bool := []
  /-- FuseParityGood (R366); 0 before step 2 of start-up. -/
  parityGood : Bool := false
  /-- 256 bits; R346; derived at start-up. -/
  identityKey : Option (BitVec 256) := none
  /-- 256 bits; R346; derived at start-up. -/
  attestKey : Option (BitVec 256) := none
  /-- THERMTRIP_N is low (R416, R465); no. -/
  thermtripLow : Bool := false
  /-- PERST# is high (R453, R466); low. -/
  perstHigh : Bool := false
  /-- The boundary-scan instruction loaded (R466); BYPASS (assumption 10). -/
  scan : ScanInstr := .bypass
  /-- 32 bits: ReportSequence; R369; 0. -/
  reportSequence : BitVec 32 := 0
  deriving DecidableEq, Repr

/-- The whole device. -/
structure State where
  /-- Commands that wait, first in first out (the model's own). -/
  pending : List Instr := []
  /-- Number of free values drawn (the model's own; assumption 11). -/
  free : Nat := 0
  /-- R23, R345, R366; fused. -/
  otp : Otp := {}
  /-- R443 to R466. -/
  dev : Dev := {}
  /-- Entries of R387. -/
  settings : Settings := {}
  /-- R398. -/
  events : Events := {}
  /-- R372 to R400. -/
  mgmt : Mgmt := {}
  /-- 10 report slots; R362. -/
  reports : Tab Report := []
  /-- Report slots to be built, oldest first; R362. -/
  reportQueue : List (Fin 10) := []
  /-- 8 vats; R342. -/
  vats : Tab VatRec := []
  /-- 68 presses; R18. -/
  presses : Tab PressRec := []
  /-- Plates that wait for engraving power, oldest first; R323. -/
  engQueue : List EngReq := []
  /-- 4,096 work counters; R236. -/
  counters : Tab Counter := []
  /-- Remote operations held at their sources, oldest first; R439, R446. -/
  heldOps : List RemoteOp := []
  /-- Response of the last remote operation (model's record; R27). -/
  remoteReply : List Byte := []
  /-- R245 to R280. -/
  bridge : Bridge := {}
  /-- 4,096 streams; R255. -/
  streams : Tab Stream := []
  /-- R281 to R302. -/
  hubs : Hubs := {}
  /-- 2 converters, key converter; R401. -/
  surveys : Tab Survey := []
  /-- R417. -/
  gov : Gov := {}
  /-- Host memory, key host byte address (outside the device; R262 to R269); unlisted bytes read 0 (assumption 12). -/
  hostMem : Tab Byte := []
  deriving DecidableEq, Repr

/-- The machine right after a cold reset (R443, R449): every field at the reset value its comment names. -/
def State.reset : State := {}

end Sys2Proof.Machine
end

