-- ==== Sys2Proof/Machine/Ops.lean ====
section
/-! DEFINITION. Ops.lean: reading and writing the parts of State by number, and the codes of R15 and R391. -/

namespace Sys2Proof.Machine

/-- What a command answers. -/
abbrev Out := Host.Outcome State Fault Refusal

/-! ## Parts of the device -/

/-- Press p. -/
def State.press (s : State) (p : Nat) : PressRec := tget {} s.presses p
/-- The state with press p replaced. -/
def State.setPress (s : State) (p : Nat) (r : PressRec) : State := { s with presses := tput {} s.presses p r }
/-- The state with f applied to press p. -/
def State.updPress (s : State) (p : Nat) (f : PressRec → PressRec) : State := s.setPress p (f (s.press p))

/-- Vat v. -/
def State.vat (s : State) (v : Nat) : VatRec := tget {} s.vats v
/-- The state with vat v replaced. -/
def State.setVat (s : State) (v : Nat) (r : VatRec) : State := { s with vats := tput {} s.vats v r }
/-- The state with f applied to vat v. -/
def State.updVat (s : State) (v : Nat) (f : VatRec → VatRec) : State := s.setVat v (f (s.vat v))

/-- Stream i. -/
def State.stream (s : State) (i : Nat) : Stream := tget {} s.streams i
/-- The state with stream i replaced. -/
def State.setStream (s : State) (i : Nat) (r : Stream) : State := { s with streams := tput {} s.streams i r }
/-- The state with f applied to stream i. -/
def State.updStream (s : State) (i : Nat) (f : Stream → Stream) : State := s.setStream i (f (s.stream i))

/-- Function f. -/
def State.fn (s : State) (f : Nat) : FnRec := tget {} s.bridge.fns f
/-- The state with function f replaced. -/
def State.setFn (s : State) (f : Nat) (r : FnRec) : State :=
  { s with bridge := { s.bridge with fns := tput {} s.bridge.fns f r } }
/-- The state with g applied to function f. -/
def State.updFn (s : State) (f : Nat) (g : FnRec → FnRec) : State := s.setFn f (g (s.fn f))

/-- Work counter c of the device (0 to 4,095, R236). -/
def State.counter (s : State) (c : Nat) : Counter := tget {} s.counters c
/-- The state with work counter c replaced. -/
def State.setCounter (s : State) (c : Nat) (r : Counter) : State := { s with counters := tput {} s.counters c r }
/-- The state with f applied to work counter c. -/
def State.updCounter (s : State) (c : Nat) (f : Counter → Counter) : State := s.setCounter c (f (s.counter c))

/-- Survey converter c. -/
def State.survey (s : State) (c : Nat) : Survey := tget {} s.surveys c
/-- The state with f applied to survey converter c. -/
def State.updSurvey (s : State) (c : Nat) (f : Survey → Survey) : State :=
  { s with surveys := tput {} s.surveys c (f (s.survey c)) }

/-- Report slot i. -/
def State.report (s : State) (i : Nat) : Report := tget {} s.reports i
/-- The state with f applied to report slot i. -/
def State.updReport (s : State) (i : Nat) (f : Report → Report) : State :=
  { s with reports := tput {} s.reports i (f (s.report i)) }

/-- Plate q of a press. -/
def PressRec.plate (r : PressRec) (q : Nat) : PlateRec := tget {} r.plates q
/-- The press with f applied to plate q. -/
def PressRec.updPlate (r : PressRec) (q : Nat) (f : PlateRec → PlateRec) : PressRec :=
  { r with plates := tmod {} r.plates q f }
/-- Bank b of a press. -/
def PressRec.bank (r : PressRec) (b : Nat) : Bank := tget {} r.banks b
/-- The press with f applied to bank b. -/
def PressRec.updBank (r : PressRec) (b : Nat) (f : Bank → Bank) : PressRec := { r with banks := tmod {} r.banks b f }
/-- Stipple macro m of a press. -/
def PressRec.macro' (r : PressRec) (m : Nat) : MacroRec := tget {} r.macros m
/-- The press with f applied to stipple macro m. -/
def PressRec.updMacro (r : PressRec) (m : Nat) (f : MacroRec → MacroRec) : PressRec :=
  { r with macros := tmod {} r.macros m f }
/-- The job in slot k of a press. -/
def PressRec.slot (r : PressRec) (k : Nat) : Option Job := tget none r.slots k
/-- The press with slot k holding j. -/
def PressRec.setSlot (r : PressRec) (k : Nat) (j : Option Job) : PressRec := { r with slots := tput none r.slots k j }
/-- The jobs in a press's slots with their slot numbers, by slot. -/
def PressRec.jobs (r : PressRec) : List (Nat × Job) := r.slots.filterMap fun (k, j) => j.map (k, ·)
/-- The press with f applied to every job in its slots. -/
def PressRec.mapJobs (r : PressRec) (f : Job → Job) : PressRec :=
  { r with slots := r.slots.map fun (k, j) => (k, j.map f) }

/-- The state with f applied to plate q of press p. -/
def State.updPlate (s : State) (p q : Nat) (f : PlateRec → PlateRec) : State := s.updPress p (·.updPlate q f)
/-- The state with f applied to bank b of press p. -/
def State.updBank (s : State) (p b : Nat) (f : Bank → Bank) : State := s.updPress p (·.updBank b f)
/-- The state with f applied to macro m of press p. -/
def State.updMacro (s : State) (p m : Nat) (f : MacroRec → MacroRec) : State := s.updPress p (·.updMacro m f)
/-- The state with slot k of press p holding j. -/
def State.setSlot (s : State) (p k : Nat) (j : Option Job) : State := s.updPress p (·.setSlot k j)
/-- The state with f applied to the job in slot k of press p, if there is one. -/
def State.updJob (s : State) (p k : Nat) (f : Job → Job) : State :=
  s.updPress p fun r => r.setSlot k ((r.slot k).map f)
/-- The state with f applied to press p's thermal state. -/
def State.updThermal (s : State) (p : Nat) (f : Thermal → Thermal) : State :=
  s.updPress p fun r => { r with thermal := f r.thermal }

/-- The state with f applied to device control. -/
def State.updDev (s : State) (f : Dev → Dev) : State := { s with dev := f s.dev }
/-- The state with f applied to the management port. -/
def State.updMgmt (s : State) (f : Mgmt → Mgmt) : State := { s with mgmt := f s.mgmt }
/-- The state with f applied to the host bridge. -/
def State.updBridge (s : State) (f : Bridge → Bridge) : State := { s with bridge := f s.bridge }
/-- The state with f applied to the hubs. -/
def State.updHubs (s : State) (f : Hubs → Hubs) : State := { s with hubs := f s.hubs }
/-- The state with f applied to the events. -/
def State.updEvents (s : State) (f : Events → Events) : State := { s with events := f s.events }
/-- The state with f applied to the settings. -/
def State.updSettings (s : State) (f : Settings → Settings) : State := { s with settings := f s.settings }
/-- The state with f applied to the governor. -/
def State.updGov (s : State) (f : Gov → Gov) : State := { s with gov := f s.gov }

/-- f applied for every number below n, in ascending order. -/
def forN (n : Nat) (f : Nat → State → State) (s : State) : State := (List.range n).foldl (fun t i => f i t) s
/-- f applied for every element of a list, in order. -/
def forL {α : Type} (l : List α) (f : α → State → State) (s : State) : State := l.foldl (fun t x => f x t) s

/-- The physical presses. -/
def allPresses : List Nat := List.range 68

/-- The physical press of a vat's press e, if the PressMap names one (R368). -/
def State.physPress (s : State) (v e : Nat) : Option Nat :=
  let x := (tget 0xFF#8 (s.vat v).pressMap e).toNat
  if e < 64 ∧ x < 68 then some x else none

/-- The vat that owns a press, for an event's Vat field (R400). -/
def State.pressVat (s : State) (p : Nat) : Option Nat := (s.press p).vat.map Fin.val

/-- The presses a vat owns, ascending. -/
def State.vatPresses (s : State) (v : Nat) : List Nat := allPresses.filter fun p => s.pressVat p = some v

/-- A fresh number for a free value, and the state after the draw (assumption 11). -/
def State.draw (s : State) : Nat × State := (s.free, { s with free := s.free + 1 })

/-- Bytes of host memory (assumption 12). -/
def State.hostRead (s : State) (a n : Nat) : List Byte := tgetN 0 s.hostMem a n
/-- Bytes written to host memory. -/
def State.hostWrite (s : State) (a : Nat) (bs : List Byte) : State := { s with hostMem := tputL 0 s.hostMem a bs }
/-- What host software writes to host memory before a command. -/
def State.hostBytes (s : State) (w : List (Nat × Byte)) : State :=
  { s with hostMem := w.foldl (fun m e => tput 0 m e.1 e.2) s.hostMem }

/-! ## Result codes (R391) -/

/-- Executed. -/
def resOk : Byte := 0x00
/-- Index not present. -/
def resNoObject : Byte := 0x01
/-- Sub-index not present. -/
def resNoSubindex : Byte := 0x02
/-- Principal not listed. -/
def resRights : Byte := 0x03
/-- Write to an entry without w. -/
def resReadOnly : Byte := 0x04
/-- Read of an entry without r. -/
def resWriteOnly : Byte := 0x05
/-- Size, Offset or Length wrong. -/
def resLength : Byte := 0x06
/-- Value outside its range. -/
def resRange : Byte := 0x07
/-- Refused in the present state. -/
def resState : Byte := 0x08
/-- R384, steps 1 and 2. -/
def resSession : Byte := 0x09
/-- R394. -/
def resSeal : Byte := 0x0A
/-- D right outside R357. -/
def resDebug : Byte := 0x0B

/-- The abort code that plain USDO returns for a Result (R391); SEAL has none. -/
def abortCode (r : Byte) : BitVec 32 :=
  if r = resNoObject then 0x06020000 else if r = resNoSubindex then 0x06090011
  else if r = resRights ∨ r = resDebug then 0x06010000 else if r = resReadOnly then 0x06010002
  else if r = resWriteOnly then 0x06010001 else if r = resLength then 0x06070010
  else if r = resRange then 0x06090030 else if r = resState then 0x08000022
  else if r = resSession then 0x08000020 else 0

/-- The Result of a direct access is kept where the requester reads it. -/
def State.answer (s : State) (r : Byte) : State := s.updMgmt fun m => { m with result := r, data := [] }

/-! ## Status codes (R15) -/

/-- Completed; all outputs written. -/
def stDone : BitVec 8 := 0x00
/-- An extent was zero. -/
def stZeroExtent : BitVec 8 := 0x01
/-- A repeated plate pass still clipped. -/
def stSaturated : BitVec 8 := 0x02
/-- Completed after an overflow repeat. -/
def stRescaled : BitVec 8 := 0x03
/-- Completed on another press. -/
def stReissued : BitVec 8 := 0x04
/-- An extent fails the deckle check. -/
def stShape : BitVec 8 := 0x10
/-- A run-time extent could not be read. -/
def stBound : BitVec 8 := 0x11
/-- Scale and data streams stayed out of step. -/
def stSkew : BitVec 8 := 0x12
/-- The named epoch is not held. -/
def stEpoch : BitVec 8 := 0x13
/-- No FREE stream. -/
def stStreamLimit : BitVec 8 := 0x20
/-- Beyond the stream's credits. -/
def stCredit : BitVec 8 := 0x21
/-- Mailbox entry not yet valid. -/
def stNotReady : BitVec 8 := 0x22
/-- Mailbox entry already consumed. -/
def stEmpty : BitVec 8 := 0x23
/-- Authentication failed. -/
def stSealFail : BitVec 8 := 0x30
/-- A quire failed its check. -/
def stQuireBad : BitVec 8 := 0x31
/-- A quire was absent. -/
def stQuireMissing : BitVec 8 := 0x32
/-- The vat is being pulped. -/
def stVatPulping : BitVec 8 := 0x40
/-- The vat is under reset. -/
def stVatResetting : BitVec 8 := 0x41
/-- The job waits at a barrier or for power. -/
def stEditionWait : BitVec 8 := 0x50
/-- Internal inconsistency. -/
def stInternal : BitVec 8 := 0x7F

end Sys2Proof.Machine
end

