-- ==== Sys2Proof/Machine/Image.lean ====
section
/-! DEFINITION. Image.lean: the records of a personality image (R455) and the defaults that it supplies: settings (R387),
output-stage registers (R148), codebooks (R45), activation tables (R128) and decode codebooks (R129). -/

namespace Sys2Proof.Machine

/-- A record of an image: index, sub-index, reserved byte, value (R455). -/
structure ImgRecord where
  idx : Nat
  sub : Nat
  reserved : Nat
  value : List Byte
  deriving DecidableEq, Repr

/-- Up to n records from a list of bytes, and the bytes left; none where a record leaves the list. -/
def parseRecords : Nat → List Byte → Option (List ImgRecord × List Byte)
  | 0, l => some ([], l)
  | n + 1, l =>
    let len := leAt l 4 4
    let padded := (len + 7) / 8 * 8
    if l.length < 8 + padded then none
    else
      match parseRecords n (l.drop (8 + padded)) with
      | none => none
      | some (rs, rest) =>
        some ({ idx := leAt l 0 2, sub := leAt l 2 1, reserved := leAt l 3 1, value := (l.drop 8).take len } :: rs, rest)

/-- The records of an image (R455). -/
def imageRecords (img : List Byte) : List ImgRecord :=
  match parseRecords (leAt img 12 4) (img.drop 128) with
  | some (rs, _) => rs
  | none => []

/-- The value that the active image gives an entry, by its first instance (R455). -/
def imageDefault (s : State) (idx sub : Nat) : Option (List Byte) :=
  match s.dev.activeImage with
  | none => none
  | some img => ((imageRecords img).find? fun r => decide (r.idx = idx ∧ r.sub = sub)).map (·.value)

/-- n words of w/8 bytes from a list of bytes. -/
def wordsOf (w n : Nat) (l : List Byte) : List (BitVec w) :=
  (List.range n).map fun i => BitVec.ofNat w (leAt l (i * (w / 8)) (w / 8))

/-- The default sense registers (R148, R307). -/
def defaultSense (s : State) : SenseRegs :=
  let d := fun (sub : Nat) => imageDefault s 0x2620 sub
  { control := ((d 0x10).map fun l => BitVec.ofNat 32 (leAt l 0 4)).getD 0
    columnScale := ((d 0x12).map (wordsOf 16 512)).getD []
    joinScale := ((d 0x13).map (wordsOf 16 512)).getD []
    columnOffset := ((d 0x14).map (wordsOf 32 512)).getD []
    rowSumCoef := ((d 0x15).map (wordsOf 16 512)).getD [] }

/-- The default drive registers (R148, R307). -/
def defaultDrive (s : State) : DriveRegs :=
  let d := fun (sub : Nat) => imageDefault s 0x2620 sub
  { control := ((d 0x10).map fun l => BitVec.ofNat 32 (leAt l 0 4)).getD 0
    alpha := ((d 0x11).map fun l => BitVec.ofNat 16 (leAt l 0 2)).getD 0x7C00
    outliers := ((d 0x16).map (wordsOf 16 32)).getD [] }

/-- The sense registers in force (R117). -/
def senseRegs (s : State) (b : Bank) : SenseRegs := b.regs.sense.getD (defaultSense s)
/-- The drive registers in force (R117). -/
def driveRegs (s : State) (b : Bank) : DriveRegs := b.regs.drive.getD (defaultDrive s)

/-- LayerControl as both sides give it (R120): [15:10] sense, [31:16] drive. -/
def layerControl (s : State) (b : Bank) : Nat :=
  field (driveRegs s b).control.toNat 31 16 * 2 ^ 16 + field (senseRegs s b).control.toNat 15 10 * 2 ^ 10

/-- ColumnScale of column n. -/
def SenseRegs.scale (r : SenseRegs) (n : Nat) : BitVec 16 := lget 0x3C00 r.columnScale n
/-- JoinScale of column n. -/
def SenseRegs.join (r : SenseRegs) (n : Nat) : BitVec 16 := lget 0x3C00 r.joinScale n
/-- ColumnOffset of column n. -/
def SenseRegs.offset (r : SenseRegs) (n : Nat) : Int := sext 32 (lget 0 r.columnOffset n).toNat
/-- RowSumCoef of column n. -/
def SenseRegs.coef (r : SenseRegs) (n : Nat) : Int := sext 16 (lget 0xFDFC r.rowSumCoef n).toNat
/-- ActivationSelect (R120). -/
def SenseRegs.activation (r : SenseRegs) : Nat := field r.control.toNat 15 12
/-- JoinOp (R120). -/
def SenseRegs.joinOp (r : SenseRegs) : Nat := field r.control.toNat 11 10
/-- ZeroPoint (R120). -/
def DriveRegs.zero (r : DriveRegs) : Int := sext 8 (field r.control.toNat 31 24)
/-- OutlierCount (R120). -/
def DriveRegs.count (r : DriveRegs) : Nat := min 32 (field r.control.toNat 23 18)
/-- OutlierWidth is INT16 (R120). -/
def DriveRegs.wide (r : DriveRegs) : Bool := nbit r.control.toNat 17
/-- InputFormat is INT4 (R120). -/
def DriveRegs.int4 (r : DriveRegs) : Bool := nbit r.control.toNat 16
/-- The outlier rows in use (R130). -/
def DriveRegs.rows (r : DriveRegs) : List Nat :=
  (List.range r.count).map fun i => (lget 0 r.outliers i).toNat

/-- The default codebook (R45): GPlusTarget then GMinusTarget of each entry. -/
def defaultCodebook : List Byte :=
  (List.range 16).flatMap fun c =>
    if 8 ≤ c then [BitVec.ofNat 8 (30 * c - 225), 0] else [0, BitVec.ofNat 8 (225 - 30 * c)]

/-- The codebook of a plate (R44, R75). -/
def codebookOf (s : State) (q : PlateRec) : List Byte :=
  if q.codebook = [] then (imageDefault s 0x2400 0x11).getD defaultCodebook else q.codebook

/-- Segments of the default table of GELU, erf form (R128): slope * 65536 + intercept. -/
def geluSegments : List Nat :=
  [0x80008000, 0x80008000, 0x80008000, 0x80008000, 0x80008000, 0x80008000, 0x80008000, 0x80008000]
  ++ [0x80018006, 0x8005801D, 0x80148070, 0x80458171, 0x80E4848C, 0x82BE8AAC, 0x87E69091, 0x8D5395D8]
  ++ [0x92B79AF9, 0x97E89FC0, 0x9C59A403, 0xA074A7B7, 0xA43EAAE2, 0xA781ADAF, 0xAA22B054, 0xAC9BB210]
  ++ [0xAE4CB3C1, 0xAFB5B47E, 0xB014B4A9, 0xAECFB43E, 0xA9CBB286, 0x2C05AFDD, 0x32E8A9EF, 0x366C0134]
  ++ [0x38CA0000, 0x3A46A9EF, 0x3B7FAFDC, 0x3C2EB284, 0x3C6DB43E, 0x3C82B4A7, 0x3C7BB47C, 0x3C65B3C4]
  ++ [0x3C4AB215, 0x3C31B053, 0x3C1EADAE, 0x3C11AAE5, 0x3C09A7C9, 0x3C04A376, 0x3C029FD5, 0x3C019C17]
  ++ [0x3C008827, 0x3C0082FA, 0x3C008101, 0x3C008051, 0x3C008018, 0x3C008007, 0x3C008002, 0x3C008000]
  ++ [0x3C008000, 0x3C008000, 0x3C008000, 0x3C008000, 0x3C008000, 0x3C008000, 0x3C008000, 0x3C008000]

/-- Segments of the default table of SiLU (R128): slope * 65536 + intercept. -/
def siluSegments : List Nat :=
  [0x995CA60C, 0x9AA1A747, 0x9C18A85E, 0x9D0CA93B, 0x9E37AA41, 0x9FA2AB73, 0xA0AEAC6D, 0xA1B9AD3E]
  ++ [0xA2FAAE2F, 0xA43EAF44, 0xA524B040, 0xA634B0F3, 0xA774B1BB, 0xA874B298, 0xA94AB388, 0xAA3CB445]
  ++ [0xAB48B4CB, 0xAC35B553, 0xACCBB5D6, 0xAD5EB64D, 0xADE1B6B0, 0xAE40B6F1, 0xAE5FB704, 0xAE1CB6DE]
  ++ [0xAD4BB676, 0xAB74B5C7, 0xA4DAB4D5, 0x28D5B366, 0x2F40B0FB, 0x32A3AD72, 0x3513A7BB, 0x3701814D]
  ++ [0x387F0000, 0x3976A7B5, 0x3A57AD71, 0x3B18B0FB, 0x3BB3B367, 0x3C13B4D3, 0x3C3CB5C9, 0x3C55B678]
  ++ [0x3C62B6E1, 0x3C66B705, 0x3C64B6F1, 0x3C5EB6AF, 0x3C56B64F, 0x3C4DB5DA, 0x3C43B54E, 0x3C3AB4C7]
  ++ [0x3C32B447, 0x3C2AB37E, 0x3C24B2A5, 0x3C1EB1C2, 0x3C19B0FA, 0x3C15B053, 0x3C11AF47, 0x3C0EAE33]
  ++ [0x3C0BAD13, 0x3C09AC49, 0x3C08ABC0, 0x3C06AA13, 0x3C05A931, 0x3C04A849, 0x3C03A6B0, 0x3C03A6AB]

/-- Segments of the default table of sigmoid (R128): slope * 65536 + intercept. -/
def sigmoidSegments : List Nat :=
  [0x0E3D1AED, 0x10011C52, 0x11241D63, 0x12991EB5, 0x143C202C, 0x156F212F, 0x16F9226F, 0x187923FA]
  ++ [0x19BC24EF, 0x1B5A2619, 0x1CB62785, 0x1E0828A0, 0x1FB829AE, 0x20EF2AF5, 0x224D2C3F, 0x24042D2B]
  ++ [0x251C2E43, 0x267D2F8E, 0x281A3087, 0x292C3166, 0x2A7B3261, 0x2C0A337A, 0x2CFD3455, 0x2E1B34F6]
  ++ [0x2F623599, 0x30673639, 0x312836C9, 0x31EB3743, 0x32A437A0, 0x334337DB, 0x33B737F8, 0x33F53800]
  ++ [0x33F53800, 0x33B73804, 0x33433812, 0x32A43830, 0x31EB385E, 0x3128389B, 0x306738E4, 0x2F623933]
  ++ [0x2E1B3985, 0x2CFD39D6, 0x2C0A3A22, 0x2A7B3A68, 0x292C3AA7, 0x281A3ADE, 0x267D3B0E, 0x251C3B38]
  ++ [0x24043B5B, 0x224D3B78, 0x20EF3B91, 0x1FB83BA5, 0x1E083BB6, 0x1CB63BC4, 0x1B5A3BCF, 0x19BC3BD9]
  ++ [0x18793BE0, 0x16F93BE6, 0x156F3BEB, 0x143C3BEF, 0x12993BF3, 0x11243BF5, 0x10013BF7, 0x0E3D3BF9]

/-- Segments of the default table of tanh (R128): slope * 65536 + intercept. -/
def tanhSegments : List Nat :=
  [0x000ABC00, 0x0010BC00, 0x001BBC00, 0x002CBC00, 0x0048BC00, 0x0077BC00, 0x00C5BC00, 0x0144BC00]
  ++ [0x0217BC00, 0x0372BBFF, 0x05AEBBFF, 0x08AFBBFE, 0x0BB8BBFD, 0x0E5DBBFC, 0x113FBBFA, 0x1453BBF6]
  ++ [0x1720BBF0, 0x19DFBBE8, 0x1CD6BBDA, 0x1FF5BBC6, 0x228BBBA7, 0x255FBB79, 0x2866BB35, 0x2B2BBAD1]
  ++ [0x2DCDBA43, 0x30A3B981, 0x3347B883, 0x358CB6A4, 0x380CB417, 0x3989AF70, 0x3AF3A71D, 0x3BD682FD]
  ++ [0x3BD60000, 0x3AF3271B, 0x39892F6F, 0x380C3418, 0x358C36A3, 0x33473883, 0x30A33981, 0x2DCD3A43]
  ++ [0x2B2B3AD1, 0x28663B35, 0x255F3B79, 0x228B3BA7, 0x1FF53BC6, 0x1CD63BDA, 0x19DF3BE8, 0x17203BF0]
  ++ [0x14533BF6, 0x113F3BFA, 0x0E5D3BFC, 0x0BB83BFD, 0x08AF3BFE, 0x05AE3BFF, 0x03723BFF, 0x02173C00]
  ++ [0x01443C00, 0x00C53C00, 0x00773C00, 0x00483C00, 0x002C3C00, 0x001B3C00, 0x00103C00, 0x000A3C00]

/-- The bytes of a table with e = 3 from its segments (R127). -/
def tableBytes (segments : List Nat) : List Byte :=
  [3, 0, 0, 0] ++ segments.flatMap fun x => leBytes 2 (x / 65536) ++ leBytes 2 (x % 65536)

/-- The default of activation table t (R128). -/
def defaultActivation (s : State) (t : Nat) : List Byte :=
  match imageDefault s 0x2610 (1 + t) with
  | some l => l
  | none =>
    match t with
    | 0 => tableBytes geluSegments
    | 1 => tableBytes siluSegments
    | 2 => tableBytes sigmoidSegments
    | 3 => tableBytes tanhSegments
    | _ => tableBytes (List.replicate 64 0x3C000000)

/-- The FP16 word of an entry of a default decode codebook (R129). The NaN entries of books 2 and 3, for which R129 gives no
word, hold the NaN word of assumption 15 (DESIGN CHOICE). -/
def defaultBookEntry (book c : Nat) : Nat :=
  match book with
  | 0 => encodeF fp16 (fInt (sext 8 c))
  | 1 => encodeF fp16 (fInt c)
  | 2 => encodeF fp16 (decodeF e4m3 c)
  | 3 => encodeF fp16 (decodeF e5m2 c)
  | _ => 0

/-- The set of tables that serves an epoch of a vat (R328): the newest entry that names it, else the current set. -/
def tableSetOf (s : State) (v : Nat) (epoch : BitVec 16) : TableSet :=
  let r := s.vat v
  let b := ((r.epochs.find? fun e => decide (e.1 = epoch)).map Prod.snd).getD r.tableNow
  if b then r.tableSet1 else r.tableSet0

/-- The bytes of an activation table of a set (R147). -/
def activationTable (s : State) (set : TableSet) (t : Nat) : List Byte :=
  match tget [] set.activations t with
  | [] => defaultActivation s t
  | l => l

/-- The FP16 word of entry c of a decode codebook of a set (R129, R147). -/
def bookEntry (s : State) (set : TableSet) (book c : Nat) : Nat :=
  match tget [] set.books book with
  | [] =>
    match imageDefault s 0x2610 (9 + book) with
    | some l => leAt l (2 * c) 2
    | none => defaultBookEntry book c
  | l => leAt l (2 * c) 2

/-- The fused step of an activation table before its rounding (R127): the segment, then slope times y plus intercept. -/
def tableValue (bytes : List Byte) (y : FVal) : FVal :=
  match y with
  | .nan => .nan
  | _ =>
    let e := clampI (-4) 15 (sext 16 (leAt bytes 0 2))
    let i : Int :=
      match y with
      | .val q _ => clampI 0 63 (((q.add (pow2 e)).mul (pow2 (5 - e))).floor)
      | .inf n => if n then 0 else 63
      | .nan => 0
    let at' := 4 + 4 * i.toNat
    ((h16 (BitVec.ofNat 16 (leAt bytes at' 2))).mul y).add (h16 (BitVec.ofNat 16 (leAt bytes (at' + 2) 2)))

/-- An activation table evaluated with its one rounding (R127). -/
def evalTable (bytes : List Byte) (y : FVal) : FVal := rneSat16 (tableValue bytes y)

/-- ActivationSelect applied (R125): 0 NONE, 1 RELU, 8 + t table t of a set. -/
def activate' (s : State) (set : TableSet) (sel : Nat) (y : FVal) : FVal :=
  match y with
  | .nan => .nan
  | _ =>
    if sel = 1 then (if y.isNeg then fZero else y)
    else if 8 ≤ sel then evalTable (activationTable s set (sel - 8)) y
    else y

end Sys2Proof.Machine
end

