-- ==== Sys2Proof/Machine/Flags.lean ====
section
/-! DEFINITION. Flags.lean: the flags the spec computes: ErrorRegister (R399), a job's status (R222) and its
CompletionDetail (R220). -/

namespace Sys2Proof.Machine

/-- Any press is at or above its warning threshold (R399, R412); it drives ALERT_N low (R416). -/
def anyWarn (s : State) : Bool := s.presses.any fun e => e.2.thermal.level != .normal

/-- The link has trained and is not at x8 and 32 GT/s now (R399; down counts as below, assumption 13). -/
def linkBelow (s : State) : Bool := s.bridge.trainedOnce && s.bridge.link != some (.x8, .gt32)

/-- The CAN controller is error-passive: a counter has reached 128 (R399; ISO 11898-1, assumption 14). -/
def errorPassive (s : State) : Bool := decide (128 ≤ s.mgmt.tec.toNat) || decide (128 ≤ s.mgmt.recv.toNat)

/-- ErrorRegister (R399). -/
def errorRegister (s : State) : Byte :=
  let temperature := anyWarn s
  let communication := linkBelow s || errorPassive s
  let manufacturer := decide (s.events.newest ≠ s.events.ack)
  BitVec.ofNat 8 (bitOf (temperature || communication || manufacturer) + 8 * bitOf temperature +
    16 * bitOf communication + 128 * bitOf manufacturer)

/-- ALERT_N is driven low (R416). -/
def alertLow (s : State) : Bool := anyWarn s

/-- The status a job completes with (R222): of a check that ended it, or the highest of its outcomes. -/
def jobStatus (j : Job) : BitVec 8 :=
  match j.checkStatus with
  | some c => c
  | none =>
    if j.internal then stInternal else if j.vatResetting then stVatResetting
    else if j.vatPulping then stVatPulping else if j.sealFail then stSealFail
    else if j.scaleSkew then stSkew else if j.rescaled then stRescaled
    else if j.saturated then stSaturated else if j.reissued then stReissued else stDone

/-- CompletionDetail (R220). -/
def completionDetail (j : Job) : BitVec 64 :=
  let st := jobStatus j
  BitVec.ofNat 64 (min j.committed 2097151 * 2 ^ 43 + min j.saturatedPasses 65535 * 2 ^ 27 +
    (if st = stShape then j.cause.toNat else 0) * 2 ^ 19 + min j.drainWait 7 * 2 ^ 16 + bitOf j.reissued * 2 ^ 15 +
    bitOf j.rescaled * 2 ^ 14 + bitOf j.saturated * 2 ^ 13 + st.toNat)

/-! DeckleCause (R221). -/

/-- RESERVED_ENCODING. -/
def dcReserved : BitVec 8 := 0x01
/-- COMBINATION. -/
def dcCombination : BitVec 8 := 0x02
/-- COUCH_SPLIT. -/
def dcCouchSplit : BitVec 8 := 0x03
/-- EXTENT_M. -/
def dcExtentM : BitVec 8 := 0x04
/-- EXTENT_N. -/
def dcExtentN : BitVec 8 := 0x05
/-- EXTENT_K. -/
def dcExtentK : BitVec 8 := 0x06
/-- FELT_CAPACITY. -/
def dcFelt : BitVec 8 := 0x07
/-- ADDRESS_RANGE. -/
def dcAddress : BitVec 8 := 0x08
/-- NO_WEIGHTS. -/
def dcNoWeights : BitVec 8 := 0x09
/-- MACRO_STATE. -/
def dcMacroState : BitVec 8 := 0x0A
/-- PRESS. -/
def dcPress : BitVec 8 := 0x0B
/-- VECTOR_LIMIT. -/
def dcVectorLimit : BitVec 8 := 0x0C

end Sys2Proof.Machine
end

