-- ==== Sys2Proof/Machine/Events.lean ====
section
/-! DEFINITION. Events.lean: raising an event (R398 to R400) and sending MSI-X messages (R246, R278). -/

namespace Sys2Proof.Machine

/-- An optional number as a byte, 0xFF for none (R398). -/
def optByte (o : Option Nat) : Byte := BitVec.ofNat 8 (o.getD 0xFF)

/-- An event is raised: it takes the next sequence number, goes to the log and to the EMCY queue (R398). -/
def raise (code : BitVec 16) (press unit vat : Option Nat) (detail : List Byte) (s : State) : State :=
  let s := s.updEvents fun e => { e with newest := e.newest + 1 }
  let rec' : Event :=
    { code := code, errorRegister := errorRegister s, sequence := s.events.newest, press := optByte press,
      unit := optByte unit, vat := optByte vat, detail := lpad 0 12 detail }
  s.updEvents fun e =>
    { e with
      log := (rec' :: e.log).take 1024
      emcy := if e.emcy.length < 64 then e.emcy ++ [rec'] else e.emcy
      skipped := if e.emcy.length < 64 then e.skipped else satInc e.skipped }

/-- The 24 bytes of an EventRecord (R398). -/
def eventBytes (e : Event) : List Byte :=
  leBytes 2 e.code.toNat ++ [e.errorRegister, 0] ++ leBytes 4 e.sequence.toNat ++ [e.press, e.unit, e.vat, 0] ++
    lpad 0 12 e.detail

/-- EventOldest (R397): 0 while the log is empty. -/
def eventOldest (s : State) : BitVec 32 :=
  match s.events.log.getLast? with
  | none => 0
  | some e => e.sequence

/-- The record of a sequence number, zeros when the log does not hold it (R397). -/
def eventRecord (s : State) (n : BitVec 32) : List Byte :=
  match s.events.log.find? (·.sequence = n) with
  | none => List.replicate 24 0
  | some e => eventBytes e

/-- A message of one MSI-X vector: held in D3hot, pending while masked, sent otherwise (R246, R278). -/
def sendMsix (f vec : Nat) (s : State) : State :=
  s.updFn f fun r =>
    if r.d3hot then { r with held := r.held ++ [vec] }
    else if tget false r.unmasked vec then { r with sent := tmod 0 r.sent vec (· + 1) }
    else { r with pendingBits := tput false r.pendingBits vec true }

/-! The event codes of R400. -/

/-- PROOF_BAND. -/
def evProofBand : BitVec 16 := 0xFF20
/-- PROOF_LIMIT. -/
def evProofLimit : BitVec 16 := 0xFF21
/-- PLATE_SPARE_MAPPED. -/
def evPlateSpareMapped : BitVec 16 := 0xFF22
/-- PLATE_SPARES_LOW. -/
def evPlateSparesLow : BitVec 16 := 0xFF23
/-- PLATE_RETIRED. -/
def evPlateRetired : BitVec 16 := 0xFF24
/-- SLICE_SUBSTITUTED. -/
def evSliceSubstituted : BitVec 16 := 0xFF30
/-- SPARE_SLICE_FAILED. -/
def evSpareSliceFailed : BitVec 16 := 0xFF31
/-- BANK_FALLBACK. -/
def evBankFallback : BitVec 16 := 0xFF32
/-- BANK_PARKED. -/
def evBankParked : BitVec 16 := 0xFF33
/-- BANK_LOST. -/
def evBankLost : BitVec 16 := 0xFF34
/-- FALLBACK_FAILED. -/
def evFallbackFailed : BitVec 16 := 0xFF35
/-- SAT_DRIFT. -/
def evSatDrift : BitVec 16 := 0xFF40
/-- SCALE_COARSE. -/
def evScaleCoarse : BitVec 16 := 0xFF41
/-- STIPPLE_ECC_UNCORRECTED. -/
def evStippleEcc : BitVec 16 := 0xFF48
/-- STIPPLE_MACRO_FAILED. -/
def evMacroFailed : BitVec 16 := 0xFF49
/-- ACC_SATURATED. -/
def evAccSaturated : BitVec 16 := 0xFF4A
/-- REAM_STAGED. -/
def evReamStaged : BitVec 16 := 0xFF50
/-- REAM_FAILED. -/
def evReamFailed : BitVec 16 := 0xFF51
/-- SWAP_COMPLETE. -/
def evSwapComplete : BitVec 16 := 0xFF52
/-- ENGRAVE_HELD_HOT. -/
def evEngraveHeldHot : BitVec 16 := 0xFF53
/-- ENDURANCE_WARN. -/
def evEnduranceWarn : BitVec 16 := 0xFF54
/-- STREAM_REKEY_DUE. -/
def evStreamRekeyDue : BitVec 16 := 0xFF60
/-- LINK_DEGRADED. -/
def evLinkDegraded : BitVec 16 := 0xFF61
/-- PCIE_UNCORRECTABLE. -/
def evPcieUncorrectable : BitVec 16 := 0xFF62
/-- PAGE_RETIRED. -/
def evPageRetired : BitVec 16 := 0xFF70
/-- PAGE_POOL_EMPTY. -/
def evPagePoolEmpty : BitVec 16 := 0xFF71
/-- PAGE_NOT_OWNED. -/
def evPageNotOwned : BitVec 16 := 0xFF72
/-- MEM_UNCORRECTABLE. -/
def evMemUncorrectable : BitVec 16 := 0xFF73
/-- PAGE_MAP_ECC. -/
def evPageMapEcc : BitVec 16 := 0xFF74
/-- VAT_CONFIGURED. -/
def evVatConfigured : BitVec 16 := 0xFF80
/-- VAT_PULP_STARTED. -/
def evVatPulpStarted : BitVec 16 := 0xFF81
/-- VAT_PULP_DONE. -/
def evVatPulpDone : BitVec 16 := 0xFF82
/-- DEBUG_ENTERED. -/
def evDebugEntered : BitVec 16 := 0xFF83
/-- DEBUG_LEFT. -/
def evDebugLeft : BitVec 16 := 0xFF84
/-- KEY_EXCHANGE_FAILED. -/
def evKeyExchangeFailed : BitVec 16 := 0xFF85
/-- MGMT_SESSION_OPENED. -/
def evSessionOpened : BitVec 16 := 0xFF90
/-- MGMT_SESSION_CLOSED. -/
def evSessionClosed : BitVec 16 := 0xFF91
/-- MGMT_AUTH_FAILED. -/
def evAuthFailed : BitVec 16 := 0xFF92
/-- CAN_BUS_OFF. -/
def evCanBusOff : BitVec 16 := 0xFF93
/-- THERM_WARN. -/
def evThermWarn : BitVec 16 := 0xFFA0
/-- THERM_THROTTLE. -/
def evThermThrottle : BitVec 16 := 0xFFA1
/-- THERM_HOLD. -/
def evThermHold : BitVec 16 := 0xFFA2
/-- THERM_RISE. -/
def evThermRise : BitVec 16 := 0xFFA3
/-- THERM_CLEAR. -/
def evThermClear : BitVec 16 := 0xFFA4
/-- POWER_LIMITED. -/
def evPowerLimited : BitVec 16 := 0xFFA5
/-- SURVEY_WINDOW. -/
def evSurveyWindow : BitVec 16 := 0xFFA8
/-- REFRESH_OVERDUE. -/
def evRefreshOverdue : BitVec 16 := 0xFFAA
/-- PRESS_RETIRED. -/
def evPressRetired : BitVec 16 := 0xFFC0
/-- SPARE_PRESS_ENGAGED. -/
def evSpareEngaged : BitVec 16 := 0xFFC1
/-- SPARE_PRESSES_EXHAUSTED. -/
def evSparesExhausted : BitVec 16 := 0xFFC2
/-- PERSONALITY_STAGED. -/
def evImageStaged : BitVec 16 := 0xFFC3
/-- PERSONALITY_ACTIVATED. -/
def evImageActivated : BitVec 16 := 0xFFC4
/-- PERSONALITY_REJECTED. -/
def evImageRejected : BitVec 16 := 0xFFC5
/-- SELF_TEST_FAILED. -/
def evSelfTestFailed : BitVec 16 := 0xFFC6
/-- RESET_DONE. -/
def evResetDone : BitVec 16 := 0xFFC7

end Sys2Proof.Machine
end

