-- ==== Sys2Proof/Machine/Keys.lean ====
section
/-! DEFINITION. Keys.lean: key derivation and sealing (R265, R345, R346, R366), over the uninterpreted functions of
Config (assumption 4). -/

namespace Sys2Proof.Machine

/-- An ASCII label as bytes (R346). -/
def ascii (t : String) : List Byte := t.toList.map fun c => BitVec.ofNat 8 c.toNat

/-- A 256-bit string, most significant byte first. -/
def bytes256 (v : BitVec 256) : List Byte := beBytes 32 v.toNat
/-- A point, x then y. -/
def bytes512 (v : BitVec 512) : List Byte := beBytes 64 v.toNat
/-- Bytes as a w-bit string, most significant byte first. -/
def ofBytes (w : Nat) (l : List Byte) : BitVec w := BitVec.ofNat w (beNat l)

/-! The curve of GB/T 32918.5, whose constants the spec does not repeat (PRESUMED, assumption 24). -/

/-- The prime p. -/
def sm2Prime : Nat := 0xFFFFFFFEFFFFFFFFFFFFFFFFFFFFFFFFFFFFFFFF00000000FFFFFFFFFFFFFFFF
/-- The coefficient b; a is p - 3. -/
def sm2B : Nat := 0x28E9FA9E9D9F5E344D5A9E4BCF6509A7F39789F515AB8F92DDBCBD414D940E93
/-- The order n of the base point (R346). -/
def sm2Order : Nat := 0xFFFFFFFEFFFFFFFFFFFFFFFFFFFFFFFF7203DF6B21C6052B53BBF40939D54123
/-- x then y is a point of the curve (R349, R381). -/
def sm2OnCurve (v : BitVec 512) : Bool :=
  let x := v.toNat / 2 ^ 256
  let y := v.toNat % 2 ^ 256
  decide (x < sm2Prime ∧ y < sm2Prime ∧ y * y % sm2Prime = (x * x * x + (sm2Prime - 3) * x + sm2B) % sm2Prime)

/-- A private key derived from IdentitySeed and a label (R346). -/
def derivedKey (seed : BitVec 256) (label : String) : BitVec 256 :=
  BitVec.ofNat 256 (1 + (Config.kdf320 (bytes256 seed ++ ascii label)).toNat % (sm2Order - 2))

/-- Whether FuseState bits [2:0] are all 1 (R366). -/
def rootsFused (o : Otp) : Bool := o.identityFused && o.masterFused && o.ownerFused

/-- FuseState (R366). -/
def fuseState (s : State) : BitVec 32 :=
  BitVec.ofNat 32 (s.otp.skuCode.toNat * 256 + bitOf s.dev.parityGood * 16 + bitOf s.otp.trimFused * 8 +
    bitOf s.otp.ownerFused * 4 + bitOf s.otp.masterFused * 2 + bitOf s.otp.identityFused)

/-- StreamKey (R346). -/
def streamKey (master : BitVec 256) (vat stream : Nat) (nonce : BitVec 256) : BitVec 128 :=
  Config.kdf128 (bytes256 master ++ ascii "OZ7120-STREAM" ++ beBytes 1 vat ++ beBytes 4 stream ++ bytes256 nonce)

/-- SessionKey (R381). -/
def sessionKey (master : BitVec 256) (id : BitVec 32) (nonce : BitVec 256) : BitVec 128 :=
  Config.kdf128 (bytes256 master ++ ascii "OZ7120-MGMT" ++ beBytes 4 id.toNat ++ bytes256 nonce)

/-- The nonce of a sealed item (R265): D is false inbound, true outbound. -/
def sealNonce (d : Bool) (stream : Nat) (counter : BitVec 64) : BitVec 96 :=
  BitVec.ofNat 96 ((bitOf d * 2 ^ 31 + stream) * 2 ^ 64 + counter.toNat)

/-- The key stream of n bytes. -/
def gcmBytes (key : BitVec 128) (nonce : BitVec 96) (n : Nat) : List Byte :=
  (List.range n).map fun i => Config.gcmStream key nonce i

/-- SM4-GCM encryption: ciphertext and tag. -/
def gcmSeal (key : BitVec 128) (nonce : BitVec 96) (aad plain : List Byte) : List Byte × BitVec 128 :=
  let ct := xorBytes plain (gcmBytes key nonce plain.length)
  (ct, Config.gcmTag key nonce aad ct)

/-- SM4-GCM decryption: none when the tag is not valid. -/
def gcmOpen (key : BitVec 128) (nonce : BitVec 96) (aad ct : List Byte) (tag : BitVec 128) : Option (List Byte) :=
  if Config.gcmTag key nonce aad ct = tag then some (xorBytes ct (gcmBytes key nonce ct.length)) else none

/-- A 128-bit tag as bytes. -/
def tagBytes (t : BitVec 128) : List Byte := beBytes 16 t.toNat
/-- Sixteen bytes as a tag. -/
def tagOf (l : List Byte) : BitVec 128 := ofBytes 128 l

/-- A random 256-bit number of the SM hub, and the state after the draw (R349). -/
def drawRandom (s : State) : BitVec 256 × State := (Config.randomBits s.free, s.draw.2)

end Sys2Proof.Machine
end

