-- ==== Sys2Proof/Machine/Counters.lean ====
section
/-! DEFINITION. Counters.lean: the counter bank's operations (R236 to R240) and a vat's exact counts (R360). -/

namespace Sys2Proof.Machine

/-- The answer to a claim fetch-add (R239). -/
inductive ClaimAnswer
  | index (i : Nat)
  | exhausted
  | ledgerFull
  deriving DecidableEq, Repr

/-- The device-wide number of a vat-relative counter (R236). -/
def counterNo (v c : Nat) : Nat := 512 * v + c

/-- A claim fetch-add on counter c by press p (R239); a full ledger answers first (assumption 17). -/
def claimFetchAdd (c : Nat) (p : Press) (s : State) : ClaimAnswer × State :=
  let r := s.counter c
  if 256 ≤ r.ledger.length then (.ledgerFull, s)
  else
    match r.returns with
    | i :: rest => (.index i, s.setCounter c { r with ledger := r.ledger ++ [(p, i)], returns := rest })
    | [] =>
      if r.value < r.limit then
        (.index r.value.toNat,
          s.setCounter c { r with ledger := r.ledger ++ [(p, r.value.toNat)], value := r.value + 1 })
      else (.exhausted, s)

/-- A claim return after its chunk is committed (R239). -/
def claimReturn (c : Nat) (p : Press) (i : Nat) (s : State) : State :=
  s.updCounter c fun r => { r with ledger := r.ledger.filter (· ≠ (p, i)) }

/-- One claim goes from the ledger to the return list (R447). -/
def claimToList (c : Nat) (p : Press) (i : Nat) (s : State) : State :=
  s.updCounter c fun r =>
    if (p, i) ∈ r.ledger then { r with ledger := r.ledger.filter (· ≠ (p, i)), returns := r.returns ++ [i] } else r

/-- An index put into an ascending list. -/
def insertAsc (i : Nat) : List Nat → List Nat
  | [] => [i]
  | j :: r => if i ≤ j then i :: j :: r else j :: insertAsc i r

/-- Every claim of a press goes to the return lists, in ascending index order (R240). -/
def claimsOfPress (p : Press) (s : State) : State :=
  forL (s.counters.map Prod.fst) (fun c t => t.updCounter c fun r =>
    let mine := (r.ledger.filter (·.1 = p)).foldl (fun l e => insertAsc e.2 l) []
    { r with ledger := r.ledger.filter (·.1 ≠ p), returns := r.returns ++ mine }) s

/-- Every work counter of a vat returns to Value 0 and Limit 0 with empty lists (R352 step 6). -/
def clearCounters (v : Nat) (s : State) : State :=
  { s with counters := tcut s.counters (512 * v) (512 * v + 512) }

/-- One is added to a vat's counter (R235). -/
def counterSignal (v c : Nat) (s : State) : State := s.updCounter (counterNo v c) fun r => { r with value := r.value + 1 }

/-- A vat's reading is held at PadWatts (R355). -/
def padded (r : VatRec) : Bool := decide (r.state = .pulping) || decide (0 < r.padHold)

/-- VatPower (R361, R355). -/
def vatPower (r : VatRec) : Nat := if padded r then r.padWatts.toNat else r.power.toNat

/-- n is added to count i of a vat (R360): 0 passes, 1 bits, 2 operations, 3 bytes, 4 completions. -/
def countExact (v i n : Nat) (s : State) : State :=
  s.updVat v fun r => { r with exact := lset r.exact i (lget 0 r.exact i + n) }

end Sys2Proof.Machine
end

