-- ==== Sys2Proof/Machine/Pages.lean ====
section
/-! DEFINITION. Pages.lean: the page map, translation, ECC and retirement of package memory (R281 to R300). -/

namespace Sys2Proof.Machine

/-- The stack of a frame (R281). -/
def stackOf (f : Nat) : Nat := f % 4
/-- The memory hub of a frame (R281). -/
def hubOf (f : Nat) : Nat := f % 4 / 2
/-- The map frame that holds the entry of frame f (R287). -/
def mapFrame (f : Nat) : Nat := 4 * (f / 4 / 256) + f % 4
/-- The byte offset of the entry of frame f in its map frame (R287). -/
def mapOffset (f : Nat) : Nat := 8 * (f / 4 % 256)
/-- The frames whose entries a map frame holds (R287). -/
def mapFrames (m : Nat) : List Nat := (List.range 256).map fun k => 4 * (256 * (m / 4) + k) + m % 4

/-- The page-map entry of a frame (R288); map frames carry Use MAP (R287). -/
def State.pageEntry (s : State) (f : Nat) : PageEntry :=
  if f < 65536 then { tget {} s.hubs.map f with use := .map } else tget {} s.hubs.map f
/-- The state with f applied to the entry of a frame. -/
def State.updEntry (s : State) (f : Nat) (g : PageEntry → PageEntry) : State :=
  s.updHubs fun h => { h with map := tmod {} h.map f g }

/-- A PageEntry word (R288). -/
def pageWord (e : PageEntry) : Nat :=
  let st := match e.state with
    | .free => 0
    | .owned => 1
    | .pulping => 2
    | .retired => 3
  let use := match e.use with
    | .data => 0
    | .staging => 1
    | .map => 3
  st * 2 ^ 62 + e.vat % 8 * 2 ^ 59 + bitOf e.forwarded * 2 ^ 58 + use * 2 ^ 56 + min e.corrected 255 * 2 ^ 48 +
    e.forwardFrame % 2 ^ 24 * 2 ^ 24 + e.vatPage % 2 ^ 24

/-- The number of pages in a state other than FREE (R301). -/
def pagesIn (s : State) (st : PageSt) : Nat :=
  (s.hubs.map.filter fun e => decide (65536 ≤ e.1) && decide (e.2.state = st)).length
/-- FreePages (R290). -/
def freePages (s : State) : Nat :=
  16711680 - (s.hubs.map.filter fun e => decide (65536 ≤ e.1) && decide (e.2.state ≠ .free)).length
/-- Frames in a state for a vat. -/
def vatFrames (s : State) (v : Nat) (st : PageSt) : List Nat :=
  (s.hubs.map.filter fun e => decide (65536 ≤ e.1) && decide (e.2.state = st ∧ e.2.vat = v)).map Prod.fst

/-- Frame f lies in the quota range of a vat that is not OFF (R291). -/
def inSomeQuota (s : State) (f : Nat) : Option (Nat × Nat) :=
  ((List.range 8).filterMap fun v =>
    let r := s.vat v
    if r.state ≠ .off ∧ r.quotaBase.toNat ≤ f ∧ f < r.quotaBase.toNat + r.quotaPages.toNat
    then some (r.quotaBase.toNat, r.quotaPages.toNat) else none).head?

/-- The lowest FREE frame of the replacement pool on a stack that no running copy takes (R298), from frame f up. -/
def findPool (s : State) (stack : Nat) : Nat → Nat → Option Nat
  | 0, _ => none
  | fuel + 1, f =>
    if 16777216 ≤ f then none
    else
      match inSomeQuota s f with
      | some (b, n) => findPool s stack fuel (b + n + (stack + 4 - (b + n) % 4) % 4)
      | none =>
        if (s.pageEntry f).state = .free ∧ s.hubs.copies.all (fun c => decide (c.target ≠ f)) then some f
        else findPool s stack fuel (f + 4)

/-- The replacement frame for frame f (R298 step 1): on its stack, else the lowest on any. -/
def poolFrame (s : State) (f : Nat) : Option Nat :=
  match findPool s (stackOf f) 4177921 (65536 + stackOf f) with
  | some r => some r
  | none => (((List.range 4).filterMap fun k => findPool s k 4177921 (65536 + k)).min?)

/-- Translation of a vat page of a Use (R294): the frame it lies in, none when the vat does not own it so (R296). -/
def State.pageFrame (s : State) (use : PageUse) (v p : Nat) : Option Nat :=
  let r := s.vat v
  if p < r.quotaPages.toNat then
    let f := r.quotaBase.toNat + p
    let e := s.pageEntry f
    let f' := if e.state = .retired ∧ e.forwarded then e.forwardFrame else f
    let e' := s.pageEntry f'
    if e'.state = .owned ∧ e'.vat = v ∧ e'.vatPage = p ∧ e'.use = use then some f' else none
  else none

/-- Translation of a vat page that jobs may address (R294). -/
def State.vatFrame (s : State) (v p : Nat) : Option Nat := s.pageFrame .data v p

/-- Bytes of a frame. -/
def State.frameRead (s : State) (f off n : Nat) : List Byte := tgetN 0 s.hubs.mem (2048 * f + off) n

/-- A word of physical memory is poisoned (R284). -/
def State.poisoned (s : State) (f off : Nat) : Bool := tget false s.hubs.poison (256 * f + off / 8)

/-- Bytes at a vat-relative address; pages the vat does not own read zeros (R296). -/
def State.pkgRead (s : State) (v a n : Nat) : List Byte :=
  (List.range n).map fun i =>
    match s.vatFrame v ((a + i) / 2048) with
    | some f => tget 0 s.hubs.mem (2048 * f + (a + i) % 2048)
    | none => 0

/-- The first vat page of a range that the vat does not own (R296). -/
def State.badPage (s : State) (v a n : Nat) : Option Nat :=
  (List.range (if n = 0 then 0 else (a + n + 2047) / 2048 - a / 2048)).findSome? fun i =>
    match s.vatFrame v (a / 2048 + i) with
    | some _ => none
    | none => some (a / 2048 + i)

/-- The frame of the first poisoned word of a range (R284). -/
def State.badWord (s : State) (v a n : Nat) : Option Nat :=
  (List.range (if n = 0 then 0 else (a + n + 7) / 8 - a / 8)).findSome? fun i =>
    let w := 8 * (a / 8 + i)
    match s.vatFrame v (w / 2048) with
    | some f => if s.poisoned f (w % 2048) then some f else none
    | none => none

/-- Bytes written at a vat-relative address; those on pages the vat does not own are discarded (R296). A whole 64-bit
word written replaces its poison (R284). -/
def State.pkgWrite (s : State) (v a : Nat) (bs : List Byte) : State :=
  let n := bs.length
  let put := fun (h : Hubs) (e : Nat × Byte) =>
    match s.vatFrame v (e.1 / 2048) with
    | some f =>
      let w := 8 * (e.1 / 8)
      let phys := 2048 * f + e.1 % 2048
      let poison := if a ≤ w ∧ w + 8 ≤ a + n then tput false h.poison (phys / 8) false else h.poison
      { h with mem := tput 0 h.mem phys e.2, poison := poison }
    | none => h
  s.updHubs fun h => ((List.range n).zip bs |>.map fun e => (a + e.1, e.2)).foldl put h

/-- PAGE_RETIRED is raised (R302). -/
def raisePageRetired (f : Nat) (repl : Option Nat) (cause : Nat) (vat : Option Nat) (s : State) : State :=
  raise evPageRetired none (some (hubOf f)) vat (leBytes 4 f ++ leBytes 4 (repl.getD 0xFFFFFFFF) ++ leBytes 1 cause) s

/-- A page is retired without a replacement (R297, R298). -/
def retireAlone (f cause : Nat) (s : State) : State :=
  let e := s.pageEntry f
  let owner := if e.state = .free then none else some e.vat
  raisePageRetired f none cause owner
    (s.updEntry f fun x => { x with state := .retired, forwarded := false, forwardFrame := 0 })

/-- A copy whose replacement frame has been lost takes another (R298 step 1); where the pool has none, its page is
retired without a replacement, and PAGE_COPY_DONE releases what it holds. -/
def retargetCopy (f : Nat) (s : State) : State :=
  forL (s.hubs.copies.filter fun c => decide (c.target = f)) (fun c t =>
    match poolFrame t c.frame with
    | some r => t.updHubs fun h =>
        { h with copies := h.copies.map fun x => if x.frame = c.frame then { x with target := r } else x }
    | none =>
      if (t.pageEntry c.frame).state = .owned then
        raise evPagePoolEmpty none (some (hubOf c.frame)) (some c.vat.val) (leBytes 4 c.vatPage) (retireAlone c.frame c.cause t)
      else t) s

/-- Retirement of a page (R297): at once when FREE or PULPING, by a live copy when OWNED (R298). A frame that a copy
already moves is left to that copy; a copy whose replacement frame is retired takes another. -/
def retirePage (f cause : Nat) (s : State) : State :=
  let e := s.pageEntry f
  if f < 65536 ∨ e.state = .retired ∨ s.hubs.copies.any (fun c => decide (c.frame = f)) then s
  else if e.state = .owned then
    match poolFrame s f with
    | some r =>
      s.updHubs fun h =>
        { h with copies := h.copies ++ [{ frame := f, target := r, vat := Fin.ofNat 8 e.vat, vatPage := e.vatPage, cause := cause }] }
    | none =>
      raise evPagePoolEmpty none (some (hubOf f)) (some e.vat) (leBytes 4 e.vatPage) (retireAlone f cause s)
  else retargetCopy f (retireAlone f cause s)

/-- A corrected single-bit error of a frame (R284, R297); the entry of a RETIRED page keeps its count (R289). -/
def correctedError (f : Nat) (s : State) : State :=
  let s := s.updEntry f fun e => if e.state = .retired then e else { e with corrected := min 255 (e.corrected + 1) }
  let s := s.updHubs fun h => { h with correctedTotal := satInc h.correctedTotal }
  if s.settings.retireThreshold.toNat ≤ (s.pageEntry f).corrected then retirePage f 1 s else s

/-- A map frame with an uncorrectable error loses its entries (R300). -/
def mapFrameLost (m : Nat) (s : State) : State :=
  let s := forL (mapFrames m) (fun f t =>
    if f < 65536 then t
    else
      retargetCopy f (t.updEntry f fun e => { state := .retired, vat := 0, vatPage := e.vatPage })) s
  raise evPageMapEcc none (some (hubOf m)) none (leBytes 4 m) s

/-- An uncorrectable error of a frame (R284, R297, R300). -/
def uncorrectableError (f : Nat) (s : State) : State :=
  let s := s.updHubs fun h => { h with uncorrectableTotal := satInc h.uncorrectableTotal }
  let e := s.pageEntry f
  let s := raise evMemUncorrectable none (some (hubOf f)) (if e.state = .owned then some e.vat else none) (leBytes 4 f) s
  if f < 65536 then mapFrameLost f s else retirePage f 2 s

/-- PAGE_NOT_OWNED is raised (R296). -/
def raiseNotOwned (v p : Nat) (s : State) : State :=
  raise evPageNotOwned none (some (hubOf ((s.vat v).quotaBase.toNat + p))) (some v) (leBytes 4 p) s

/-- Words of a frame written with zeros. -/
def zeroFrame (f : Nat) (s : State) : State :=
  s.updHubs fun h =>
    { h with mem := tcut h.mem (2048 * f) (2048 * f + 2048), poison := tcut h.poison (256 * f) (256 * f + 256) }

/-- A page of a range of a vat is under copy: new requests to it are held (R298 step 2). -/
def State.copying (s : State) (v a n : Nat) : Bool :=
  decide (0 < n) && s.hubs.copies.any fun c =>
    decide (c.vat.val = v ∧ a / 2048 ≤ c.vatPage ∧ c.vatPage ≤ (a + n - 1) / 2048)

/-- A request to n bytes at a vat-relative address waits at the first copy that holds one of its pages. -/
def holdRequest (v a n : Nat) (r : HeldAccess) (s : State) : State :=
  let go := fun (acc : List Copy × Bool) (c : Copy) =>
    if !acc.2 ∧ c.vat.val = v ∧ a / 2048 ≤ c.vatPage ∧ c.vatPage ≤ (a + n - 1) / 2048 then
      (acc.1 ++ [{ c with held := c.held ++ [r] }], true)
    else (acc.1 ++ [c], acc.2)
  s.updHubs fun h => { h with copies := (h.copies.foldl go ([], false)).1 }

/-- The bytes of a range cut at the ends of pages, with their addresses. -/
def pagePieces (a : Nat) (bs : List Byte) : List (Nat × List Byte) :=
  (List.range ((a + bs.length + 2047) / 2048 - a / 2048)).map fun i =>
    let lo := max a (2048 * (a / 2048 + i))
    (lo, (bs.drop (lo - a)).take (2048 * (a / 2048 + i) + 2048 - lo))

/-- The parts of a range cut at the ends of pages: address and length. -/
def pageParts (a n : Nat) : List (Nat × Nat) :=
  (List.range ((a + n + 2047) / 2048 - a / 2048)).map fun i =>
    let lo := max a (2048 * (a / 2048 + i))
    (lo, min (a + n) (2048 * (a / 2048 + i) + 2048) - lo)

/-! ## Staged sections (R296, R309, R310; layout: assumption 96) -/

/-- Pages that a section takes in the staging area (R310). -/
def Section.pages (x : Section) : Nat := ceilDiv x.body.length 2048

/-- The pages of the staging area that hold section x of a ream, in order: the sections lie one after the other on the pages
that the ream holds. -/
def Ream.pagesOf (r : Ream) (x : Section) : List Nat :=
  let before := r.sections.takeWhile fun y => decide (y ≠ x)
  (r.held.drop ((before.map Section.pages).foldl (· + ·) 0)).take x.pages

/-- The vat page of page i of a vat's staging area (R309). -/
def stagingPage (r : VatRec) (i : Nat) : Nat := r.quotaPages.toNat - r.stagingPages.toNat + i

/-- A page that holds a section of a ream is under copy: reads of it are held (R298 step 2). -/
def sectionHeld (s : State) (v : Nat) (r : Ream) (x : Section) : Bool :=
  (r.pagesOf x).any fun i => s.copying v (2048 * stagingPage (s.vat v) i) 1

/-- A read of a staged section: its bytes, with zeros on a page that the vat no longer owns (R296) and free bytes where a
word is poisoned; the first such page, and the frames of the poisoned words (R284). -/
structure StagedRead where
  body : List Byte
  lost : Option Nat
  bad : List Nat
  deriving DecidableEq, Repr

/-- Section x of a staged ream of vat v as a read finds it. -/
def readSection (s : State) (v : Nat) (r : Ream) (x : Section) : StagedRead :=
  let place := fun (k : Nat) =>
    match (r.pagesOf x)[k]? with
    | some i => s.pageFrame .staging v (stagingPage (s.vat v) i)
    | none => none
  let frames := (List.range x.pages).map place
  let at' := fun (i : Nat) => lget none frames (i / 2048)
  let poison := fun (i : Nat) => (at' i).any fun f => s.poisoned f (i % 2048)
  let lost := (List.range x.pages).find? fun k => (place k).isNone
  let bad := (List.range (ceilDiv x.body.length 8)).filterMap fun w => if poison (8 * w) then at' (8 * w) else none
  if lost.isNone && bad.isEmpty then { body := x.body, lost := none, bad := [] }
  else
    { body := ((List.range x.body.length).zip x.body).map fun e =>
        if (at' e.1).isNone then 0 else if poison e.1 then Config.freeByte (s.free + e.1) else e.2
      lost := lost.map fun k => stagingPage (s.vat v) (lget 0 (r.pagesOf x) k), bad := bad }

/-- What a read of a staged section does to the hubs (R284, R297). PAGE_NOT_OWNED is raised for jobs alone (R296). -/
def stagedFaults (x : StagedRead) (s : State) : State :=
  let s := if x.bad = [] then s else { s with free := s.free + x.body.length }
  forL x.bad (fun f t => uncorrectableError f t) s

/-- The frames that hold pages of a vat's staging area. -/
def stagingFrames (s : State) (v : Nat) (l : List Nat) : List Nat :=
  l.filterMap fun i => s.pageFrame .staging v (stagingPage (s.vat v) i)

/-- What a copy reads (R284, R298 step 3): single-bit errors are corrected and counted, and each uncorrectable word is
counted and raised, and copied as poison. -/
def copyReads (f : Nat) (found : List (Fin 256 × Ecc)) (s : State) : State :=
  let bad := (List.range 256).filter fun w =>
    s.poisoned f (8 * w) || found.any fun e => decide (e.1.val = w ∧ e.2 = .double)
  let single := found.filter fun e => decide (e.2 = .single) && !s.poisoned f (8 * e.1.val)
  let s := forL single (fun _ t => correctedError f t) s
  forL bad (fun w t => uncorrectableError f (t.updHubs fun h => { h with poison := tput false h.poison (256 * f + w) true })) s

/-- A live copy ends (R298 steps 3 to 6): contents, poison and entries move to the replacement. -/
def finishCopy (c : Copy) (s : State) : State :=
  let f := c.frame
  let r := c.target
  let use := (s.pageEntry f).use
  let data := s.frameRead f 0 2048
  let bad := (List.range 256).filter fun w => s.poisoned f (8 * w)
  let s := zeroFrame r s
  let s := s.updHubs fun h =>
    { h with
      mem := tputL 0 h.mem (2048 * r) data
      poison := bad.foldl (fun m w => tput false m (256 * r + w) true) h.poison
      copies := h.copies.filter fun x => decide (x.frame ≠ f) }
  let s := s.updEntry r fun e => { e with state := .owned, vat := c.vat.val, vatPage := c.vatPage, use := use }
  let s := s.updEntry f fun e => { e with state := .retired, forwarded := true, forwardFrame := r }
  let s := s.updHubs fun h =>
    { h with map := tmap {} (fun _ e => if e.state = .retired ∧ e.forwarded ∧ e.forwardFrame = f then { e with forwardFrame := r } else e) h.map }
  raisePageRetired f (some r) c.cause (some c.vat.val) s

/-- One RETIRED frame of a quota is given a replacement at allocation (R292); the vat page is blank. -/
def allocateReplacement (v f p : Nat) (use : PageUse) (s : State) : State :=
  match poolFrame s f with
  | some r =>
    let s := s.updEntry r fun e => { e with state := .owned, vat := v, vatPage := p, use := use }
    s.updEntry f fun e => { e with forwarded := true, forwardFrame := r }
  | none => raise evPagePoolEmpty none (some (hubOf f)) (some v) (leBytes 4 p) s

/-- Allocation of a vat's quota (R292). -/
def allocateQuota (v : Nat) (s : State) : State :=
  let r := s.vat v
  forN r.quotaPages.toNat (fun p t =>
    let f := r.quotaBase.toNat + p
    let use : PageUse := if r.quotaPages.toNat ≤ p + r.stagingPages.toNat then .staging else .data
    match (t.pageEntry f).state with
    | .free => t.updEntry f fun e => { e with state := .owned, vat := v, vatPage := p, use := use }
    | .retired =>
      let e := t.pageEntry f
      if e.forwarded ∧ (t.pageEntry e.forwardFrame).state = .owned then t else allocateReplacement v f p use t
    | _ => t) s

/-- Every OWNED page of a vat becomes PULPING (R293); a copy in progress is abandoned and its
page retired alone; PAGE_COPY_DONE releases what it holds. -/
def startPagePulp (v : Nat) (s : State) : State :=
  let moving := s.hubs.copies.filter fun c => decide (c.vat.val = v) && decide ((s.pageEntry c.frame).state = .owned)
  let s := s.updHubs fun h =>
    { h with
      map := tmap {} (fun f e => if e.state = .owned ∧ e.vat = v ∧ 65536 ≤ f then { e with state := .pulping } else e) h.map }
  forL moving (fun c t => retireAlone c.frame c.cause t) s

/-- A PULPING page has been written with zeros and becomes FREE (R293). -/
def pulpPage (f : Nat) (s : State) : State :=
  let s := zeroFrame f s
  let s := s.updEntry f fun e => { corrected := e.corrected }
  s.updHubs fun h =>
    { h with map := tmap {} (fun _ e => if e.state = .retired ∧ e.forwarded ∧ e.forwardFrame = f then { e with forwarded := false, forwardFrame := 0 } else e) h.map }

end Sys2Proof.Machine
end

