-- ==== Sys2Proof/Machine/Operands.lean ====
section
/-! DEFINITION. Operands.lean: the operand forms: the job descriptor (R211), VectorParams (R194), the addresses of R214,
and reading and writing the ranges that they name (R215, R226, R266 to R268, R274, R296). -/

namespace Sys2Proof.Machine

/-! ## Descriptors -/

/-- The fields of a 64-byte descriptor (R211). -/
def decodeDescriptor (l : List Byte) : Descriptor :=
  let v := leAt l 0 64
  let f := fun (w msb lsb : Nat) => BitVec.ofNat w (field v msb lsb)
  { scaleAddress := f 48 511 464, preloadAddress := f 48 463 416, dstAddress := f 48 415 368
    srcAddress := f 48 367 320, k := f 32 319 288, n := f 32 287 256, m := f 32 255 224, waitValue := f 32 223 192
    claimCounter := f 9 177 169, syncCounter := f 9 168 160, inputBf16 := nbit v 159, feltBase := f 13 158 146
    extentIndirect := f 3 145 143, claimed := nbit v 142, waitOnCounter := nbit v 141, signalOnDone := nbit v 140
    afterPrior := nbit v 139, accMode16 := nbit v 138, stippleInput16 := nbit v 137, oz4030 := nbit v 136
    disableJoin := nbit v 135, disableActivation := nbit v 134, feltMode := f 2 133 132, preloadSelect := f 3 131 129
    outputFormat := f 3 128 126, scaleSource := f 2 125 124, resolution := f 2 123 122, sliced := nbit v 121
    plateCount := f 5 120 116, plateFirst := f 4 115 112, macroSet := f 2 111 110, pressIndex := f 6 109 104
    epoch := f 16 103 88, stream := f 12 87 76, vat := f 3 74 72, opcode := f 8 71 64, hostTag := f 64 63 0 }

/-- The fields of a 64-byte VectorParams block (R194). -/
def decodeVectorParams (l : List Byte) : VectorParams :=
  let v := leAt l 0 64
  let f := fun (w msb lsb : Nat) => BitVec.ofNat w (field v msb lsb)
  { params := (List.range 8).map fun j => f 16 (399 + 16 * j) (384 + 16 * j)
    rowCount := f 32 383 352, rowLength := f 32 351 320, dst := f 64 319 256, src2 := f 64 255 192
    src1 := f 64 191 128, src0 := f 64 127 64, headDim := f 9 47 39, count := f 7 38 32, keepStats := nbit v 27
    topKEntries := nbit v 26, topKMin := nbit v 25, stochasticRound := nbit v 24, activationEnable := nbit v 23
    activationTable := f 3 22 20, decodeBook := f 4 19 16, outFormat := f 4 15 12, inFormat := f 4 11 8, op := f 8 7 0 }

/-! Opcodes (R212). -/

/-- PLATE. -/
def opPlate : BitVec 8 := 0x01
/-- STIPPLE. -/
def opStipple : BitVec 8 := 0x02
/-- VECTOR. -/
def opVector : BitVec 8 := 0x03
/-- MACRO_LOAD. -/
def opMacroLoad : BitVec 8 := 0x04
/-- DRAIN_READ. -/
def opDrainRead : BitVec 8 := 0x05
/-- DRAIN_CLEAR. -/
def opDrainClear : BitVec 8 := 0x06
/-- COUNTER_SET. -/
def opCounterSet : BitVec 8 := 0x07

/-- A descriptor with the flags that its opcode does not use cleared (R212: such a field is ignored). -/
def usedFields (d : Descriptor) : Descriptor :=
  let work := decide (d.opcode = opPlate ∨ d.opcode = opStipple)
  let counters := work || decide (d.opcode = opVector ∨ d.opcode = opMacroLoad)
  { d with
    claimed := d.claimed && work, waitOnCounter := d.waitOnCounter && counters
    signalOnDone := d.signalOnDone && counters, afterPrior := d.afterPrior && decide (d.opcode ≠ opCounterSet) }

/-! ## Addresses (R214) -/

/-- A vat-relative address by its space. -/
inductive Addr
  | scratch (press off : Nat)
  | package (a : Nat)
  | host (off : Nat)
  | mailbox (e off : Nat)
  deriving DecidableEq, Repr

/-- The address that 48 bits spell (R214). -/
def parseAddr (v : Nat) : Addr :=
  match field v 47 46 with
  | 0 => .scratch (field v 45 40) (field v 19 0)
  | 1 => .package (field v 45 0)
  | 2 => .host (field v 45 0)
  | _ => .mailbox (field v 15 0) 0

/-- The address n bytes further. -/
def Addr.plus : Addr → Nat → Addr
  | .scratch p o, n => .scratch p (o + n)
  | .package a, n => .package (a + n)
  | .host o, n => .host (o + n)
  | .mailbox e o, n => .mailbox e (o + n)

/-- The number of bytes of a stream's bounce region (R266). -/
def Stream.bounceBytes (r : Stream) : Nat := field r.cfg.bounceBlocks.toNat 19 0 * 4096

/-- A range of n bytes lies in its space: jobs address scratch below offset 0xB_0000 of a press of the vat (R132, R215). -/
def rangeOk (s : State) (v : Nat) (st : StreamId) (a : Addr) (n : Nat) : Bool :=
  match a with
  | .scratch e o => (s.physPress v e).isSome && decide (o + n ≤ 0xB0000)
  | .package x => decide (x + n ≤ (s.vat v).quotaPages.toNat * 2048)
  | .host o => decide (o + n ≤ (s.stream st).bounceBytes)
  | .mailbox e o => decide (e < 4 ∧ o + n ≤ 16)

/-! ## Reading (R217, R226, R267, R284, R296) -/

/-- What a read of a job met; a read of a page under copy is held (R298 step 2). -/
inductive ReadFail
  | notOwned (page : Nat)
  | uncorrectable (frame : Nat)
  | seal
  | held
  deriving DecidableEq, Repr

/-- The ring, seal and key addresses of a stream. -/
def Stream.sealAddr (r : Stream) (b : Nat) : Nat := r.cfg.bounceBase.toNat + r.bounceBytes + 64 * b
/-- The host address of a bounce block (R266). -/
def Stream.blockAddr (r : Stream) (b : Nat) : Nat := r.cfg.bounceBase.toNat + 4096 * b
/-- The host address of the key area (R348). -/
def Stream.keyArea (r : Stream) : Nat :=
  let n := field r.cfg.bounceBlocks.toNat 19 0
  r.cfg.bounceBase.toNat + n * 4096 + ceilDiv (n * 64) 4096 * 4096

/-- Block b of a stream, verified for a job with the given descriptor counter (R267): its plaintext and BlockSeq. -/
def hostBlock (s : State) (st : StreamId) (counter : BitVec 64) (b : Nat) : Option (List Byte × Nat) :=
  let r := s.stream st
  match r.key with
  | none => none
  | some key =>
    let entry := s.hostRead (r.sealAddr b) 64
    let data := s.hostRead (r.blockAddr b) 4096
    match gcmOpen key (sealNonce false st.val (BitVec.ofNat 64 (leAt entry 0 8))) (slice entry 8 24) data
        (tagOf (slice entry 32 16)) with
    | none => none
    | some plain =>
      if leAt entry 24 4 = b ∧ leAt entry 30 2 % 4096 = st.val ∧ leAt entry 8 8 ≤ counter.toNat ∧
          counter.toNat ≤ leAt entry 16 8
      then some (plain, leAt entry 28 2) else none

/-- n bytes of a stream's host space for a job. -/
def hostSpaceRead (s : State) (j : Job) (off n : Nat) : Except ReadFail (List Byte) :=
  if n = 0 then .ok []
  else
    let first := off / 4096
    let blocks := (List.range ((off + n - 1) / 4096 - first + 1)).map fun i => hostBlock s j.stream j.counter (first + i)
    if blocks.all Option.isSome then
      .ok (slice (blocks.flatMap fun b => (b.map Prod.fst).getD []) (off - 4096 * first) n)
    else .error .seal

/-- n bytes at an address for a job of press p (R215, R226, R298). A mailbox is never read. -/
def readAddr (s : State) (p : Nat) (j : Job) (a : Addr) (n : Nat) : Except ReadFail (List Byte) :=
  match a with
  | .scratch e o => .ok (tgetN 0 (s.press ((s.physPress j.desc.vat.toNat e).getD p)).scratch o n)
  | .package x =>
    if s.copying j.desc.vat.toNat x n then .error .held
    else
      match s.badPage j.desc.vat.toNat x n with
      | some pg => .error (.notOwned pg)
      | none =>
        match s.badWord j.desc.vat.toNat x n with
        | some f => .error (.uncorrectable f)
        | none => .ok (s.pkgRead j.desc.vat.toNat x n)
  | .host o => hostSpaceRead s j o n
  | .mailbox _ _ => .ok (List.replicate n 0)

/-- What a failed read does to a running job and to the hubs (R267, R284, R296); a held one does nothing. -/
def readFailed (p k : Nat) (f : ReadFail) (s : State) : State :=
  match (s.press p).slot k with
  | none => s
  | some j =>
    match f with
    | .seal => s.updJob p k fun j => { j with sealFail := true }
    | .held => s
    | .uncorrectable fr => uncorrectableError fr (s.updJob p k fun j => { j with internal := true })
    | .notOwned pg =>
      let s' := if j.notOwned then s else raiseNotOwned j.desc.vat.toNat pg s
      s'.updJob p k fun j => { j with internal := true, notOwned := true }

/-- The bytes of package memory in an access, for ActivityMemory (R360). -/
def pkgBytes (a : Addr) (n : Nat) : Nat :=
  match a with
  | .package _ => n
  | _ => 0

/-! ## Writing (R215, R226, R268, R274) -/

/-- A block of host memory written and sealed under the next outbound counter (R265, R268). -/
def writeHostBlock (st : StreamId) (counter : BitVec 64) (b seq : Nat) (plain : List Byte) (s : State) : State :=
  let r := s.stream st
  match r.key with
  | none => s
  | some key =>
    let aad := leBytes 8 counter.toNat ++ leBytes 8 counter.toNat ++ leBytes 4 b ++ leBytes 2 seq ++ leBytes 2 st.val
    let (ct, tag) := gcmSeal key (sealNonce true st.val r.outbound) aad plain
    let s := s.hostWrite (r.blockAddr b) ct
    let s := s.hostWrite (r.sealAddr b) (leBytes 8 r.outbound.toNat ++ aad ++ tagBytes tag ++ List.replicate 16 0)
    s.setStream st { r with outbound := r.outbound + 1 }

/-- The vat whose stream range holds a stream (R254, R368). -/
def State.streamVat (s : State) (st : Nat) : Option Nat :=
  (List.range 8).find? fun v =>
    decide ((s.vat v).streamBase.toNat ≤ st ∧ st < (s.vat v).streamBase.toNat + (s.vat v).streamCount.toNat)

/-- A stream's sealing counters have reached the threshold (R258, R265): CounterWarn is set, and an OPEN stream enters
REKEY. -/
def checkRekey (st : StreamId) (s : State) : State :=
  let r := s.stream st
  let inb := decide (0xFFFFFFFF00000000 ≤ r.inbound.toNat)
  let outb := decide (0xFFFFFFFF00000000 ≤ r.outbound.toNat)
  if !(inb || outb) then s
  else if r.state = .opened then
    raise evStreamRekeyDue none none (s.streamVat st.val) (leBytes 2 st.val ++ leBytes 1 (bitOf (!inb)))
      (s.setStream st { r with state := .rekey, counterWarn := true })
  else s.setStream st { r with counterWarn := true }

/-- Bytes put into a list at an offset, the gap before them filled with 0. -/
def splice (l : List Byte) (off : Nat) (bs : List Byte) : List Byte := lpad 0 off l ++ bs ++ l.drop (off + bs.length)

/-- Output bytes of the job in slot k of press p written to its vat's package memory, page by page: a page under copy
holds them (R298), a page that the vat does not own discards them (R296). -/
def packageWrite (p k v x : Nat) (bs : List Byte) (s : State) : State :=
  forL (pagePieces x bs) (fun e t =>
    if t.copying v e.1 e.2.length then
      holdRequest v e.1 e.2.length
        (.access (BitVec.ofNat 46 e.1) (.write e.2) .clean (some (Fin.ofNat 68 p, Fin.ofNat 128 k))) t
    else
      let t := countExact v 3 e.2.length t
      match t.badPage v e.1 e.2.length with
      | some pg => readFailed p k (.notOwned pg) t
      | none => t.pkgWrite v e.1 e.2) s

/-- Output bytes of the job in slot k of press p written at an address (R215, R226): scratch by fabric put, which is
held at its source while the press it names is RETIRING (R19, R439 step 3), package memory through the page map, host
memory through the job's blocks, a mailbox through its output field. -/
def writeAddr (p k : Nat) (a : Addr) (bs : List Byte) (s : State) : State :=
  match (s.press p).slot k with
  | none => s
  | some j =>
    let v := j.desc.vat.toNat
    match a with
    | .scratch e o =>
      match s.physPress v e with
      | some q =>
        if (s.press q).state = .retiring then
          { s with heldOps := s.heldOps ++
              [{ src := some (Fin.ofNat 68 p, Fin.ofNat 128 k), vat := Fin.ofNat 8 v
                 dst := .scratch (Fin.ofNat 64 e) (BitVec.ofNat 20 o), kind := .put bs }] }
        else s.updPress q fun r => { r with scratch := tputL 0 r.scratch o bs }
      | none => s
    | .package x => packageWrite p k v x bs s
    | .host o => s.updJob p k fun j => { j with hostOut := tputL none j.hostOut o (bs.map some) }
    | .mailbox _ o => s.updJob p k fun j => { j with mailOut := (splice j.mailOut o bs).take 16 }

/-- n undefined bytes from a draw number. -/
def freeBytes (d n : Nat) : List Byte := (List.range n).map fun i => Config.freeByte (d + i)

/-- A range of a job's outputs that holds undefined data (R15, R231, R441): it takes free bytes, where it is written to
host memory when the job ends (R268). -/
def undefineRange (p k : Nat) (a : Addr) (n : Nat) (s : State) : State :=
  match a with
  | .package x =>
    match (s.press p).slot k with
    | none => s
    | some j =>
      forL (pagePieces x (freeBytes s.free n)) (fun e t =>
        if t.copying j.desc.vat.toNat e.1 e.2.length then
          holdRequest j.desc.vat.toNat e.1 e.2.length (.access (BitVec.ofNat 46 e.1) (.write e.2) .clean none) t
        else t.pkgWrite j.desc.vat.toNat e.1 e.2) { s with free := s.free + n }
  | .host o => s.updJob p k fun j => { j with hostOut := tcut j.hostOut o (o + n) }
  | _ => writeAddr p k a (freeBytes s.free n) { s with free := s.free + n }

end Sys2Proof.Machine
end

