-- ==== Sys2Proof/Machine/PressOps.lean ====
section
/-! DEFINITION. PressOps.lean: the geometry of a press (R20, R24, R60, R67), its plate sets, what it may start, and the
zeroing of its digital state (R352, R446). -/

namespace Sys2Proof.Machine

/-! ## Numbering -/

/-- Steps forward in ring order without counting the refresh target (R60). -/
def stepRing (target : Nat) : Nat → Nat → Nat → Nat
  | 0, _, p => p
  | fuel + 1, n, p =>
    if n = 0 then p
    else
      let p' := (p + 1) % 17
      stepRing target fuel (if p' = target then n else n - 1) p'

/-- The physical plate that holds logical plate n (R60). -/
def PressRec.physOf (r : PressRec) (n : Nat) : Nat := stepRing r.refreshTarget.val 34 n r.logicalBase.val

/-- The logical number that a physical plate holds (R60); none for the refresh target. -/
def PressRec.logOf (r : PressRec) (q : Nat) : Option Nat := (List.range 16).find? fun n => decide (r.physOf n = q)

/-- The plate that bank b drives (R20, R89). -/
def PressRec.downPlate (r : PressRec) (b : Nat) : Nat :=
  if (b + 1) % 17 = r.refreshTarget.val then (b + 2) % 17 else (b + 1) % 17

/-- The bank that drives plate q (R20, R89). -/
def PressRec.upBank (r : PressRec) (q : Nat) : Nat :=
  if (q + 16) % 17 = r.refreshTarget.val then (q + 15) % 17 else (q + 16) % 17

/-- The couch mode of the pair of logical plate n (R67). -/
def PressRec.couchOf (r : PressRec) (n : Nat) : Couch := tget .none r.couchMode (n / 2)

/-- The couch mode of the pair that physical plate q belongs to (R67). -/
def PressRec.couchOfPhys (r : PressRec) (q : Nat) : Couch :=
  match r.logOf q with
  | some n => r.couchOf n
  | none => .none

/-- The refresh target and the bank at it play no part: the target is RETIRED or the bank PARKED (R65, R105), where rotation
stays STOPPED outside swaps and pulps. -/
def PressRec.anchored (r : PressRec) : Bool :=
  decide ((r.plate r.refreshTarget.val).state = .retired ∨ (r.bank r.refreshTarget.val).state = .parked)

/-- The LogicalPlate field of PlateState (R76): a number while LIVE and while out for an in-place refresh, else 0x1F. -/
def PressRec.logField (r : PressRec) (q : Nat) : Nat :=
  if (r.plate q).state = .live ∨ (r.plate q).inPlace then (r.logOf q).getD 0x1F else 0x1F

/-- The logical plate that an event names: 0x1F when the plate is not LIVE (R79, R150). -/
def PressRec.eventLog (r : PressRec) (q : Nat) : Nat := if (r.plate q).state = .live then (r.logOf q).getD 0x1F else 0x1F

/-- The linear number of a press's fabric stop (R24). -/
def stopOf (p : Nat) : Nat :=
  if p < 3 then p else if p < 31 then p + 1 else if p < 37 then p + 2 else if p < 65 then p + 3 else p + 4

/-- Distance of two numbers. -/
def absDiff (a b : Nat) : Nat := (a - b) + (b - a)

/-- Fabric hops between two presses along the route of R25. -/
def hops (p q : Nat) : Nat :=
  absDiff (stopOf p % 8) (stopOf q % 8) + absDiff (stopOf p / 8) (stopOf q / 8)

/-- Stop number of a hub: HB, MH0, MH1, SM (R24). -/
def hubStops : List Nat := [32, 3, 68, 39]

/-! ## Plate sets -/

/-- A unit of a plate set (R223): a plate, or a couch of an even and an odd plate. -/
structure PUnit where
  mode : Couch
  even : Nat
  odd : Nat
  /-- Logical number of its first plate. -/
  log : Nat
  deriving DecidableEq, Repr

/-- Rows of a unit (R40, R69). -/
def PUnit.rows (u : PUnit) : Nat := if u.mode = .tall then 1024 else 512

/-- The bank whose output stage serves a unit: BO of a couch (R118). -/
def PUnit.senseBank (u : PUnit) : Nat := if u.mode = .none then u.even else u.odd

/-- The plates of a unit. -/
def PUnit.plates (u : PUnit) : List Nat := if u.mode = .none then [u.even] else [u.even, u.odd]

/-- The units of a set of c plates from logical plate n (R223). -/
def unitsFrom (r : PressRec) : Nat → Nat → Nat → List PUnit
  | 0, _, _ => []
  | fuel + 1, n, c =>
    if c = 0 then []
    else if r.couchOf n ≠ .none ∧ n % 2 = 0 ∧ 2 ≤ c then
      { mode := r.couchOf n, even := r.physOf n, odd := r.physOf ((n + 1) % 16), log := n } ::
        unitsFrom r fuel ((n + 2) % 16) (c - 2)
    else
      { mode := .none, even := r.physOf n, odd := r.physOf n, log := n } :: unitsFrom r fuel ((n + 1) % 16) (c - 1)

/-- The units of a job's plate set (R223). -/
def jobUnits (r : PressRec) (d : Descriptor) : List PUnit :=
  unitsFrom r 17 d.plateFirst.toNat (min 16 d.plateCount.toNat)

/-- The physical plates of a job's set (R223). -/
def jobPlates (r : PressRec) (d : Descriptor) : List Nat :=
  (List.range (min 16 d.plateCount.toNat)).map fun i => r.physOf ((d.plateFirst.toNat + i) % 16)

/-- The macros that a job names (R211). -/
def jobMacros (d : Descriptor) : List Nat := (List.range 2).filter fun m => nbit d.macroSet.toNat m

/-- Plate q holds an epoch for R241: LIVE or BLANK with it, or out for an in-place refresh or a re-engraving (R65, R329). -/
def PlateRec.holds (q : PlateRec) (e : BitVec 16) : Bool :=
  decide (q.epoch = e) && (decide (q.state ≠ .engraving) || q.outOfService)

/-- The answer of R241 for a job. -/
inductive EpochCheck
  | run
  | wait
  | mismatch
  deriving DecidableEq, Repr

/-- R241 for a PLATE job on a press. -/
def epochCheck (s : State) (p : Nat) (d : Descriptor) : EpochCheck :=
  let r := s.press p
  let set := jobPlates r d
  if set.all fun q => (r.plate q).holds d.epoch then .run
  else if (s.vat d.vat.toNat).incomingEpoch = some d.epoch then .wait
  else .mismatch

/-! ## What a press may start (R415, R416, R439, R457) -/

/-- No hold keeps a press from new work: not in HOLD, no thermal trip, no image activation. -/
def pressCool (s : State) (p : Nat) : Bool :=
  decide ((s.press p).thermal.level ≠ .hold) && !s.dev.thermtripLow && decide (s.dev.state ≠ .activating)

/-- A press senses, commits and drains what it has begun: while it is ACTIVE, a hold apart (R415, R457). -/
def pressCommits (s : State) (p : Nat) : Bool := decide ((s.press p).state = .active)

/-- A press starts passes, input bits and vector operations: ACTIVE and not held. -/
def pressIssues (s : State) (p : Nat) : Bool := decide ((s.press p).state = .active) && pressCool s p

/-- A press runs the passes of engravings: ACTIVE or ENGAGING and not held (R319, R415). -/
def pressPasses (s : State) (p : Nat) : Bool :=
  (decide ((s.press p).state = .active) || decide ((s.press p).state = .engaging)) && pressCool s p

/-- A press starts bites and pulses: ACTIVE or ENGAGING, not held, its diode at 105 °C or below (R324). -/
def pressBites (s : State) (p : Nat) : Bool := pressPasses s p && decide ((s.press p).thermal.reading ≤ 840)

/-- A bank carries job traffic: not LOST (R106); in FALLBACK the fallback converter serves it (R104). -/
def bankWorks (r : PressRec) (b : Nat) : Bool :=
  decide ((r.bank b).state ≠ .lost) && decide (r.fallbackFor.map Fin.val ≠ some b)

/-! ## Jobs of a press -/

/-- Jobs of a press placed before j that have not ended. -/
def earlier (r : PressRec) (j : Job) : List (Nat × Job) :=
  r.jobs.filter fun e => decide (e.2.order < j.order ∧ e.2.state ≠ .posting)

/-- Passes of slot k that are in flight on a press at units 0 to u, up to their decision. -/
def inFlight (r : PressRec) (k u : Nat) : Bool :=
  let mine := fun (x : Pass) => decide (x.slot.val = k ∧ x.unit ≤ u)
  r.plates.any (fun e => e.2.integrators.any mine) ||
    r.banks.any (fun e => e.2.driveQueue.any mine || e.2.repeats.any mine || e.2.passBuffer.any fun x => mine x.1)

/-- A job waits at its epoch barrier: the incoming epoch is not yet on every plate of its set (R241). -/
def atBarrier (s : State) (p : Nat) (j : Job) : Bool := j.barrier && decide (epochCheck s p j.desc = .wait)

/-- A pass of slot k at a unit before i stands in a lane and is still to be forwarded (R225, R234). -/
def toForward (r : PressRec) (k i : Nat) : Bool :=
  r.banks.any fun b => b.2.lanes.any fun l => l.2.any fun x => decide (x.slot.val = k ∧ x.unit < i)

/-- The job in slot k still has passes to make on physical plate q: it has tokens to start, passes in flight up to its unit
on q, or, where it is not SLICED, passes at an earlier unit that are to be forwarded (R234, R423). -/
def passesLeft (r : PressRec) (k : Nat) (j : Job) (q : Nat) : Bool :=
  decide (j.desc.opcode = opPlate) &&
    match (jobUnits r j.desc).findIdx? fun u => u.plates.contains q with
    | none => false
    | some i =>
      decide (j.next < j.m) || (j.desc.claimed && !j.exhausted) || inFlight r k i || (!j.desc.sliced && toForward r k i) ||
        (r.banks.any fun b => b.2.replay.any fun x => decide (x.slot.val = k ∧ x.unit ≤ i))

/-- An earlier job still has passes to make on physical plate q (R234). Jobs at an epoch barrier do not hold up others (R241,
R242; assumption 19). -/
def plateTaken (s : State) (p : Nat) (j : Job) (q : Nat) : Bool :=
  (earlier (s.press p) j).any fun e => !atBarrier s p e.2 && passesLeft (s.press p) e.1 e.2 q

/-- The bank whose output stage takes the entries of bank b: BO for BE of a couch (R94). -/
def PressRec.stageOf (r : PressRec) (b : Nat) : Nat :=
  match r.logOf b with
  | some n => if r.couchOf n ≠ .none ∧ n % 2 = 0 then r.physOf (n + 1) else b
  | none => b

/-- The passes of a press that a test keeps, in every queue and store that holds them. -/
def keepPasses (keep : Pass → Bool) (r : PressRec) : PressRec :=
  let kept := fun (b : Nat) => (r.bank b).passBuffer.any fun y => keep y.1
  { r with
    plates := tmap {} (fun _ x => { x with integrators := x.integrators.filter keep }) r.plates
    banks := tmap {} (fun b x => { x with
        driveQueue := x.driveQueue.filter keep, repeats := x.repeats.filter keep, replay := x.replay.filter keep
        passBuffer := x.passBuffer.filter fun y => keep y.1
        resultQueue := if kept b || kept (r.stageOf b) then x.resultQueue else []
        lanes := x.lanes.filter fun e => e.2.any keep }) r.banks }

/-- The passes of the job in slot k leave a press. -/
def dropPasses (k : Nat) (r : PressRec) : PressRec := keepPasses (fun x => decide (x.slot.val ≠ k)) r

/-- The passes of the job in slot k for its tokens from t on leave a press. -/
def dropPassesFrom (k t : Nat) (r : PressRec) : PressRec :=
  keepPasses (fun x => decide (x.slot.val ≠ k ∨ x.token < t)) r

/-- Every pass leaves a press. -/
def clearPasses (r : PressRec) : PressRec :=
  { r with
    plates := tmap {} (fun _ x => { x with integrators := [] }) r.plates
    banks := tmap {} (fun _ x => { x with
        driveQueue := [], repeats := [], replay := [], passBuffer := none, resultQueue := [], lanes := [] }) r.banks }

/-! ## Modes of the spare slices and the statistics units (R97, R100, R138) -/

/-- The statistics unit changes its mode: sums and MaxAbs are cleared (R138). -/
def setStatsMode (maxAbs : Bool) (x : Bank) : Bank :=
  if x.maxAbsMode = maxAbs then x
  else
    { x with
      maxAbsMode := maxAbs, maxAbs := [], dwellN := 0, dwellDiff := 0, dwellProd := 0, dwellSquare := 0, roundN := 0
      roundDiff2 := 0, roundSquare := 0 }

/-- The vat of a press is in debug and its passes run in MAXABS mode (R138). -/
def debugMaxAbs (s : State) (p : Nat) : Bool :=
  match (s.press p).vat with
  | some v => decide ((s.vat v.val).debug = .active ∧ s.settings.statsDebugMaxAbs = 1)
  | none => false

/-- Every bank of a press changed in the same way. -/
def eachBank (f : Bank → Bank) (r : PressRec) : PressRec :=
  { r with banks := (List.range 17).foldl (fun m q => tmod {} m q f) r.banks }

/-- A press in self-test or recovery: its spare slices do not shadow, its statistics units gather max-abs (R100, R138). -/
def recoverBanks (r : PressRec) : PressRec := eachBank (fun b => { setStatsMode true b with shadowActive := false }) r

/-- A press in service: the spare slices of its WORKING banks shadow, its statistics units run in MSE mode (R97, R138). -/
def serviceBanks (r : PressRec) : PressRec :=
  eachBank (fun b =>
    { setStatsMode false b with shadowActive := decide (b.state = .working), dwellGoal := r.cfg.shadowDwell.toNat }) r

/-- The statistics units of the ACTIVE presses take the mode that the debug state of their vats gives them (R138, R141). -/
def debugStats (s : State) : State :=
  forL (allPresses.filter fun p => decide ((s.press p).state = .active ∧ (s.press p).vat.isSome))
    (fun p t => t.updPress p (eachBank (setStatsMode (debugMaxAbs t p)))) s

/-! ## Zeroing (R352 step 4, R446) -/

/-- Scratch with the replay store, felt, AccReg, OutputAcc and LastCodes are written with zeros. -/
def zeroData (r : PressRec) : PressRec :=
  { clearPasses r with
    scratch := []
    felt := []
    macros := tmap {} (fun _ x => { x with acc := [] }) r.macros
    banks := tmap {} (fun _ x => { x with outputAcc := [], lastCodes := [], lane := false }) (clearPasses r).banks }

/-- The counters of 0x2690 + P and 0x2B10 + P are cleared (R446). -/
def clearPressCounters (r : PressRec) : PressRec :=
  { r with
    wrapRepeats := 0, overflowRepeats := 0, accSaturations := 0, drainWaitMax := 0, eccCorrected := 0, eccUncorrected := 0
    banks := tmap {} (fun _ x => { x with
        convMse := 0, convSignal := 0, clipCount := 0, windowConversions := 0, satDriftWindows := 0, cmRepeats := 0
        clipRepeats := 0, saturatedPasses := 0, coarseRounds := 0, maxAbs := [] }) r.banks }

/-- The statistics sums and the counters that carry T rights are cleared (R352 step 4). -/
def clearTenantCounters (r : PressRec) : PressRec :=
  { r with
    wrapRepeats := 0, overflowRepeats := 0, accSaturations := 0
    plates := tmap {} (fun _ x => { x with cmTripCount := 0 }) r.plates
    banks := tmap {} (fun _ x => { x with
        convMse := 0, convSignal := 0, clipCount := 0, windowConversions := 0, cmRepeats := 0, clipRepeats := 0
        saturatedPasses := 0, maxAbs := [], dwellN := 0, dwellDiff := 0, dwellProd := 0, dwellSquare := 0, roundN := 0
        roundDiff2 := 0, roundSquare := 0, mismatches := 0 }) r.banks }

/-- Stipple arrays, row-group flags, LoadRecords and macro scales are cleared (R352 step 4; scales: assumption 20). -/
def clearMacros (r : PressRec) : PressRec :=
  { r with macros := tmap {} (fun _ x => { state := if x.state = .failed then .failed else .idle, scrubRow := x.scrubRow }) r.macros }

/-- The scrub of a press between tenants, its plates apart (R352 step 4). -/
def scrubPress (r : PressRec) : PressRec :=
  let r := clearTenantCounters (clearMacros (zeroData r))
  { r with banks := tmap {} (fun _ x => { x with regs := {} }) r.banks }

/-- The press's generator is seeded from the SM hub's random bit generator (R197). -/
def reseed (p : Nat) (s : State) : State :=
  let (v, s) := drawRandom s
  s.updPress p fun r => { r with generator := v.setWidth 64, draws := 0 }

end Sys2Proof.Machine
end

