-- ==== Sys2Proof/Machine/VecForm.lean ====
section
/-! DEFINITION. VecForm.lean: the forms of vector jobs: operations and formats (R195, R196), the ranges that each operation
reads and writes (R194, R199 to R209), and the checks that R194, R196 and R219 make of them. -/

namespace Sys2Proof.Machine

/-! VectorOp (R196). -/

/-- EW_ADD. -/
def vopAdd : Nat := 0x01
/-- EW_MUL. -/
def vopMul : Nat := 0x02
/-- EW_FMA. -/
def vopFma : Nat := 0x03
/-- CONVERT. -/
def vopConvert : Nat := 0x04
/-- QUANTISE. -/
def vopQuantise : Nat := 0x05
/-- REDUCE_PARTIAL. -/
def vopReduce : Nat := 0x10
/-- SOFTMAX. -/
def vopSoftmax : Nat := 0x20
/-- LAYERNORM. -/
def vopLayernorm : Nat := 0x21
/-- RMSNORM. -/
def vopRmsnorm : Nat := 0x22
/-- ATTENTION. -/
def vopAttention : Nat := 0x30
/-- ATTN_MERGE. -/
def vopMerge : Nat := 0x31
/-- TOPK. -/
def vopTopk : Nat := 0x40
/-- OPT_ADAMW. -/
def vopAdamw : Nat := 0x50
/-- OPT_SGDM. -/
def vopSgdm : Nat := 0x51

/-- The operations of R196. -/
def vectorOps : List Nat :=
  [vopAdd, vopMul, vopFma, vopConvert, vopQuantise, vopReduce, vopSoftmax, vopLayernorm, vopRmsnorm, vopAttention,
    vopMerge, vopTopk, vopAdamw, vopSgdm]

/-- Elementwise operations with formats of their own (R196). -/
def isElementwise (op : Nat) : Bool := decide (op = vopAdd ∨ op = vopMul ∨ op = vopFma ∨ op = vopConvert)

/-! Formats (R195): 0 FP16, 1 BF16, 2 FP8_E4M3, 3 FP8_E5M2, 4 CODE8, 5 INT8, 6 INT16, 7 INT32, 8 PARTIAL,
9 BLOCK_INT8, 10 BLOCK_UINT8_SQRT, 11 TOPK_ENTRY. -/

/-- A block format (R142). -/
def isBlock (f : Nat) : Bool := decide (f = 9 ∨ f = 10)
/-- A format that holds float values, blocks and decode codebooks among them. -/
def isFloatFmt (f : Nat) : Bool := decide (f ≤ 4) || isBlock f
/-- An integer format. -/
def isIntFmt (f : Nat) : Bool := decide (5 ≤ f ∧ f ≤ 7)

/-- Bytes of one element, block scales apart. -/
def fmtBytes (f : Nat) : Nat :=
  match f with
  | 0 => 2
  | 1 => 2
  | 6 => 2
  | 7 => 4
  | 8 => 8
  | 11 => 8
  | _ => 1

/-- Bytes of n elements; the scale words of a block tensor follow its values (R195), those of an array of several rows the
values of all its rows (DESIGN CHOICE, assumption 97). -/
def arrayBytes (f n : Nat) : Nat := n * fmtBytes f + (if isBlock f then n / 64 * 4 else 0)

/-- What a job does with a range: DstAddress alone may name a mailbox (R215). -/
inductive RangeUse
  | input
  | output
  | both
  | dest
  deriving DecidableEq, Repr

/-- A range that a job reads or writes. -/
structure Range where
  addr : Addr
  len : Nat
  use : RangeUse
  deriving DecidableEq, Repr

/-- The job writes the range. -/
def Range.written (r : Range) : Bool := decide (r.use ≠ .input)

/-- Rows of d elements of a format that a 2,048-byte page holds (R204). -/
def rowsPerPage (v : VectorParams) : Nat := 2048 / (max 1 (v.headDim.toNat * fmtBytes v.inFormat.toNat))

/-- Pages of the keys, and of the values, of a sequence (R204). -/
def pagesOf (v : VectorParams) : Nat := ceilDiv v.rowLength.toNat (max 1 (rowsPerPage v))

/-- The address in an address field of VectorParams (R214: bits [63:48] are reserved). -/
def vaddr (a : BitVec 64) : Addr := parseAddr (a.toNat % 2 ^ 48)

/-- Elements of an operation's row array. -/
def vecElems (v : VectorParams) : Nat := v.rowLength.toNat * v.rowCount.toNat

/-- The ranges that an operation reads and writes (R196, R199 to R209). -/
def vectorRanges (v : VectorParams) : List Range :=
  let l := v.rowLength.toNat
  let r := v.rowCount.toNat
  let n := vecElems v
  let d := v.headDim.toNat
  let c := v.count.toNat
  let fi := v.inFormat.toNat
  let fo := v.outFormat.toNat
  let op := v.op.toNat
  let i := fun a len => (⟨vaddr a, len, .input⟩ : Range)
  let o := fun a len => (⟨vaddr a, len, .dest⟩ : Range)
  let w := fun a len => (⟨vaddr a, len, .output⟩ : Range)
  let b := fun a len => (⟨vaddr a, len, .both⟩ : Range)
  if op = vopAdd ∨ op = vopMul then [i v.src0 (arrayBytes fi n), i v.src1 (arrayBytes fi n), o v.dst (arrayBytes fo n)]
  else if op = vopFma then
    [i v.src0 (arrayBytes fi n), i v.src1 (arrayBytes fi n), i v.src2 (arrayBytes fi n), o v.dst (arrayBytes fo n)]
  else if op = vopConvert then [i v.src0 (arrayBytes fi n), o v.dst (arrayBytes fo n)]
  else if op = vopQuantise then [i v.src0 (2 * n), w v.src1 (2 * r), o v.dst n]
  else if op = vopReduce then
    i v.src0 (c * n * 8) :: (if fo = 8 then [] else [i v.src1 (2 * r), i v.src2 (2 * l)]) ++ [o v.dst (arrayBytes fo n)]
  else if op = vopSoftmax then [i v.src0 (arrayBytes fi n), o v.dst (arrayBytes fo n)]
  else if op = vopLayernorm then
    [i v.src0 (arrayBytes fi n), i v.src1 (2 * l), i v.src2 (2 * l), o v.dst (arrayBytes fo n)]
  else if op = vopRmsnorm then [i v.src0 (arrayBytes fi n), i v.src1 (2 * l), o v.dst (arrayBytes fo n)]
  else if op = vopAttention then
    [i v.src0 (2 * r * d), i v.src1 (8 * pagesOf v), b v.src2 (2 * n), o v.dst (2 * r * d + if v.keepStats then 6 * r else 0)]
  else if op = vopMerge then [i v.src0 (c * (2 * r * d + 6 * r)), o v.dst (2 * r * d)]
  else if op = vopTopk then [i v.src0 (l * if v.topKEntries then 8 else fmtBytes fi), o v.dst (8 * c)]
  else if op = vopAdamw then
    [b v.src0 (2 * l), i v.src1 (arrayBytes 9 l), b v.src2 (arrayBytes 9 l), b v.dst (arrayBytes 10 l)]
  else if op = vopSgdm then [b v.src0 (2 * l), i v.src1 (arrayBytes 9 l), b v.src2 (arrayBytes 9 l)]
  else []

/-- Formats that an operation accepts (R195, R196, R204, R207; what R196 leaves open: assumption 21). -/
def vectorFormatsOk (v : VectorParams) : Bool :=
  let fi := v.inFormat.toNat
  let fo := v.outFormat.toNat
  let op := v.op.toNat
  let plain := fun f => isFloatFmt f || isIntFmt f
  if op = vopQuantise ∨ op = vopMerge ∨ op = vopAdamw ∨ op = vopSgdm then true
  else if op = vopReduce then decide (fo = 8) || (decide (fo ≤ 3))
  else if op = vopAttention then decide (fi = 0 ∨ fi = 2 ∨ fi = 3 ∨ fi = 4)
  else if op = vopTopk then decide (fi = 0 ∨ fi = 1 ∨ fi = 7) || (v.topKEntries && decide (fi = 11))
  else plain fi && plain fo && decide (fo ≠ 4)

/-- Elementwise formats that mix float and integer (R196). -/
def vectorMixed (v : VectorParams) : Bool :=
  isElementwise v.op.toNat && (isFloatFmt v.inFormat.toNat != isFloatFmt v.outFormat.toNat)

/-- An extent is zero: RowLength, or RowCount, which TOPK alone uses as PositionBase (R194). -/
def vectorZero (v : VectorParams) : Bool :=
  decide (v.rowLength = 0 ∨ (v.rowCount = 0 ∧ v.op.toNat ≠ vopTopk))

/-- The limits of R196 hold; the ranges of Count and HeadDim are those of R194. -/
def vectorLimits (v : VectorParams) : Bool :=
  let l := v.rowLength.toNat
  let r := v.rowCount.toNat
  let c := v.count.toNat
  let d := v.headDim.toNat
  let op := v.op.toNat
  let blocks := (!isBlock v.inFormat.toNat && !isBlock v.outFormat.toNat) || decide (l % 64 = 0)
  let count := decide (1 ≤ c ∧ c ≤ 64)
  let dim := decide (1 ≤ d ∧ d ≤ 256)
  if isElementwise op then decide (l * r ≤ 2 ^ 24) && blocks
  else if op = vopQuantise then decide (l * r ≤ 2 ^ 24)
  else if op = vopReduce then count && decide (l ≤ 65536)
  else if op = vopSoftmax ∨ op = vopLayernorm ∨ op = vopRmsnorm then decide (l ≤ 32767) && blocks
  else if op = vopAttention then
    decide (l ≤ 32767 ∧ r ≤ 8) && dim && (match vaddr v.src2 with
      | .scratch _ _ => true
      | _ => false)
  else if op = vopMerge then count && decide (r ≤ 8) && dim
  else if op = vopTopk then decide (l ≤ 2 ^ 20) && count
  else decide (l ≤ 2 ^ 24 ∧ l % 64 = 0)

end Sys2Proof.Machine
end

