-- ==== Sys2Proof/Machine/Deckle.lean ====
section
/-! DEFINITION. Deckle.lean: the ranges of plate, stipple, load and drain jobs (R226, R229, R230), run-time bounds (R217)
and the checks of R218 and R219. -/

namespace Sys2Proof.Machine

/-! ## Formats of plate and stipple jobs -/

/-- Bytes of one token's outputs (R226, R126). -/
def outStride (fmt n : Nat) : Nat :=
  match fmt with
  | 1 => 2 * n
  | 2 => 2 * n
  | 3 => (n + 5) / 4 * 4
  | 4 => n
  | 5 => n
  | 6 => 8 * n
  | _ => 0

/-- The drive registers' bank of a job's first unit: UE (R112, R116). -/
def entryBank (r : PressRec) (d : Descriptor) : Nat := r.upBank (r.physOf d.plateFirst.toNat)

/-- InputFormat of the layer that a bank drives is INT4 (R120). -/
def driveInt4 (s : State) (b : Bank) : Bool := nbit (driveRegs s b).control.toNat 16

/-- Bytes of one token's input (R226). -/
def inStride (s : State) (p : Nat) (j : Job) : Nat :=
  if j.desc.scaleSource = 0 then 2 * j.k
  else if j.desc.opcode = opStipple then (if j.desc.stippleInput16 then 2 * j.k else j.k)
  else
    let r := s.press p
    if driveInt4 s (r.bank (entryBank r j.desc)) then (j.k + 1) / 2 else j.k

/-- Tokens of one streamed block (R276). -/
def blockTokens (stride : Nat) : Nat := 4096 / (max 1 stride)

/-- JoinOp of a unit for a job after DisableJoin (R120, R225, R227): 0 none, 1 add, 2 multiply. -/
def unitJoin (s : State) (p : Nat) (j : Job) (us : List PUnit) (i : Nat) : Nat :=
  match us[i]? with
  | none => 0
  | some u =>
    let x := field (senseRegs s ((s.press p).bank u.senseBank)).control.toNat 11 10
    if j.desc.disableJoin && (j.desc.sliced || decide (i + 1 = us.length)) then 0
    else if x = 3 then 0 else x

/-- The tokens for which a job's address ranges are judged: its own, or Limit x M of a claimed job (R238). -/
def Job.judged (j : Job) : Nat := if j.desc.claimed then j.limit * j.m else j.m

/-- An address field of a descriptor (R214). -/
def daddr (a : BitVec 48) : Addr := parseAddr a.toNat

/-- Bytes of the preload of t tokens (R164). -/
def preloadBytes (sel t n : Nat) : Nat :=
  match sel with
  | 1 => 2 * n
  | 2 => 2 * t * n
  | 3 => 2 * n + 2 * t * n
  | 4 => 4 * t * n
  | _ => 0

/-- Row groups that a mask names, ascending. -/
def maskGroups (mask : Nat) : List Nat := (List.range 4).filter fun g => nbit mask g

/-- The ranges that a job reads and writes (R164, R226, R229, R230, R276, R196). -/
def jobRanges (s : State) (p : Nat) (j : Job) : List Range :=
  let d := j.desc
  let t := j.judged
  let op := d.opcode
  if op = opPlate ∨ op = opStipple then
    let stride := inStride s p j
    let blocks := ceilDiv t (max 1 (blockTokens stride))
    let src := if d.scaleSource = 2 then 4096 * blocks else t * stride
    let scale := if d.scaleSource = 2 then 4096 * blocks else 2 * t
    [⟨daddr d.srcAddress, src, .input⟩] ++
      (if d.scaleSource = 1 ∨ d.scaleSource = 2 then [⟨daddr d.scaleAddress, scale, .input⟩] else []) ++
      (if d.preloadSelect = 0 ∨ d.preloadSelect = 5 then []
       else [⟨daddr d.preloadAddress, preloadBytes d.preloadSelect.toNat t j.n, .input⟩]) ++
      (if d.feltMode = 2 then [] else [⟨daddr d.dstAddress, t * outStride d.outputFormat.toNat j.n, .dest⟩])
  else if op = opMacroLoad then
    [⟨daddr d.srcAddress, 16384 * (maskGroups (d.n.toNat % 16)).length, .input⟩]
  else if op = opDrainRead ∨ op = opDrainClear then
    [⟨daddr d.dstAddress, if d.macroSet = 0 then 8192 else 4096 * (jobMacros d).length, .dest⟩]
  else if op = opVector then
    match j.vp with
    | some v => vectorRanges v
    | none => []
  else []

/-- The mailbox entry that a job's DstAddress names (R270): VECTOR jobs name it in VectorParams. -/
def jobDst (j : Job) : Addr :=
  if j.desc.opcode = opVector then
    match j.vp with
    | some v => vaddr v.dst
    | none => .package 0
  else daddr j.desc.dstAddress

/-- A range keeps the rules of R215 and R273. -/
def rangeAllowed (s : State) (p : Nat) (j : Job) (x : Range) : Bool :=
  let v := j.desc.vat.toNat
  match x.addr with
  | .mailbox e _ => decide (x.use = .dest) && decide (e < 4 ∧ x.len ≤ 16)
  | .scratch e _ =>
    decide (x.len = 0) ||
      (rangeOk s v j.stream x.addr x.len && (decide (x.use = .dest ∨ x.use = .output) || decide (s.physPress v e = some p)))
  | _ => decide (x.len = 0) || rangeOk s v j.stream x.addr x.len

/-- STREAMED channels name 4 KiB aligned places of the host space, and a token fits a block (R215, R276). -/
def streamsAligned (s : State) (p : Nat) (j : Job) : Bool :=
  let ok := fun (a : Addr) =>
    match a with
    | .host o => decide (o % 4096 = 0)
    | _ => false
  decide (j.desc.scaleSource ≠ 2) ||
    (ok (daddr j.desc.srcAddress) && ok (daddr j.desc.scaleAddress) && decide (0 < blockTokens (inStride s p j)))

/-- The source of a load lies in scratch or package memory (R229). -/
def loadSource (j : Job) : Bool :=
  match daddr j.desc.srcAddress with
  | .scratch _ _ => true
  | .package _ => true
  | _ => false

/-! ## Run-time bounds (R217) -/

/-- The word at a bound address, none where it cannot be read, and what the read does to the hubs (R284, R296). -/
def readBound (p : Nat) (j : Job) (w : Nat) (s : State) : Option Nat × State :=
  if w < 2 ^ 31 then
    if field w 30 20 = 0 ∧ w % 4 = 0 ∧ w + 4 ≤ 0xB0000 then (some (leNat (tgetN 0 (s.press p).scratch w 4)), s)
    else (none, s)
  else
    let a := field w 30 0 * 4
    let v := j.desc.vat.toNat
    if rangeOk s v j.stream (.package a) 4 then
      match s.badPage v a 4 with
      | some pg => (none, raiseNotOwned v pg s)
      | none =>
        match s.badWord v a 4 with
        | some f => (none, uncorrectableError f s)
        | none => (some (leNat (s.pkgRead v a 4)), countExact v 3 4 s)
    else (none, s)

/-- One extent: the immediate, or the word at its bound address. -/
def readExtent (p : Nat) (j : Job) (indirect : Bool) (x : Nat) (s : State) : Option Nat × State :=
  if indirect then readBound p j x s else (some x, s)

/-- VectorParams of a job (R194), none where the block cannot be read. -/
def readVectorParams (p : Nat) (j : Job) (s : State) : Option VectorParams × State :=
  let a := daddr j.desc.srcAddress
  let v := j.desc.vat.toNat
  if rangeAllowed s p j ⟨a, 64, .input⟩ then
    match readAddr s p j a 64 with
    | .ok l => (some (decodeVectorParams l), countExact v 3 (pkgBytes a 64) s)
    | .error (.notOwned pg) => (none, raiseNotOwned v pg s)
    | .error (.uncorrectable f) => (none, uncorrectableError f s)
    | .error .seal => (none, s)
    | .error .held => (none, s)
  else (none, s)

/-! ## Checks (R218, R219) -/

/-- Step 1 of R218, what the descriptor alone shows (R213, R219, R229). -/
def encodingCause (d : Descriptor) : Option (BitVec 8) :=
  let work := decide (d.opcode = opPlate ∨ d.opcode = opStipple)
  let plate := decide (d.opcode = opPlate)
  let load := decide (d.opcode = opMacroLoad)
  if ¬(1 ≤ d.opcode ∧ d.opcode ≤ 7) then some dcReserved
  else if work ∧ (d.scaleSource = 3 ∨ d.outputFormat = 7 ∨ 6 ≤ d.preloadSelect ∨ d.feltMode = 3) then some dcReserved
  else if plate ∧ (d.plateCount = 0 ∨ 16 < d.plateCount) then some dcReserved
  else if plate ∧ d.sliced ∧ d.feltMode = 0 then some dcCombination
  else if work ∧ d.outputFormat = 0 then some dcCombination
  else if work ∧ d.stippleInput16 ∧ ¬plate ∧ (d.accMode16 ∨ d.scaleSource = 0) then some dcCombination
  else if work ∧ d.claimed ∧ (d.feltMode ≠ 0 ∨ d.preloadSelect = 5) then some dcCombination
  else if load ∧ (d.extentIndirect ≠ 0 ∨ d.macroSet = 0 ∨ d.macroSet = 3) then some dcCombination
  else if d.opcode = opStipple ∧ d.macroSet = 0 then some dcCombination
  else none

/-- Step 1 for the block of a vector job (R194, R195, R196). -/
def vectorCause (v : VectorParams) : Option (BitVec 8) :=
  if ¬(v.op.toNat ∈ vectorOps) then some dcReserved
  else if 12 ≤ v.inFormat ∨ 12 ≤ v.outFormat ∨ !vectorFormatsOk v then some dcReserved
  else if vectorMixed v then some dcCombination
  else none

/-- An enabled JoinOp on a plate of the set with MacroSet 0b00 (R219). -/
def joinWithoutMacros (s : State) (p : Nat) (j : Job) : Bool :=
  let us := jobUnits (s.press p) j.desc
  decide (j.desc.opcode = opPlate ∧ j.desc.macroSet = 0) &&
    (List.range us.length).any fun i => decide (unitJoin s p j us i ≠ 0)

/-- Logical rows of the valid row groups of a macro, from group 0 up to the first invalid one; a group that a MACRO_LOAD
placed earlier loads, or waits to load, counts as valid in the format it names (R219, R229). -/
def stippleRows (r : PressRec) (j : Job) (m : Nat) : Nat :=
  let x := r.macro' m
  let loads := (r.jobs.filter fun e =>
    decide (e.2.desc.opcode = opMacroLoad ∧ e.2.order < j.order ∧ e.2.state ≠ .posting) && (jobMacros e.2.desc).contains m)
  let go := fun (acc : Nat × Bool) (g : Nat) =>
    if acc.2 then acc
    else
      let named := loads.filter fun e => nbit e.2.desc.n.toNat g
      let valid := nbit x.valid.toNat g || !named.isEmpty
      let int4 : Bool := match argMin (fun e => 2 ^ 64 - e.2.order) named with
        | some e => nbit e.2.desc.n.toNat (4 + g)
        | none => nbit x.int4.toNat g
      if valid then (acc.1 + 256 + 256 * bitOf int4, false) else (acc.1, true)
  ((List.range 4).foldl go (0, false)).1

/-- The rows that bound K of a PLATE job (R219). -/
def plateRows (us : List PUnit) (sliced : Bool) : Nat :=
  if sliced then (us.map PUnit.rows).foldl (· + ·) 0 else (us.head?.map PUnit.rows).getD 0

/-- A plate is LIVE or out of job service while it keeps its logical number (R58, R65, R219). -/
def PlateRec.serves (q : PlateRec) : Bool := decide (q.state = .live) || q.outOfService

/-- The checks that depend on the engraved plates (R218, R219): rows per plate, LIVE state, couch pairing, join. A job that
waits at an epoch barrier needs no LIVE plate yet. -/
def plateCause (s : State) (p : Nat) (j : Job) (barrier : Bool) : Option (BitVec 8) :=
  let r := s.press p
  let d := j.desc
  let us := jobUnits r d
  let first := d.plateFirst.toNat
  let last := (first + d.plateCount.toNat + 15) % 16
  if d.opcode ≠ opPlate then none
  else if plateRows us d.sliced < j.k then some dcExtentK
  else if !barrier && !((jobPlates r d).all fun q => (r.plate q).serves) then some dcNoWeights
  else if (first % 2 = 1 ∧ r.couchOf first ≠ .none) ∨ (last % 2 = 0 ∧ r.couchOf last ≠ .none) then some dcCouchSplit
  else if joinWithoutMacros s p j then some dcCombination
  else none

/-- The macros that a job needs: all it names, for a PLATE job when a unit joins (R219, R227). -/
def neededMacros (s : State) (p : Nat) (j : Job) : List Nat :=
  let us := jobUnits (s.press p) j.desc
  if j.desc.opcode = opPlate ∧ ¬((List.range us.length).any fun i => decide (unitJoin s p j us i ≠ 0)) then []
  else if j.desc.opcode = opDrainRead ∨ j.desc.opcode = opDrainClear ∨ j.desc.opcode = opVector ∨
      j.desc.opcode = opCounterSet then []
  else jobMacros j.desc

/-- The job names a mailbox entry above 3, or its output exceeds 16 bytes for one (R273). -/
def mailboxBreaks (s : State) (p : Nat) (j : Job) : Bool :=
  let uses := decide (j.desc.opcode ≠ opMacroLoad ∧ j.desc.opcode ≠ opCounterSet)
  match jobDst j with
  | .mailbox e _ => uses && (decide (4 ≤ e) || (jobRanges s p j).any fun x => decide (x.use = .dest ∧ 16 < x.len))
  | _ => false

/-- Step 5 of R218. -/
def capacityCause (s : State) (p : Nat) (j : Job) (barrier : Bool) : Option (BitVec 8) :=
  let r := s.press p
  let d := j.desc
  let work := decide (d.opcode = opPlate ∨ d.opcode = opStipple)
  let felt := work && (decide (d.feltMode = 1 ∨ d.feltMode = 2 ∨ d.preloadSelect = 5))
  let macros := (jobMacros d).length
  if work ∧ (if d.claimed then 65536 else 1048575) < j.m then some dcExtentM
  else if d.opcode = opPlate ∧ 512 < j.n then some dcExtentN
  else if d.opcode = opStipple ∧ 64 * macros < j.n then some dcExtentN
  else if d.opcode = opStipple ∧ (jobMacros d).any (fun m => decide (stippleRows r j m < j.k)) then some dcExtentK
  else if felt ∧ 8192 < d.feltBase.toNat + j.m * j.n then some dcFelt
  else
    match plateCause s p j barrier with
    | some c => some c
    | none =>
      if (neededMacros s p j).any fun m => decide ((r.macro' m).state = .failed) then some dcMacroState
      else if d.opcode = opVector ∧ !((j.vp.map vectorLimits).getD false) then some dcVectorLimit
      else if work ∧ !streamsAligned s p j then some dcAddress
      else if d.opcode = opMacroLoad ∧ !loadSource j then some dcAddress
      else if !mailboxBreaks s p j && (jobRanges s p j).all (rangeAllowed s p j) then none
      else some dcAddress

/-- What the checks of R218 answer: the job with its extents and whether it waits at a barrier, or status, cause and
whether the job's mailbox entry failed R273, so that it posts in the ring (R270). -/
inductive Checked
  | ok (j : Job)
  | fails (status cause : BitVec 8) (ring : Bool)
  deriving DecidableEq, Repr

/-- Steps 2 and 3 for the extents of a PLATE or STIPPLE job. -/
def readExtents (p : Nat) (j : Job) (s : State) : Option Job × State :=
  let d := j.desc
  let i := d.extentIndirect.toNat
  let (m, s) := readExtent p j (nbit i 0) d.m.toNat s
  let (n, s) := if m.isSome then readExtent p j (nbit i 1) d.n.toNat s else (none, s)
  let (k, s) := if n.isSome then readExtent p j (nbit i 2) d.k.toNat s else (none, s)
  match m, n, k with
  | some m, some n, some k =>
    let limit := if d.claimed then (s.counter (counterNo d.vat.toNat d.claimCounter.toNat)).limit.toNat else 0
    (some { j with m := m, n := n, k := k, limit := limit }, s)
  | _, _, _ => (none, s)

/-- Steps 4 and 5 of R218 for a job whose extents are known. -/
def checkRest (p : Nat) (j : Job) (s : State) : Checked :=
  let e := if j.desc.opcode = opPlate then epochCheck s p j.desc else .run
  if e = .mismatch then .fails stEpoch 0 false
  else
    match capacityCause s p j (decide (e = .wait)) with
    | some c => .fails stShape c (decide (c = dcAddress) && mailboxBreaks s p j)
    | none => .ok { j with barrier := decide (e = .wait) }

/-- Step 1 of R218 for a descriptor on a press: encodings and combinations (R213, R219). -/
def stepOne (s : State) (p : Nat) (j : Job) : Option (BitVec 8) :=
  match encodingCause j.desc with
  | some c => some c
  | none => if joinWithoutMacros s p j then some dcCombination else none

/-- The checks of R218 in their order, with the reads of step 2. -/
def deckle (p : Nat) (j : Job) (s : State) : Checked × State :=
  let d := j.desc
  match stepOne s p j with
  | some c => (.fails stShape c false, s)
  | none =>
    if d.opcode = opVector then
      match readVectorParams p j s with
      | (none, s) => (.fails stBound 0 false, s)
      | (some v, s) =>
        match vectorCause v with
        | some c => (.fails stShape c false, s)
        | none =>
          let j := { j with vp := some v, m := v.rowCount.toNat, n := v.rowLength.toNat }
          if vectorZero v then (.fails stZeroExtent 0 false, s) else (checkRest p j s, s)
    else if d.opcode = opPlate ∨ d.opcode = opStipple then
      match readExtents p j s with
      | (none, s) => (.fails stBound 0 false, s)
      | (some j, s) =>
        if j.m = 0 ∨ j.n = 0 ∨ j.k = 0 then (.fails stZeroExtent 0 false, s)
        else (checkRest p j s, s)
    else if d.opcode = opCounterSet then
      match readExtent p j (nbit d.extentIndirect.toNat 0) d.m.toNat s with
      | (none, s) => (.fails stBound 0 false, s)
      | (some m, s) => (checkRest p { j with m := m } s, s)
    else (checkRest p j s, s)

end Sys2Proof.Machine
end

