-- ==== Sys2Proof/Machine/JobOps.lean ====
section
/-! DEFINITION. JobOps.lean: what every kind of job shares: when it may start (R232, R234, R235, R241), how its outputs are
written (R226, R231, R268, R274), and how it ends (R220, R222, R235, R239, R441). -/

namespace Sys2Proof.Machine

/-! ## Writing outputs -/

/-- Offset of an address in its space, with the space and press as one number. -/
def Addr.key : Addr → Nat × Nat
  | .scratch p o => (p, o)
  | .package a => (64, a)
  | .host o => (65, o)
  | .mailbox e o => (66 + e, o)

/-- Byte i of address a lies in a range. -/
def Range.has (x : Range) (a : Addr) (i : Nat) : Bool :=
  decide (x.addr.key.1 = a.key.1 ∧ x.addr.key.2 ≤ a.key.2 + i ∧ a.key.2 + i < x.addr.key.2 + x.len)

/-- Bytes whose contents the spec leaves undefined because ranges overlap: outputs over inputs in native order (R231),
arrays of an optimiser step over one another (R210). -/
def overlapped (s : State) (p : Nat) (j : Job) (a : Addr) (i : Nat) : Bool :=
  let rs := jobRanges s p j
  if j.desc.opcode = opPlate ∨ j.desc.opcode = opStipple then
    !j.desc.oz4030 && rs.any fun x => decide (x.use = .input) && x.has a i
  else
    match j.vp with
    | some v => decide (v.op.toNat = vopAdamw ∨ v.op.toNat = vopSgdm) && decide (2 ≤ (rs.filter fun x => x.has a i).length)
    | none => false

/-- Output bytes of a job, with free bytes where ranges overlap (R210, R231). -/
def writeOut (p k : Nat) (a : Addr) (bs : List Byte) (s : State) : State :=
  match (s.press p).slot k with
  | none => s
  | some j =>
    let n := bs.length
    if (List.range n).any (overlapped s p j a) then
      let bs' := ((List.range n).zip bs).map fun e => if overlapped s p j a e.1 then Config.freeByte (s.free + e.1) else e.2
      writeAddr p k a bs' { s with free := s.free + n }
    else writeAddr p k a bs s

/-- Host block b of a job's stream is also a place of another job in flight, or of another chunk of this job: its
contents are undefined (R268). -/
def blockShared (s : State) (p k : Nat) (j : Job) (b off len : Nat) : Bool :=
  let touches := fun (x : Range) =>
    match x.addr with
    | .host o => decide (0 < x.len ∧ o < 4096 * b + 4096 ∧ 4096 * b < o + x.len)
    | _ => false
  let other := s.presses.any fun e => e.2.jobs.any fun f =>
    decide ((e.1, f.1) ≠ (p, k) ∧ f.2.stream = j.stream) && (jobRanges s e.1 f.2).any touches
  let chunk := j.desc.claimed && (jobRanges s p j).any fun x =>
    match x.addr with
    | .host o =>
      x.written && decide ((4096 * b < off ∧ o < off ∧ o < 4096 * b + 4096) ∨
        (off + len < 4096 * b + 4096 ∧ off + len < o + x.len))
    | _ => false
  other || chunk

/-- Which blocks of a host range are written (R267, R268): those of which every byte is there, those of which a byte
is, or all. -/
inductive FlushMode
  | full
  | touched
  | all
  deriving DecidableEq, Repr

/-- The blocks of the host range from off, len bytes long, that a mode names are written, each once; bytes of the range not
produced are undefined (R267, R268), bytes outside it are 0. -/
def flushHost (p k : Nat) (off len : Nat) (mode : FlushMode) (s : State) : State :=
  match (s.press p).slot k with
  | none => s
  | some j =>
    if len = 0 then s
    else
      forL ((List.range ((off + len - 1) / 4096 - off / 4096 + 1)).map (off / 4096 + ·)) (fun b t =>
        let lo := max off (4096 * b)
        let hi := min (off + len) (4096 * b + 4096)
        let here := j.hostOut.filter fun e => decide (lo ≤ e.1 ∧ e.1 < hi)
        let done := ((t.press p).slot k).any fun j => tget false j.hostDone lo
        if !done ∧ (here.length = hi - lo ∨ (mode = .touched ∧ 0 < here.length) ∨ mode = .all) then
          let shared := blockShared t p k j b off len
          let plain := (List.range 4096).map fun i =>
            let o := 4096 * b + i
            if shared then Config.freeByte (t.free + i)
            else if lo ≤ o ∧ o < hi then (tget none j.hostOut o).getD (Config.freeByte (t.free + i)) else 0
          let t := writeHostBlock j.stream j.counter b 0 plain { t with free := t.free + 4096 }
          let t := checkRekey j.stream t
          t.updJob p k fun j => { j with
              hostOut := tcut j.hostOut (4096 * b) (4096 * b + 4096), hostDone := tput false j.hostDone lo true }
        else t) s

/-- The host ranges that a job writes: of its running chunk when it is claimed (R268). -/
def hostRanges (s : State) (p : Nat) (j : Job) : List (Nat × Nat) :=
  (jobRanges s p j).filterMap fun x =>
    match x.addr with
    | .host o =>
      if !x.written then none
      else if j.desc.claimed then
        let len := j.m * outStride j.desc.outputFormat.toNat j.n
        j.chunk.map fun i => (o + i * len, len)
      else some (o, x.len)
    | _ => none

/-- The host blocks that a job writes now (R268). -/
def flushAll (p k : Nat) (mode : FlushMode) (s : State) : State :=
  match (s.press p).slot k with
  | none => s
  | some j => forL (hostRanges s p j) (fun e t => flushHost p k e.1 e.2 mode t) s

/-! ## Ending -/

/-- The address of the outputs of token t of the chunk in hand (R226, R238). -/
def outAddr (j : Job) (t : Nat) : Addr :=
  let abs := (j.chunk.getD 0) * (if j.desc.claimed then j.m else 0) + t
  (daddr j.desc.dstAddress).plus (abs * outStride j.desc.outputFormat.toNat j.n)

/-- The outputs of a job hold undefined data from token t on (R15, R267, R441, R442); a claimed job's chunk in hand. -/
def undefineFrom (p k t : Nat) (s : State) : State :=
  match (s.press p).slot k with
  | none => s
  | some j =>
    if j.desc.opcode = opPlate ∨ j.desc.opcode = opStipple then
      if j.desc.feltMode = 2 ∨ (j.desc.claimed ∧ j.chunk = none) then s
      else undefineRange p k (outAddr j t) ((j.m - t) * outStride j.desc.outputFormat.toNat j.n) s
    else forL ((jobRanges s p j).filter Range.written) (fun x u => undefineRange p k x.addr x.len u) s

/-- Macros whose work has ended return to IDLE (R187). -/
def settleMacros (r : PressRec) : PressRec :=
  { r with macros := tmap {} (fun m x =>
      let used := r.jobs.any fun e => decide (e.2.state = .running) && (jobMacros e.2.desc).contains m &&
        decide (e.2.desc.opcode = opStipple ∨ e.2.desc.opcode = opPlate)
      if x.state = .busy ∧ !used then { x with state := .idle, segmented := false, mode16 := false } else x) r.macros }

/-- The claim of a job's chunk in hand goes to the return list when the chunk is not committed (R238, R446, R447). -/
def returnClaim (p k : Nat) (s : State) : State :=
  match (s.press p).slot k with
  | none => s
  | some j =>
    match j.chunk with
    | none => s
    | some i =>
      (claimToList (counterNo j.desc.vat.toNat j.desc.claimCounter.toNat) (Fin.ofNat 68 p) i s).updJob p k
        fun j => { j with chunk := none }

/-- SyncCounter gains 1 when SignalOnDone is set (R235). -/
def signalDone (d : Descriptor) (s : State) : State :=
  if d.signalOnDone then counterSignal d.vat.toNat d.syncCounter.toNat s else s

/-- The tokens before this one have started: one that has entered an entry unit has (R225, R231). -/
def Job.begun (j : Job) : Nat := max j.next (lmax j.fed)

/-- Leading tokens of a job, or of its chunk, whose outputs are committed (R220, R267). -/
def Job.leading (j : Job) : Nat := ((List.range j.m).takeWhile fun t => tget false j.tokensDone t).length

/-- A write of the job in slot k of press p is held at its source or at a page under copy (R298, R439 step 3). -/
def writesHeld (s : State) (p k : Nat) : Bool :=
  let me : Option (Press × Slot) := some (Fin.ofNat 68 p, Fin.ofNat 128 k)
  s.heldOps.any (fun op => decide (op.src = me)) ||
    s.hubs.copies.any fun c => c.held.any fun h =>
      match h with
      | .access _ _ _ job => decide (job = me)
      | .remote op => decide (op.src = me)
      | .part _ _ _ => false

/-- The job in slot k signals once all of its writes are visible (R235). -/
def signalSlot (p k : Nat) (s : State) : State :=
  match (s.press p).slot k with
  | none => s
  | some j =>
    if writesHeld s p k then s.updJob p k fun j => { j with signalDue := true }
    else signalDone j.desc (s.updJob p k fun j => { j with signalDue := false })

/-- Jobs that waited for held writes signal when the last has been released. -/
def settleSignals (s : State) : State :=
  forL allPresses (fun p t => forL (t.press p).jobs (fun e u => if e.2.signalDue then signalSlot p e.1 u else u) t) s

/-- A job that has started ends: what its outcome leaves undefined, the last host blocks, its claim, its macros and its
signal; it then waits to be posted (R222, R232, R235, R267, R268). A job that a pulp stops writes nothing further (R352
step 2). -/
def finishJob (p k : Nat) (s : State) : State :=
  match (s.press p).slot k with
  | none => s
  | some j =>
    let held := j.vatPulping || j.vatResetting
    let broken := j.sealFail && !j.internal && !held
    let s := if j.vatPulping then s else if j.internal then undefineFrom p k 0 s
      else if broken then undefineFrom p k j.leading s else s
    let s := if j.state = .running ∧ !j.vatPulping then flushAll p k (if broken then .touched else .all) s else s
    let s := returnClaim p k s
    let s := s.updPress p (dropPasses k)
    let s := s.updJob p k fun j => { j with
      state := .posting, hostOut := [], hostDone := [], draining := false, loading := false, joins := [], fed := []
      operandRuns := [], operands := [], lateOut := [] }
    let s := s.updPress p settleMacros
    signalSlot p k s

/-- A read of a running job fails (R267, R284, R296). Under SEAL_FAIL the tokens from t on are discarded and those before
it, which are in flight, go on to their commit; a read that a copy holds is made again (R298); any other failure ends the
job. -/
def failRead (p k t : Nat) (f : ReadFail) (s : State) : State :=
  let s := readFailed p k f s
  match (s.press p).slot k with
  | none => s
  | some j =>
    if f = .held then s
    else if f ≠ .seal ∨ j.leading = t then finishJob p k s
    else (s.updPress p (dropPassesFrom k t)).updJob p k fun j => { j with
      next := t, fed := [], operandRuns := j.operandRuns.filter fun x => decide (x.token < t)
      operands := j.operands.filter fun x => decide (x.token < t)
      batch := j.batch.filter fun x => decide (x.token < t) }

/-- A job that ends before it starts running, at a check (R216, R218, R222). -/
def failJob (p k : Nat) (status cause : BitVec 8) (s : State) : State :=
  match (s.press p).slot k with
  | none => s
  | some j =>
    signalDone j.desc (s.updJob p k fun j =>
      { j with state := .posting, barrier := false, checkStatus := some status, cause := cause })

/-- A job is stopped with an outcome: one that waits has not started, and ends the same way (R352, R441, R445, R446). -/
def stopJob (p k : Nat) (f : Job → Job) (s : State) : State :=
  match (s.press p).slot k with
  | none => s
  | some j => if j.state = .posting then s else finishJob p k (s.updJob p k f)

/-- Every job of a press for which sel holds is stopped with an outcome. -/
def stopJobs (p : Nat) (sel : Job → Bool) (f : Job → Job) (s : State) : State :=
  forL ((s.press p).jobs.filter fun e => sel e.2) (fun e t => stopJob p e.1 f t) s

/-! ## Starting -/

/-- The waits that R232 names for a job: a counter, AfterPrior, an epoch barrier. -/
def startReady (s : State) (p : Nat) (j : Job) : Bool :=
  decide (j.state = .waiting) && j.counterMet && !j.barrier &&
    (!j.desc.afterPrior || (earlier (s.press p) j).isEmpty)

/-- The barrier of a job is released when every plate of its set holds the incoming epoch; the checks that depend on the
engraved plates are then made again (R218, R241). -/
def releaseBarrier (p k : Nat) (s : State) : State :=
  match (s.press p).slot k with
  | none => s
  | some j =>
    if j.barrier ∧ j.state = .waiting then
      match epochCheck s p j.desc with
      | .wait => s
      | .mismatch => failJob p k stEpoch 0 s
      | .run =>
        match plateCause s p j false with
        | some c => failJob p k stShape c s
        | none => s.updJob p k fun j => { j with barrier := false }
    else s

/-- A waiting job of an opcode whose waits are over starts running (R232, R234); `free` says that no earlier job keeps all
of its work from it. -/
def startJob (op : BitVec 8) (free : State → Nat → Job → Bool) (p k : Nat) (s : State) : State :=
  if ((s.press p).slot k).map (fun j => j.desc.opcode) ≠ some op then s
  else
    let s := releaseBarrier p k s
    match (s.press p).slot k with
    | none => s
    | some j => if startReady s p j ∧ pressIssues s p ∧ free s p j then s.updJob p k fun j => { j with state := .running } else s

/-- The job in slot k of press p, if it runs an opcode and its press may issue work. -/
def runningJob (s : State) (p k : Nat) (op : BitVec 8) : Option Job :=
  match (s.press p).slot k with
  | none => none
  | some j => if j.state = .running ∧ j.desc.opcode = op ∧ pressIssues s p then some j else none

/-- Reads several ranges for a job; the first failure ends it. -/
def readRanges (s : State) (p : Nat) (j : Job) : List Range → Except ReadFail (List (List Byte))
  | [] => .ok []
  | x :: r =>
    match readAddr s p j x.addr x.len with
    | .error e => .error e
    | .ok l =>
      match readRanges s p j r with
      | .error e => .error e
      | .ok ls => .ok (l :: ls)

end Sys2Proof.Machine
end

