-- ==== Sys2Proof/Machine/StreamOps.lean ====
section
/-! DEFINITION. StreamOps.lean: the host bridge's shared operations: functions and vats (R249), doorbell handling (R262,
R264), admission (R216), completions (R269 to R274), closing and reset of a stream (R261, R447), streamed blocks (R276,
R277), and the layouts of its read-only words (R258, R260, R275, R279). -/

namespace Sys2Proof.Machine

/-! ## Functions (R248, R249) -/

/-- The function that serves vat v (R249). -/
def fnOf (s : State) (v : Nat) : Nat := if v < s.bridge.numVfs.val then v + 1 else 0

/-- Function f serves vat v (R249). -/
def serves (s : State) (f v : Nat) : Bool := decide (v < 8 ∧ fnOf s v = f)

/-- The function that serves a stream, none outside every vat's range. -/
def State.streamFn (s : State) (st : Nat) : Option Nat := (s.streamVat st).map (fnOf s)

/-- A function exists, and decodes its BAR0 (R246, R248). -/
def fnDecodes (s : State) (f : Nat) : Bool := s.dev.started && decide (f ≤ s.bridge.numVfs.val) && !(s.fn f).d3hot

/-- Function f answers an access to the windows of a stream: it decodes its BAR0 and serves the stream (R246, R251). -/
def windowServed (s : State) (f st : Nat) : Bool := fnDecodes s f && decide (s.streamFn st = some f)

/-- The registers of a stream's window answer an access through function f: they read 0 while the stream is FREE (R257). -/
def windowOpen (s : State) (f st : Nat) : Bool := windowServed s f st && decide ((s.stream st).state ≠ .free)

/-- The function of a stream is in D3hot: its posts are held (R246). -/
def postsHeld (s : State) (st : Nat) : Bool :=
  match s.streamFn st with
  | some f => (s.fn f).d3hot
  | none => false

/-! ## Fields of RingConfig (R259) -/

/-- CreditLimit. -/
def cfgCreditLimit (c : StreamCfg) : Nat := field c.ringConfig.toNat 12 0
/-- Entries of the submission ring. -/
def cfgSqEntries (c : StreamCfg) : Nat := 2 ^ field c.ringConfig.toNat 19 16
/-- Records of the completion ring. -/
def cfgCqEntries (c : StreamCfg) : Nat := 2 ^ field c.ringConfig.toNat 23 20
/-- MSI-X vector. -/
def cfgVector (c : StreamCfg) : Nat := field c.ringConfig.toNat 29 24
/-- IrqThreshold. -/
def cfgIrqThreshold (c : StreamCfg) : Nat := field c.irqConfig.toNat 12 0

/-- The checks of R256 for a stream that function f serves. -/
def configOk (c : StreamCfg) (f : Nat) : Bool :=
  let sq := field c.ringConfig.toNat 19 16
  let cq := field c.ringConfig.toNat 23 20
  decide (1 ≤ cfgCreditLimit c ∧ cfgCreditLimit c ≤ min (cfgSqEntries c) (cfgCqEntries c - 1)) &&
    decide (4 ≤ sq ∧ sq ≤ 12 ∧ 4 ≤ cq ∧ cq ≤ 12) &&
    decide (c.sqBase.toNat % 4096 = 0 ∧ c.cqBase.toNat % 4096 = 0 ∧ c.bounceBase.toNat % 4096 = 0) &&
    decide (1 ≤ field c.bounceBlocks.toNat 19 0) &&
    decide (1 ≤ cfgVector c ∧ cfgVector c ≤ (if f = 0 then 31 else 27)) &&
    decide (1 ≤ cfgIrqThreshold c ∧ cfgIrqThreshold c ≤ cfgCqEntries c)

/-! ## Jobs of a stream -/

/-- Credits in use: Fetched - Returned (R264). -/
def Stream.inFlight (r : Stream) : Nat := (r.fetched - r.returned).toNat

/-- Slots that hold jobs of a stream. -/
def streamSlots (s : State) (st : StreamId) : List (Nat × Nat) :=
  (s.presses.flatMap fun e => e.2.jobs.map fun f => (e.1, f.1)).filter fun e =>
    ((s.press e.1).slot e.2).any fun j => decide (j.stream = st)

/-- A fetched job of the stream has not posted (R271, R350). -/
def unposted (s : State) (st : StreamId) : Bool :=
  let r := s.stream st
  !r.bridge.isEmpty || !r.ended.isEmpty || !(streamSlots s st).isEmpty

/-! ## Completions (R269 to R274) -/

/-- The MSI-X message of R271 after a post. -/
def afterPost (st : StreamId) (s : State) : State :=
  let s := s.updStream st fun r => { r with unsignalled := r.unsignalled + 1 }
  let r := s.stream st
  if cfgIrqThreshold r.cfg ≤ r.unsignalled ∨ !unposted s st then
    sendMsix ((s.streamFn st.val).getD 0) (cfgVector r.cfg) (s.updStream st fun r => { r with unsignalled := 0 })
  else s

/-- A completion record written and sealed at CqTail (R265, R269). -/
def writeRecord (st : StreamId) (status : BitVec 8) (epoch sqIndex : BitVec 16) (dropped : Nat) (hostTag detail : BitVec 64)
    (violation : Bool) (s : State) : State :=
  let r := s.stream st
  match r.key with
  | none => s
  | some key =>
    let header := bitOf r.phase * 2 ^ 63 + status.toNat * 2 ^ 48 + epoch.toNat * 2 ^ 32 + sqIndex.toNat * 2 ^ 16 + st.val
    let aad := leBytes 8 header ++ leBytes 4 dropped ++ List.replicate 12 0
    let (ct, tag) := gcmSeal key (sealNonce true st.val r.outbound) aad (leBytes 8 hostTag.toNat ++ leBytes 8 detail.toNat)
    let at' := r.cfg.cqBase.toNat + 64 * (r.cqTail.toNat % cfgCqEntries r.cfg)
    let s := s.hostWrite at' (leBytes 8 r.outbound.toNat ++ aad ++ ct ++ tagBytes tag)
    let tail := r.cqTail + 1
    checkRekey st (s.setStream st
      { r with
        outbound := r.outbound + 1, cqTail := tail, records := r.records ++ [violation]
        phase := if tail.toNat % cfgCqEntries r.cfg = 0 then !r.phase else r.phase })

/-- OutputLength of a job's mailbox entry: whole token strides for a plate or stipple job (R226, R275). -/
def mailLength (j : Job) : Nat :=
  let n := j.mailOut.length
  if j.desc.opcode = opPlate ∨ j.desc.opcode = opStipple then
    let w := max 1 (outStride j.desc.outputFormat.toNat j.n)
    min 16 (ceilDiv n w * w)
  else n

/-- A mailbox entry filled and sealed (R273, R274). -/
def fillMailbox (st : StreamId) (e : Nat) (j : Job) (s : State) : State :=
  let r := s.stream st
  match r.key with
  | none => s
  | some key =>
    let m := tget {} r.mailboxes e
    let gen := m.generation + 1
    let plain := leBytes 8 j.desc.hostTag.toNat ++ leBytes 8 (completionDetail j).toNat ++ lpad 0 16 j.mailOut
    let aad := leBytes 2 gen.toNat ++ leBytes 2 j.desc.epoch.toNat ++ leBytes 1 (mailLength j) ++ [0] ++ leBytes 2 st.val
    let (ct, tag) := gcmSeal key (sealNonce true st.val r.outbound) aad plain
    let m' : Mailbox :=
      { state := .valid, generation := gen, status := jobStatus j, epoch := j.desc.epoch
        outputLength := BitVec.ofNat 8 (mailLength j), counter := r.outbound, ciphertext := ct, tag := tag }
    checkRekey st (s.setStream st { r with outbound := r.outbound + 1, mailboxes := tput {} r.mailboxes e m' })

/-- SEAL_FAIL completions are counted (R257, R279). -/
def countSealFailure (st : StreamId) (status : BitVec 8) (s : State) : State :=
  if status = stSealFail then
    (s.updStream st fun r => { r with sealFailures := satInc r.sealFailures }).updBridge fun b =>
      { b with sealFailuresTotal := satInc b.sealFailuresTotal }
  else s

/-- A completion posted for a stream is counted for its vat (R360). -/
def countPost (st : StreamId) (s : State) : State :=
  match s.streamVat st.val with
  | some v => countExact v 4 1 s
  | none => s

/-- A job's completion is posted in its mailbox entry or in the ring (R269, R270), counted (R360) and signalled (R271).
The job has left its slot or the bridge before. -/
def postJob (st : StreamId) (j : Job) (s : State) : State :=
  let status := jobStatus j
  let s := match j.mailbox with
    | some e => fillMailbox st e.val j s
    | none => writeRecord st status j.desc.epoch j.sqIndex 0 j.desc.hostTag (completionDetail j) false s
  afterPost st (countPost st (countSealFailure st status s))

/-! ## Doorbells (R262, R264) -/

/-- The condemned descriptors are dropped, and a CREDIT_VIOLATION record posts unless one is unconsumed (R264). -/
def dropCondemned (st : StreamId) (s : State) : State :=
  let r := s.stream st
  if r.condemned = 0 ∨ postsHeld s st.val then s
  else
    let first := r.sqHead
    let s := s.setStream st
      { r with sqHead := r.sqHead + BitVec.ofNat 16 r.condemned, dropped := r.dropped + BitVec.ofNat 32 r.condemned, condemned := 0 }
    let s := s.updBridge fun b => { b with droppedTotal := satAdd b.droppedTotal r.condemned }
    if r.records.contains true then s
    else afterPost st (countPost st (writeRecord st stCredit 0 first r.condemned 0 (stCredit.setWidth 64) true s))

/-- The bridge begins to handle what lies between SqHead and SqTail: it computes f and what it will drop (R264). -/
def beginHandling (st : StreamId) (s : State) : State :=
  let r := s.stream st
  if r.state = .opened ∧ r.grant = 0 ∧ r.condemned = 0 ∧ r.sqHead ≠ r.sqTail then
    let a := (r.sqTail - r.sqHead).toNat
    let f := min a (cfgCreditLimit r.cfg - r.inFlight)
    let s := s.setStream st { r with grant := f, condemned := a - f }
    if f = 0 then dropCondemned st s else s
  else s

/-- The last granted descriptor has been fetched: the rest is dropped and what later doorbells added is handled. -/
def endHandling (st : StreamId) (s : State) : State :=
  if (s.stream st).grant = 0 then beginHandling st (dropCondemned st s) else s

/-- The descriptors from SqHead to SqTail count as Dropped; no completion reports them (R261, R447). -/
def dropPending (st : StreamId) (s : State) : State :=
  let r := s.stream st
  let n := (r.sqTail - r.sqHead).toNat
  (s.setStream st { r with sqHead := r.sqTail, dropped := r.dropped + BitVec.ofNat 32 n, grant := 0, condemned := 0 }).updBridge
    fun b => { b with droppedTotal := satAdd b.droppedTotal n }

/-! ## Admission (R216) -/

/-- The checks of R216 in their order: none, or the status and DeckleCause with which the bridge ends the job. -/
def admission (s : State) (st : StreamId) (d : Descriptor) : Option (BitVec 8 × BitVec 8) :=
  let v := s.vat d.vat.toNat
  if s.streamVat st.val ≠ some d.vat.toNat ∨ d.stream.toNat ≠ st.val then some (stSealFail, 0)
  else if v.state = .pulping then some (stVatPulping, 0)
  else if v.state = .resetting then some (stVatResetting, 0)
  else if d.epoch ≠ v.currentEpoch ∧ some d.epoch ≠ v.incomingEpoch then some (stEpoch, 0)
  else if s.physPress d.vat.toNat d.pressIndex.toNat = none then some (stShape, dcPress)
  else none

/-- A job that the bridge ends itself waits to be posted; it signals unless its fields cannot be trusted (R235). -/
def endInBridge (st : StreamId) (j : Job) (status cause : BitVec 8) (s : State) : State :=
  let s := if status = stSealFail then s else signalDone j.desc s
  s.updStream st fun r => { r with ended := r.ended ++ [{ j with checkStatus := some status, cause := cause, state := .posting }] }

/-- The submission ring entry at SqHead (R263). -/
def ringEntry (s : State) (st : StreamId) : List Byte :=
  let r := s.stream st
  s.hostRead (r.cfg.sqBase.toNat + 128 * (r.sqHead.toNat % cfgSqEntries r.cfg)) 128

/-- The Counter of the entry at SqHead. -/
def ringCounter (s : State) (st : StreamId) : BitVec 64 := BitVec.ofNat 64 (leAt (ringEntry s st) 0 8)

/-- The descriptor at SqHead unsealed; none when it fails authentication (R265). An entry whose DescriptorAad does not
name its stream and its ring index fails it (DEDUCED, assumption 23). -/
def unsealed (s : State) (st : StreamId) : Option (List Byte) :=
  let r := s.stream st
  let entry := ringEntry s st
  match r.key with
  | some key =>
    if r.inbound < ringCounter s st ∧ leAt entry 8 2 % 4096 = st.val ∧ leAt entry 10 2 = r.sqHead.toNat then
      gcmOpen key (sealNonce false st.val (ringCounter s st)) (slice entry 8 8) (slice entry 16 64) (tagOf (slice entry 80 16))
    else none
  | none => none

/-! ## Result mailboxes (R270, R273) -/

/-- The mailbox entry that an address names, entries above 3 apart. -/
def Addr.mailboxEntry : Addr → Option (Fin 4)
  | .mailbox e _ => if h : e < 4 then some ⟨e, h⟩ else none
  | _ => none

/-- The mailbox entry that a job's descriptor names. That of a VECTOR job stands in its parameter block. -/
def descMailbox (d : Descriptor) : Option (Fin 4) :=
  if d.opcode = opVector ∨ d.opcode = opMacroLoad ∨ d.opcode = opCounterSet then none else (daddr d.dstAddress).mailboxEntry

/-- The mailbox entry that a job names when it is admitted (R273): for a VECTOR job by its parameter block as it then stands
(DEDUCED, assumption 28). -/
def namedAtAdmission (s : State) (j : Job) : Option (Fin 4) :=
  if j.desc.opcode = opVector then
    match s.physPress j.desc.vat.toNat j.desc.pressIndex.toNat with
    | some p => (readVectorParams p j s).1.bind fun v => (vaddr v.dst).mailboxEntry
    | none => none
  else descMailbox j.desc

/-- A mailbox entry as it is reserved: its record words read 0 until it is filled (R273, R274). -/
def Mailbox.reserve (m : Mailbox) : Mailbox := { m with state := .reserved, counter := 0, ciphertext := [], tag := 0 }

/-- The waiting jobs of a stream, in order, with the entries that they name reserved for them (R273): a job whose entry is
not FREE keeps the later ones waiting. -/
def reserveJobs : List Job → Tab Mailbox → List Job × Tab Mailbox
  | [], m => ([], m)
  | j :: l, m =>
    match if j.mailbox.isSome then none else j.names with
    | none => let (l', m') := reserveJobs l m; (j :: l', m')
    | some e =>
      if (tget {} m e.val).state = .free then
        let (l', m') := reserveJobs l (tmod {} m e.val Mailbox.reserve)
        ({ j with mailbox := some e } :: l', m')
      else (j :: l, m)

/-- The host bridge reserves what the admitted jobs of a stream can have (R273). -/
def reserveWaiting (st : StreamId) (s : State) : State :=
  s.updStream st fun r =>
    let (l, m) := reserveJobs r.bridge r.mailboxes
    { r with bridge := l, mailboxes := m }

/-- One descriptor is fetched under a credit, unsealed and admitted (R216, R263, R264, R265). -/
def fetchOne (st : StreamId) (s : State) : State :=
  let r := s.stream st
  let counter := ringCounter s st
  let sqIndex := r.sqHead
  let plain := unsealed s st
  let s := s.setStream st { r with sqHead := r.sqHead + 1, fetched := r.fetched + 1, grant := r.grant - 1 }
  match plain with
  | none =>
    endInBridge st { desc := decodeDescriptor [], stream := st, sqIndex := sqIndex, counter := counter } stSealFail 0 s
  | some l =>
    let d := usedFields (decodeDescriptor l)
    let j : Job := { desc := d, stream := st, sqIndex := sqIndex, counter := counter }
    let s := s.updStream st fun r => { r with inbound := counter }
    let s := match admission s st d with
      | some (status, cause) => endInBridge st j status cause s
      | none => reserveWaiting st
          (s.updStream st fun r => { r with bridge := r.bridge ++ [{ j with names := namedAtAdmission s j }] })
    checkRekey st s

/-! ## Closing and reset (R261, R447) -/

/-- Exchanges asked for by a stream are abandoned. -/
def dropExchange (st : StreamId) (s : State) : State :=
  (s.updStream st fun r => { r with exchange := false }).updBridge fun b =>
    { b with exchanges := b.exchanges.filter (· ≠ st) }

/-- A stream becomes FREE: records and mailboxes are discarded, credits returned, keys erased (R261). -/
def freeStream (st : StreamId) (s : State) : State := (dropExchange st s).setStream st {}

/-- A Close request (R255, R261). -/
def closeStream (st : StreamId) (s : State) : State :=
  match (s.stream st).state with
  | .allocated => freeStream st s
  | .keying => freeStream st s
  | .opened => (dropPending st (dropExchange st s)).updStream st fun r => { r with state := .closing }
  | .rekey => (dropPending st (dropExchange st s)).updStream st fun r => { r with state := .closing }
  | _ => s

/-- Writes of the job in slot k of press p that are held have no job any more; they take effect all the same. -/
def disownHeld (p k : Nat) (s : State) : State :=
  let me : Option (Press × Slot) := some (Fin.ofNat 68 p, Fin.ofNat 128 k)
  let free := fun (op : RemoteOp) => if op.src = me then { op with src := none } else op
  let free' := fun (h : HeldAccess) =>
    match h with
    | .access a op e job => .access a op e (if job = me then none else job)
    | .remote op => .remote (free op)
    | .part i a n => .part i a n
  ({ s with heldOps := s.heldOps.map free } : State).updHubs fun h =>
    { h with
      copies := h.copies.map fun c => { c with held := c.held.map free' }
      gathers := h.gathers.map fun g => { g with op := free g.op } }

/-- The vat of the jobs that wait in the bridge begins a pulp or a vat reset: R233's recheck ends them, whatever the vat's
state is by then. -/
def markWaiting (v : Nat) (f : Job → Job) (s : State) : State :=
  { s with streams := tmap {} (fun _ r =>
      { r with bridge := r.bridge.map fun j => if j.desc.vat.toNat = v then f j else j }) s.streams }

/-- A job in a slot stops and posts nothing (R447 step 2). -/
def discardJob (p k : Nat) (s : State) : State :=
  match (s.press p).slot k with
  | none => s
  | some j =>
    let s := if j.state = .posting then (if j.signalDue then signalDone j.desc s else s) else signalDone j.desc (returnClaim p k s)
    let s := disownHeld p k s
    s.updPress p fun r => settleMacros ((dropPasses k r).setSlot k none)

/-- One more reset of a kind: 0 device, 1 vat, 2 press, 3 stream (R459). -/
def countReset (i : Nat) (s : State) : State :=
  s.updDev fun d => { d with resetCounts := lset d.resetCounts i (satInc (lget 0 d.resetCounts i)) }

/-- A stream reset begins and runs steps 1 to 4 of R447, from ALLOCATED and KEYING steps 3 and 4 alone. -/
def beginStreamReset (st : StreamId) (s : State) : State :=
  let r0 := s.stream st
  if r0.state = .free ∨ r0.state = .resetting then s
  else
    let s := countReset 3 (dropExchange st s)
    let s := if r0.state = .allocated ∨ r0.state = .keying then s else dropPending st s
    let s := forL (streamSlots s st) (fun e t => discardJob e.1 e.2 t) s
    let s := forL r0.bridge (fun j t => signalDone j.desc t) s
    s.updStream st fun r =>
      { r with
        state := .resetting, resetFromClosing := decide (r0.state = .closing), bridge := [], ended := [], records := []
        cqHead := r.cqTail, returned := r.fetched, key := none, newKey := none, unsignalled := 0
        mailboxes := tmap {} (fun _ m => { m with state := .free }) r.mailboxes }

/-! ## Streamed blocks (R276, R277) -/

/-- Absolute number of the next token that a job starts (R226, R238). -/
def absToken (j : Job) (t : Nat) : Nat := (j.chunk.getD 0) * (if j.desc.claimed then j.m else 0) + t

/-- The streamed block that holds the job's next token (R276). -/
def nextBlock (s : State) (p : Nat) (j : Job) : Nat := absToken j j.next / max 1 (blockTokens (inStride s p j))

/-- Offset in the host space of an address. -/
def Addr.hostOff : Addr → Nat
  | .host o => o
  | _ => 0

/-- What the bridge finds of a block of a channel (R267, R276): it has not been posted, it fails, it carries another
BlockSeq, or it has arrived. -/
inductive BlockRead
  | unposted
  | bad
  | other
  | arrived
  deriving DecidableEq, Repr

/-- Block q of a channel as the bridge finds it (R267, R276). -/
def channelBlock (s : State) (j : Job) (c : Channel) (q : Nat) : BlockRead :=
  let r := s.stream j.stream
  let (posted, base) := match c with
    | .data => (r.dataPosted, (daddr j.desc.srcAddress).hostOff)
    | .scale => (r.scalePosted, (daddr j.desc.scaleAddress).hostOff)
  if (posted - BitVec.ofNat 16 q).toNat < 32768 then
    match hostBlock s j.stream j.counter (base / 4096 + q) with
    | none => .bad
    | some (_, seq) => if seq = q % 65536 then .arrived else .other
  else .unposted

/-- The key of block q of a channel in the list of arrived blocks. -/
def channelKey (c : Channel) (q : Nat) : Nat := 2 * q + (match c with
  | .data => 0
  | .scale => 1)

/-- The bridge reads what has been posted of the job's next block; a block that fails ends the job once the tiles before
it are committed (R267, R276). A block with another BlockSeq is not read again before its channel's next post. -/
def readChannels (p k : Nat) (s : State) : State :=
  match (s.press p).slot k with
  | none => s
  | some j =>
    let q := nextBlock s p j
    let one := fun (c : Channel) =>
      let key := channelKey c q
      if tget false j.arrived key then BlockRead.arrived
      else if tget false j.stale key then .other
      else channelBlock s j c q
    let d := one .data
    let e := one .scale
    if j.sealFail ∨ j.scaleSkew ∨ j.m ≤ j.next then s
    else if d = .bad ∨ e = .bad then failRead p k j.next .seal s
    else
      let mark := fun (x : BlockRead) (m : Tab Bool) =>
        let m := if d = x then tput false m (channelKey .data q) true else m
        if e = x then tput false m (channelKey .scale q) true else m
      s.updJob p k fun j => { j with arrived := mark .arrived j.arrived, stale := mark .other j.stale }

/-- A channel's register is written: its blocks with another BlockSeq are read again (R276). -/
def clearStale (c : Channel) (j : Job) : Job :=
  { j with stale := j.stale.filter fun e => decide (e.1 % 2 ≠ channelKey c 0) }

/-- Both blocks of the tile that holds the job's next token have arrived (R277). -/
def tileReady (s : State) (p : Nat) (j : Job) : Bool :=
  let q := nextBlock s p j
  tget false j.arrived (channelKey .data q) && tget false j.arrived (channelKey .scale q)

/-! ## Words that host software reads -/

/-- StreamState (R258). -/
def streamStateWord (r : Stream) : Nat :=
  let st := match r.state with
    | .free => 0
    | .allocated => 1
    | .keying => 2
    | .opened => 3
    | .rekey => 4
    | .closing => 5
    | .resetting => 6
  min r.inFlight 255 * 2 ^ 8 + bitOf r.counterWarn * 32 + bitOf r.configError * 16 + st

/-- The job waits at an epoch barrier, or for engraving power: a plate of its set waits in the queue (R222, R260). -/
def editionWaits (s : State) (p : Nat) (j : Job) : Bool :=
  decide (j.state = .waiting) &&
    (j.barrier || (decide (j.desc.opcode = opPlate) &&
      (jobPlates (s.press p) j.desc).any fun q => s.engQueue.any fun e => decide (e.press.val = p ∧ e.plate.val = q)))

/-- JobQuery (R260). -/
def jobQueryWord (s : State) (st : StreamId) : Nat :=
  let r := s.stream st
  let i := r.query
  let inSlot := s.presses.findSome? fun e => (e.2.jobs.find? fun f => decide (f.2.stream = st ∧ f.2.sqIndex = i)).map fun f => (e.1, f.2)
  let (status, place) :=
    match inSlot with
    | some (p, j) =>
      (if editionWaits s p j then 0x50 else 0,
        match j.state with
        | .issued => 2
        | .waiting => 3
        | .running => 4
        | .posting => 5)
    | none => (0, if (r.bridge ++ r.ended).any (fun j => decide (j.sqIndex = i)) then 1 else 0)
  status * 2 ^ 24 + place * 2 ^ 16 + i.toNat

/-- LinkState (R279). -/
def linkWord (l : Option (LinkWidth × LinkSpeed)) : Nat :=
  match l with
  | none => 0
  | some (w, g) =>
    let wn := match w with
      | .x1 => 1
      | .x2 => 2
      | .x4 => 4
      | .x8 => 8
    let gn := match g with
      | .gt2_5 => 1
      | .gt5 => 2
      | .gt8 => 3
      | .gt16 => 4
      | .gt32 => 5
    gn * 16 + wn

/-- MailboxHead for a status and Valid (R275). -/
def mailboxHead (m : Mailbox) (status : BitVec 8) (valid : Bool) : Nat :=
  m.generation.toNat * 2 ^ 48 + status.toNat * 2 ^ 40 + m.epoch.toNat * 2 ^ 24 + m.outputLength.toNat * 2 ^ 16 + bitOf valid

end Sys2Proof.Machine
end

