-- ==== Sys2Proof/Machine/Jobs.lean ====
section
/-! DEFINITION. Jobs.lean: placement of jobs, work counters and claims, and remote operations (07 R232 to R240, 01 R27 to
R29, 14 R439 to R442). -/

namespace Sys2Proof.Machine

/-! ## Placement (R218, R232, R233, R273) -/

/-- The mailbox entry that a job at its placement has or needs (R273): the one it named when it was admitted; a VECTOR job
whose parameter block then named none, the one that the block names now (assumption 28). -/
def namedMailbox (s : State) (p : Nat) (j : Job) : Option (Fin 4) :=
  match j.mailbox.orElse fun _ => j.names with
  | some e => some e
  | none =>
    if j.desc.opcode = opVector then (readVectorParams p j s).1.bind fun v => (vaddr v.dst).mailboxEntry
    else descMailbox j.desc

/-- The job reads its bounds or its parameter block from a page under copy when it is placed: the read is held (R298). -/
def placementHeld (s : State) (j : Job) : Bool :=
  let d := j.desc
  let v := d.vat.toNat
  let bound := fun (i : Nat) (w : BitVec 32) =>
    nbit d.extentIndirect.toNat i && decide (2 ^ 31 ≤ w.toNat) && s.copying v (field w.toNat 30 0 * 4) 4
  if d.opcode = opVector then
    match daddr d.srcAddress with
    | .package a => s.copying v a 64
    | _ => false
  else bound 0 d.m || bound 1 d.n || bound 2 d.k

/-- The lowest FREE slot of a press (R232). -/
def freeSlot (r : PressRec) : Option Nat := (List.range 128).find? fun k => (r.slot k).isNone

/-- The job reads its SyncCounter (R235). -/
def counterReached (s : State) (d : Descriptor) : Bool :=
  decide (d.waitValue.toNat ≤ (s.counter (counterNo d.vat.toNat d.syncCounter.toNat)).value.toNat)

/-- A mailbox entry is reserved for a job at its placement (R273). -/
def reserveMailbox (st : StreamId) (e : Nat) (s : State) : State :=
  s.updStream st fun r => { r with mailboxes := tmod {} r.mailboxes e Mailbox.reserve }

/-- A reservation is given back, and a job that waits for the entry takes it (R270, R273). -/
def releaseMailbox (st : StreamId) (e : Nat) (s : State) : State :=
  reserveWaiting st (s.updStream st fun r => { r with mailboxes := tmod {} r.mailboxes e fun m => { m with state := .free } })

/-- A job enters slot k of press p with its mailbox entry reserved, and the checks of R218 run. -/
def placeJob (st : StreamId) (p k : Nat) (m : Option (Fin 4)) (j : Job) (s : State) : State :=
  let s := match m with
    | some e => if j.mailbox.isSome then s else reserveMailbox st e.val s
    | none => s
  let s := reserveWaiting st s
  let j := { j with mailbox := m, order := (s.press p).placed }
  let s := s.updPress p fun r => { r with placed := r.placed + 1 }
  match deckle p j s with
  | (.ok j, s) =>
    let met := !j.desc.waitOnCounter || counterReached s j.desc
    s.setSlot p k (some { j with state := .waiting, counterMet := met })
  | (.fails status cause ring, s) =>
    let s := match ring, m with
      | true, some e => releaseMailbox st e.val s
      | _, _ => s
    failJob p k status cause (s.setSlot p k (some (if ring then { j with mailbox := none } else j)))

/-- JOB_PLACEMENT: the bridge places the first waiting job of a stream, or ends it on a recheck, or leaves it waiting. -/
def execJobPlacement (st : StreamId) (s : State) : Out :=
  match (s.stream st).bridge with
  | [] => .next s
  | j :: rest =>
    let v := j.desc.vat.toNat
    let popped := s.updStream st fun r => { r with bridge := rest }
    let ended := reserveWaiting st popped
    if j.vatPulping ∨ (s.vat v).state = .pulping then .next (endInBridge st j stVatPulping 0 ended)
    else if j.vatResetting ∨ (s.vat v).state = .resetting then .next (endInBridge st j stVatResetting 0 ended)
    else
      match s.physPress v j.desc.pressIndex.toNat with
      | none => .next (endInBridge st j stShape dcPress ended)
      | some p =>
        let m := namedMailbox s p j
        let taken : Bool := match m with
          | some e => j.mailbox.isNone && decide ((tget {} (s.stream st).mailboxes e.val).state ≠ .free)
          | none => false
        if (s.press p).state ≠ .active ∨ taken ∨ placementHeld s j then .next s
        else
          match freeSlot (s.press p) with
          | none => .next s
          | some k => .next (placeJob st p k m j popped)

/-! ## Work counters (R235 to R239) -/

/-- COUNTER_SET: waits for an empty claim ledger, then sets Value, Limit and the return list (R237). -/
def execCounterSet (p : Press) (k : Slot) (s : State) : Out :=
  match (s.press p).slot k with
  | none => .next s
  | some j =>
    let c := counterNo j.desc.vat.toNat j.desc.claimCounter.toNat
    if j.desc.opcode = opCounterSet ∧ startReady s p j ∧ pressIssues s p ∧ (s.counter c).ledger = [] then
      .next (finishJob p k (s.setCounter c { value := 0, limit := BitVec.ofNat 64 j.m, ledger := [], returns := [] }))
    else .next s

/-- COUNTER_POLL: the press reads the counter of a waiting job again (R235). -/
def execCounterPoll (p : Press) (k : Slot) (s : State) : Out :=
  match (s.press p).slot k with
  | none => .next s
  | some j =>
    if j.state = .waiting ∧ !j.counterMet ∧ counterReached s j.desc then
      .next (s.updJob p k fun j => { j with counterMet := true })
    else .next s

/-- The press asks for a chunk and takes the counter bank's answer (R238, R239). -/
def askClaim (p : Press) (k : Slot) (j : Job) (s : State) : State :=
  let c := counterNo j.desc.vat.toNat j.desc.claimCounter.toNat
  match claimFetchAdd c p s with
  | (.index i, s) =>
    if i < j.limit then
      s.updJob p k fun j =>
        { j with
          chunk := some i, next := 0, doneTokens := 0, tokensDone := [], arrived := [], stale := [], hostDone := [], fed := []
          ledgerFull := false }
    else finishJob p k ((claimToList c p i s).updJob p k fun j => { j with internal := true })
  | (.exhausted, s) => finishJob p k (s.updJob p k fun j => { j with exhausted := true, ledgerFull := false })
  | (.ledgerFull, s) => s.updJob p k fun j => { j with ledgerFull := true }

/-- A claimed job that runs and holds no chunk. -/
def claims (s : State) (p : Press) (k : Slot) : Option Job :=
  match (s.press p).slot k with
  | none => none
  | some j => if j.state = .running ∧ j.desc.claimed ∧ j.chunk = none ∧ pressIssues s p then some j else none

/-- CLAIM_FETCH_ADD: a running claimed job without a chunk asks for one (R238, R239). -/
def execClaimFetchAdd (p : Press) (k : Slot) (s : State) : Out :=
  match claims s p k with
  | some j => if j.ledgerFull then .next s else .next (askClaim p k j s)
  | none => .next s

/-- LEDGER_FULL_RETRY: 1,024 PCLK cycles after LEDGER_FULL the press asks again (R239). -/
def execLedgerFullRetry (p : Press) (k : Slot) (s : State) : Out :=
  match claims s p k with
  | some j => if j.ledgerFull then .next (askClaim p k j s) else .next s
  | none => .next s

/-! ## Remote operations (R27, R29, R439, R442) -/

/-- The job that issued an operation meets a failure. -/
def issuerFails (op : RemoteOp) (f : ReadFail) (s : State) : State :=
  match op.src with
  | some (p, k) => readFailed p k f s
  | none =>
    match f with
    | .notOwned pg => raiseNotOwned op.vat.val pg s
    | .uncorrectable fr => uncorrectableError fr s
    | .seal => s
    | .held => s

/-- The job that issued an operation completes INTERNAL, also one that has ended and whose completion waits (R235, R442). -/
def issuerInternal (op : RemoteOp) (s : State) : State :=
  match op.src with
  | some (p, k) =>
    stopJob p k (fun j => { j with internal := true })
      (s.updJob p k fun j => if j.state = .posting then { j with internal := true } else j)
  | none => s

/-- The effect of an operation at its destination, with the response (R27, R29). Atomics act on counters alone (R28). -/
def remoteEffect (op : RemoteOp) (s : State) : State :=
  let v := op.vat.val
  let reply := fun (l : List Byte) (t : State) => ({ t with remoteReply := l } : State)
  match op.dst with
  | .counter c =>
    let n := counterNo v c.val
    let old := (s.counter n).value
    let answer := leBytes 8 old.toNat
    match op.kind with
    | .signal => reply [] (counterSignal v c.val s)
    | .add x => reply [] (s.updCounter n fun r => { r with value := r.value + x })
    | .fetchAdd x => reply answer (s.updCounter n fun r => { r with value := r.value + x })
    | .compareSwap e x => reply answer (s.updCounter n fun r => { r with value := if r.value = e then x else r.value })
    | .get _ => reply answer s
    | .put _ => s
  | .scratch e off =>
    match s.physPress v e.val with
    | none => s
    | some q =>
      match op.kind with
      | .put d =>
        if off.toNat + d.length ≤ 0xB0000 then
          reply [] (s.updPress q fun r => { r with scratch := tputL 0 r.scratch off.toNat d })
        else s
      | .get n => if off.toNat + n ≤ 0xB0000 then reply (tgetN 0 (s.press q).scratch off.toNat n) s else s
      | _ => s
  | .package a =>
    let x := a.toNat
    let ok := fun (n : Nat) => decide (x + n ≤ (s.vat v).quotaPages.toNat * 2048)
    match op.kind with
    | .put d =>
      if !ok d.length then s
      else
        let s := countExact v 3 d.length s
        let t := match s.badPage v x d.length with
          | some pg => issuerFails op (.notOwned pg) s
          | none => s
        reply [] (t.pkgWrite v x d)
    | .get n =>
      if !ok n then s
      else
        let bytes := s.pkgRead v x n
        let s := countExact v 3 n s
        match s.badPage v x n, s.badWord v x n with
        | some pg, _ => reply bytes (issuerFails op (.notOwned pg) s)
        | none, some f => reply [] (issuerFails op (.uncorrectable f) s)
        | none, none => reply bytes s
    | _ => s
  | .host off =>
    match op.src with
    | none => s
    | some (p, k) =>
      match (s.press p).slot k, op.kind with
      | some _, .put d => reply [] (writeAddr p k (.host off.toNat) d s)
      | some j, .get n =>
        match hostSpaceRead s j off.toNat n with
        | .ok l => reply l s
        | .error f => reply [] (readFailed p k f s)
      | _, _ => s

/-- A press that a vat names is out of service for its repair: operations to it are held (R439 step 3). -/
def destinationHeld (s : State) (op : RemoteOp) : Bool :=
  match op.dst with
  | .scratch e _ =>
    match s.physPress op.vat.val e.val with
    | some q => decide ((s.press q).state = .retiring)
    | none => false
  | _ => false

/-- A press that issues for a vat belongs to it (R29). -/
def issuerOk (s : State) (op : RemoteOp) : Bool :=
  match op.src with
  | some (p, _) => decide ((s.press p).vat = some op.vat)
  | none => true

/-- The bytes of package memory that an operation names: address and number. -/
def remoteBytes (op : RemoteOp) : Option (Nat × Nat) :=
  match op.dst, op.kind with
  | .package a, .put d => some (a.toNat, d.length)
  | .package a, .get n => some (a.toNat, n)
  | _, _ => none

/-- A put over several pages of which one is under copy: each page takes its bytes, or holds them (R298 step 2). -/
def putPages (op : RemoteOp) (x : Nat) (d : List Byte) (s : State) : State :=
  let v := op.vat.val
  let pieces := pagePieces x d
  let free := pieces.filter fun e => !s.copying v e.1 e.2.length
  let s := countExact v 3 ((free.map fun e => e.2.length).foldl (· + ·) 0) s
  let s := match free.findSome? fun e => s.badPage v e.1 e.2.length with
    | some pg => issuerFails op (.notOwned pg) s
    | none => s
  let s := forL pieces (fun e t =>
    if s.copying v e.1 e.2.length then
      holdRequest v e.1 e.2.length (.remote { op with dst := .package (BitVec.ofNat 46 e.1), kind := .put e.2 }) t
    else t.pkgWrite v e.1 e.2) s
  { s with remoteReply := [] }

/-- The part of a get on one page is read: its bytes, none where a word is poisoned (R284, R296). -/
def readPart (op : RemoteOp) (a n : Nat) (s : State) : Option (List Byte) × State :=
  let v := op.vat.val
  let bytes := s.pkgRead v a n
  let s := countExact v 3 n s
  match s.badPage v a n, s.badWord v a n with
  | some pg, _ => (some bytes, issuerFails op (.notOwned pg) s)
  | none, some f => (none, issuerFails op (.uncorrectable f) s)
  | none, none => (some bytes, s)

/-- A part of a get has been read; with the last one the get is answered (R27, R298). -/
def gatherPart (g a n : Nat) (s : State) : State :=
  match s.hubs.gathers.find? fun x => decide (x.id = g) with
  | none => s
  | some x =>
    let (bytes, s) := readPart x.op a n s
    let parts := x.parts ++ [(a, bytes)]
    let due := match remoteBytes x.op with
      | some (b, m) => pageParts b m
      | none => []
    if due.all fun e => parts.any fun y => decide (y.1 = e.1) then
      let got := due.map fun e => ((parts.find? fun y => decide (y.1 = e.1)).map Prod.snd).getD none
      let s := s.updHubs fun h => { h with gathers := h.gathers.filter fun y => decide (y.id ≠ g) }
      { s with remoteReply := if got.all Option.isSome then got.flatMap fun b => b.getD [] else [] }
    else s.updHubs fun h => { h with gathers := h.gathers.map fun y => if y.id = g then { y with parts := parts } else y }

/-- A get over several pages of which one is under copy: each part is read, or held (R298 step 2). -/
def getPages (op : RemoteOp) (x n : Nat) (s : State) : State :=
  let v := op.vat.val
  let g := s.hubs.nextGather
  let s := s.updHubs fun h => { h with nextGather := g + 1, gathers := h.gathers ++ [{ id := g, op := op, parts := [] }] }
  forL (pageParts x n) (fun e t =>
    if t.copying v e.1 e.2 then holdRequest v e.1 e.2 (.part g e.1 e.2) t else gatherPart g e.1 e.2 t) s

/-- An operation takes effect, or waits at a page under copy in its order of arrival; one over several pages does so page
by page, so that no later operation of its source overtakes it on any of them (R27, R298, R299). -/
def arriveRemote (op : RemoteOp) (s : State) : State :=
  match remoteBytes op with
  | some (a, n) =>
    let v := op.vat.val
    if !s.copying v a n ∨ (s.vat v).quotaPages.toNat * 2048 < a + n then remoteEffect op s
    else if (pageParts a n).length = 1 then holdRequest v a n (.remote op) s
    else
      match op.kind with
      | .put d => putPages op a d s
      | .get _ => getPages op a n s
      | _ => s
  | none => remoteEffect op s

/-- REMOTE_OPERATION: an operation arrives and takes effect, or is held at its source while its press is replaced. -/
def execRemoteOperation (op : RemoteOp) (s : State) : Out :=
  if !issuerOk s op then .next s
  else if destinationHeld s op then .next { s with heldOps := s.heldOps ++ [op] }
  else .next (arriveRemote op s)

/-- Held operations to a vat's press are released in their order of arrival (R439 step 8). -/
def releaseHeld (v e : Nat) (s : State) : State :=
  let mine := fun (op : RemoteOp) =>
    match op.dst with
    | .scratch x _ => decide (op.vat.val = v ∧ x.val = e)
    | _ => false
  let l := s.heldOps.filter mine
  settleSignals (forL l (fun op t => remoteEffect op t) { s with heldOps := s.heldOps.filter fun op => !mine op })

/-- Held operations to a vat's press are discarded, and their jobs complete INTERNAL (R442). -/
def discardHeld (v e : Nat) (s : State) : State :=
  let mine := fun (op : RemoteOp) =>
    match op.dst with
    | .scratch x _ => decide (op.vat.val = v ∧ x.val = e)
    | _ => false
  let l := s.heldOps.filter mine
  settleSignals (forL l (fun op t => issuerInternal op t) { s with heldOps := s.heldOps.filter fun op => !mine op })

end Sys2Proof.Machine
end

