-- ==== Sys2Proof/Machine/SwapOps.lean ====
section
/-! DEFINITION. SwapOps.lean: staged sections (R306, R307), and how a swap goes on as jobs of older epochs leave (R242,
R326 to R328). -/

namespace Sys2Proof.Machine

/-! ## Sections -/

/-- The section of a ream of a type for an edition, a vat-relative press and a unit (R306). -/
def Ream.find (r : Ream) (ty ed e u : Nat) : Option Section :=
  r.sections.find? fun x => decide (x.type = ty ∧ x.edition = ed ∧ x.press = e ∧ x.unit = u)

/-- An edition has stipple sections for a macro of a press (R307, R326 step 3). -/
def hasStipple (r : Ream) (ed e : Nat) (m : Macro) : Bool :=
  (r.find 6 ed e m).isSome || (List.range 4).any fun g => (r.find 5 ed e (4 * m + g)).isSome

/-- Bytes of the bodies of staged sections (R307). -/
def sectionBytes (l : List Section) : Nat := (l.map fun x => x.body.length).foldl (· + ·) 0

/-- CouchMode of R67 and R307. -/
def couchNo (n : Nat) : Couch := if n = 1 then .tall else if n = 2 then .deep else .none

/-- The body of a SENSE_REGISTERS section (R307). -/
def parseSense (l : List Byte) : SenseRegs :=
  { control := BitVec.ofNat 32 (leAt l 0 4), columnScale := wordsOf 16 512 (l.drop 4)
    joinScale := wordsOf 16 512 (l.drop 1028), columnOffset := wordsOf 32 512 (l.drop 2052)
    rowSumCoef := wordsOf 16 512 (l.drop 4100) }

/-- The body of a DRIVE_REGISTERS section (R307). -/
def parseDrive (l : List Byte) : DriveRegs :=
  { control := BitVec.ofNat 32 (leAt l 0 4), alpha := BitVec.ofNat 16 (leAt l 4 2), outliers := wordsOf 16 32 (l.drop 8) }

/-- What an edition of a ream engraves on logical plate n of vat-relative press e, none without PLATE_CODES (R326). -/
def editionContent (r : Ream) (ed e n : Nat) (epoch : BitVec 16) : Option Content :=
  (r.find 1 ed e n).map fun x =>
    { codes := x.body, codebook := ((r.find 2 ed e n).map (·.body)).getD [], fullScaleShift := x.param0
      couch := couchNo x.param1, epoch := epoch, sense := (r.find 3 ed e n).map fun y => parseSense y.body
      drive := (r.find 4 ed e n).map fun y => parseDrive y.body, staged := some (r.digest, ed, n) }

/-- The ream that the swap of a vat takes its edition from (R325): once it has completed, the active one. -/
def swapReam (r : VatRec) : Option Ream := if r.swap.active && r.swap.fromPending then r.pendingReam else r.active

/-! ## Reads of the staging area (R62 step 4, R284, R296, R298) -/

/-- The staged reams of a vat (R311). -/
def VatRec.reams (r : VatRec) : List Ream := r.active.toList ++ r.pendingReam.toList

/-- The ream and the sections that hold a content on press p of vat v. -/
def contentSections (s : State) (p v : Nat) (c : Content) : Option (Ream × List Section) :=
  match c.staged with
  | none => none
  | some (digest, ed, n) =>
    ((s.vat v).reams.find? fun x => decide (x.digest = digest)).map fun x =>
      (x, [1, 2, 3, 4].filterMap fun ty => x.find ty ed (s.press p).vatPress n)

/-- A page of a content's sections is under copy: what reads it waits (R298 step 2). -/
def contentHeld (s : State) (p v : Nat) (c : Content) : Bool :=
  (contentSections s p v c).any fun e => e.2.any (sectionHeld s v e.1)

/-- Staged sections read one after the other: their bytes, and what the reads do (R284, R297). -/
def readSections (v : Nat) (r : Ream) : List Section → State → List (Section × List Byte) × State
  | [], s => ([], s)
  | x :: l, s =>
    let read := readSection s v r x
    let (rest, t) := readSections v r l (stagedFaults read s)
    ((x, read.body) :: rest, t)

/-- What a press engraves of a content, as its sections read when the engraving begins (R62 step 4). -/
def readContent (p v : Nat) (c : Content) (s : State) : Content × State :=
  match contentSections s p v c with
  | none => (c, s)
  | some (x, secs) =>
    let (bodies, s) := readSections v x secs s
    let body := fun (ty : Nat) => (bodies.find? fun e => decide (e.1.type = ty)).map Prod.snd
    ({ c with
        codes := (body 1).getD c.codes, codebook := (body 2).getD c.codebook
        sense := ((body 3).map parseSense).orElse fun _ => c.sense
        drive := ((body 4).map parseDrive).orElse fun _ => c.drive }, s)

/-! ## Row groups -/

/-- A load of row group g of macro m begins (R153): the group holds nothing until it ends. -/
def startRowLoad (m g : Nat) (rec' : LoadRecord) (body : List Byte) (r : PressRec) : PressRec :=
  r.updMacro m fun x =>
    { x with
      loading := x.loading ||| BitVec.ofNat 4 (2 ^ g), valid := x.valid &&& ~~~ BitVec.ofNat 4 (2 ^ g)
      records := tput {} x.records g rec', incoming := tput [] x.incoming g body }

/-- A load of row group g of macro m ends: the weights, the format and the valid bit are set (R153). -/
def endRowLoad (m g : Nat) (r : PressRec) : PressRec :=
  r.updMacro m fun x =>
    let int4 := decide ((tget {} x.records g).format.toNat = 1)
    let bit := BitVec.ofNat 4 (2 ^ g)
    { x with
      loading := x.loading &&& ~~~ bit, valid := x.valid ||| bit
      int4 := if int4 then x.int4 ||| bit else x.int4 &&& ~~~ bit
      weights := tputL 0 x.weights (16384 * g) (lpad 0 16384 (tget [] x.incoming g))
      incoming := tput [] x.incoming g [] }

/-! ## Plates -/

/-- An engraved plate becomes LIVE (R326 step 5, R440): its content, its couch mode and its registers are in force. -/
def goLive (p q : Nat) (c : Content) (s : State) : State :=
  let r := s.press p
  let s := s.updPlate p q fun x =>
    { x with
      state := .live, codes := c.codes, codebook := c.codebook, fullScaleShift := c.fullScaleShift, couch := c.couch
      epoch := c.epoch, staged := c.staged, ready := none, outOfService := false, priority := false, overdue := false }
  let s := s.updBank p q fun b => { b with regs := { b.regs with sense := c.sense } }
  let s := s.updBank p (r.upBank q) fun b => { b with regs := { b.regs with drive := c.drive } }
  match r.logOf q with
  | some n => s.updPress p fun r => { r with couchMode := tput .none r.couchMode (n / 2) c.couch }
  | none => s

/-- A plate is done for the swap of its press's vat (R326, R337). -/
def plateDone (p q : Nat) (s : State) : State :=
  match (s.press p).vat with
  | none => s
  | some v => s.updVat v.val fun r => { r with swap := { r.swap with
      todo := r.swap.todo.filter (· ≠ (Fin.ofNat 68 p, Fin.ofNat 17 q)) } }

/-- Rotation goes on (R57, R58, R62, R105, R326, R344): priority mode while a content awaits it or a bank in FALLBACK
is to be parked, and never from STOPPED, to which a press returns whose refresh target is RETIRED or whose bank there is
PARKED (R65, R105). -/
def resumeRotation (r : PressRec) : PressRec :=
  if r.rotation = .stopped ∨ r.anchored then { r with rotation := .stopped }
  else { r with rotation :=
    if r.plates.any (fun e => e.2.priority) || r.fallbackBank.isSome then .priority else .running }

/-- The swap of a vat completes (R311, R326, R328): the old active ream's staging pages are written with zeros. -/
def completeSwap (v : Nat) (s : State) : State :=
  let w := (s.vat v).swap
  let freed := if w.fromPending then ((s.vat v).active.map Ream.held).getD [] else []
  let s := forL (stagingFrames s v freed) zeroFrame s
  let s := s.updVat v fun r =>
    { r with
      currentEpoch := w.epoch, incomingEpoch := none
      swap := { w with active := false }
      active := if w.fromPending then r.pendingReam else r.active
      pendingReam := if w.fromPending then none else r.pendingReam
      load := if w.fromPending then { r.load with state := .idle } else r.load
      tableNow := if w.fromPending then !r.tableNow else r.tableNow }
  let s := forL (s.vatPresses v) (fun p t => t.updPress p resumeRotation) s
  raise evSwapComplete none none (some v) (leBytes 1 w.edition ++ leBytes 1 (bitOf w.fromPending) ++ leBytes 2 w.epoch.toNat) s

/-- The swap of a vat completes if every plate is done (R326). -/
def checkSwap (v : Nat) (s : State) : State :=
  let w := (s.vat v).swap
  if w.active ∧ w.todo = [] then completeSwap v s else s

/-! ## How a swap goes on -/

/-- The jobs in a press's slots that name another epoch than the swap's (R242). -/
def olderJobs (s : State) (p : Nat) (epoch : BitVec 16) : List Descriptor :=
  ((s.press p).jobs.filter fun e => decide (e.2.desc.epoch ≠ epoch)).map fun e => e.2.desc

/-- No job of an older epoch has logical plate n of a press in its set (R242). -/
def plateFree (s : State) (p n : Nat) (epoch : BitVec 16) : Bool :=
  let r := s.press p
  (olderJobs s p epoch).all fun d => decide (d.opcode ≠ opPlate) || !(jobPlates r d).contains (r.physOf n)

/-- What the incoming edition of a vat engraves on logical plate n of a press; none: it is pulped (R326 step 4). -/
def incomingContent (s : State) (p v n : Nat) : Option Content :=
  let w := (s.vat v).swap
  (swapReam (s.vat v)).bind fun x => editionContent x w.edition (s.press p).vatPress n w.epoch

/-- Plate n of a press is eligible (R326 step 2): with its partner when the pair is couched in the old edition or in the
new one. -/
def plateEligible (s : State) (p v n : Nat) : Bool :=
  let w := (s.vat v).swap
  let mate := if n % 2 = 0 then n + 1 else n - 1
  let coupled := decide ((s.press p).couchOf n ≠ .none) || (incomingContent s p v n).any fun c => decide (c.couch ≠ .none)
  plateFree s p n w.epoch && (!coupled || plateFree s p mate w.epoch)

/-- Plate q of press p is engraved, waits for it, or waits for the fence after it. -/
def plateBusy (s : State) (p q : Nat) : Bool :=
  (s.press p).returning.any (fun x => decide (x.val = q)) || ((s.press p).engraving.any fun e => decide (e.plate.val = q)) || ((s.press p).plate q).ready.isSome ||
    s.engQueue.any fun e => decide (e.press.val = p ∧ e.plate.val = q)

/-- A plate asks for engraving power (R323). -/
def askPower (e : EngReq) (s : State) : State := { s with engQueue := s.engQueue ++ [e] }

/-- The class of R323 of a refresh step. -/
def refreshClass (r : PressRec) : Nat :=
  if r.plates.any fun e => e.2.priority && e.2.limitTripped then 1 else if r.rotation = .priority then 3 else 4

/-- A refresh step of press p that waits for power takes the class that its press's priorities now give it (R323). -/
def reclass (p : Nat) (s : State) : State :=
  { s with engQueue := s.engQueue.map fun e =>
      if e.press.val = p ∧ e.purpose = .refresh then { e with cls := refreshClass (s.press p) } else e }

/-- The plates of a press that have become eligible ask for engraving power (R326 step 4). -/
def requestPlates (p v : Nat) (s : State) : State :=
  let w := (s.vat v).swap
  forN 16 (fun n t =>
    let r := t.press p
    let q := r.physOf n
    if w.todo.contains (Fin.ofNat 68 p, Fin.ofNat 17 q) && !plateBusy t p q && plateEligible t p v n then
      askPower { cls := 2, press := Fin.ofNat 68 p, plate := Fin.ofNat 17 q, purpose := .swap
                 content := incomingContent t p v n } t
    else t) s

/-- The stipple sections of the incoming edition for macro m of a press of vat v, with their ream (R307, R326 step 3). -/
def macroSections (s : State) (p m v : Nat) : Option (Ream × List Section) :=
  let w := (s.vat v).swap
  let e := (s.press p).vatPress
  (swapReam (s.vat v)).map fun x =>
    (x, (x.find 6 w.edition e m).toList ++ (List.range 4).filterMap fun g => x.find 5 w.edition e (4 * m + g))

/-- The stipple sections of a swap for one macro are read from the staged ream and begin to load (R283, R326 step 3). -/
def loadSections (p m v : Nat) (s : State) : State :=
  match macroSections s p m v with
  | none => s
  | some (x, secs) =>
    let (bodies, s) := readSections v x secs s
    forL bodies (fun (e : Section × List Byte) t =>
      let t := countExact v 3 e.2.length t
      if e.1.type = 6 then
        t.updMacro p m fun z =>
          { z with scale := tputL 0x3C00 [] 0 (wordsOf 16 64 e.2), downScale := BitVec.ofNat 16 (leAt e.2 128 2) }
      else
        t.updPress p (startRowLoad m (e.1.unit % 4)
          { vat := BitVec.ofNat 8 v, format := BitVec.ofNat 8 e.1.param0
            source := Config.stagingPlace e.1.edition e.1.press e.1.unit
            staged := some (x.digest, e.1.edition) } e.2)) s

/-- Macros whose sections may be loaded now begin to load; a page under copy holds its macro's (R298 step 2, R326 step 3). -/
def requestMacros (v : Nat) (s : State) : State :=
  forL (s.vat v).swap.stippleTodo (fun (e : Press × Macro) t =>
    let w := (t.vat v).swap
    let p := e.1.val
    if (t.press p).state = .active ∧ (olderJobs t p w.epoch).all (fun d => !(jobMacros d).contains e.2.val) ∧
        !((macroSections t p e.2.val v).any fun x => x.2.any (sectionHeld t v x.1)) then
      loadSections p e.2.val v (t.updVat v fun r => { r with swap := { w with stippleTodo := w.stippleTodo.filter (· ≠ e) } })
    else t) s

/-- Step 3 of R326 has finished on a press. -/
def step3Done (s : State) (p v : Nat) : Bool :=
  ((s.vat v).swap.stippleTodo.all fun e => decide (e.1.val ≠ p)) &&
    (List.range 8).all fun i =>
      let x := (s.press p).macro' (i / 4)
      !(nbit x.loading.toNat (i % 4) && (tget {} x.records (i % 4)).staged.isSome)

/-- Engraved plates of a press become LIVE once step 3 has finished there (R326 step 5). -/
def readyPlates (p v : Nat) (s : State) : State :=
  if step3Done s p v then
    forN 17 (fun q t =>
      match ((t.press p).plate q).ready with
      | some c => plateDone p q (goLive p q c t)
      | none => t) s
  else s

/-- The swap of a vat goes on: loads, requests, LIVE plates, completion (R326). -/
def advanceSwap (v : Nat) (s : State) : State :=
  let s := requestMacros v s
  if (s.vat v).swap.active ∧ (s.vat v).state = .serving then
    let s := forL ((s.vatPresses v).filter fun p => decide ((s.press p).state = .active))
      (fun p t => readyPlates p v (requestPlates p v t)) s
    checkSwap v s
  else s

/-- Every vat's swap goes on. -/
def advanceSwaps (s : State) : State := forN 8 (fun v t => advanceSwap v t) s

end Sys2Proof.Machine
end

