-- ==== Sys2Proof/Machine/Retire.lean ====
section
/-! DEFINITION. Retire.lean: retirement of a press and its replacement by a spare (14 R438 to R442). -/

namespace Sys2Proof.Machine

/-- The presses in SPARE, ascending (R436). -/
def spares (s : State) : List Nat := allPresses.filter fun p => decide ((s.press p).state = .spare)

/-- SPARE_PRESSES_EXHAUSTED is raised when no press is SPARE (R438, R439 step 8). -/
def raiseIfExhausted (p : Nat) (s : State) : State :=
  if (spares s).isEmpty then
    raise evSparesExhausted (some p) none none
      (leBytes 1 (allPresses.filter fun q => decide ((s.press q).state = .retired)).length) s
  else s

/-- PRESS_RETIRED is raised (R463). -/
def raiseRetired (p cause : Nat) (replacement : Option Nat) (jobs : Nat) (s : State) : State :=
  raise evPressRetired (some p) none (s.pressVat p) (leBytes 1 cause ++ [optByte replacement] ++ leBytes 2 jobs) s

/-- What a press was engraving on a plate for its place in the vat, if anything (R440). -/
def engravingOf (s : State) (p q : Nat) : Option (Option Content) :=
  let r := s.press p
  let counts := fun (x : Purpose) => decide (x = .swap ∨ x = .inPlace ∨ x = .reengrave ∨ x = .engage)
  match r.engraving with
  | some e => if e.plate.val = q ∧ counts e.purpose then some e.content else waiting
  | none => waiting
where
  /-- A content that the plate waits for because its own has lost its place (R329), or that only step 3 of R326 holds. -/
  waiting : Option (Option Content) :=
    match ((s.press p).plate q).ready with
    | some c => some (some c)
    | none =>
      (s.engQueue.find? fun e => decide (e.press.val = p ∧ e.plate.val = q ∧ e.purpose = .reengrave)).map (·.content)

/-- The content that the replacement's logical plate n takes (R440): none when it stays BLANK. -/
def replacedContent (s : State) (p n : Nat) : Option Content :=
  let r := s.press p
  let q := r.physOf n
  let x := r.plate q
  match engravingOf s p q with
  | some c => c
  | none =>
    if x.state = .live ∨ x.inPlace then
      some { codes := x.codes, codebook := x.codebook, fullScaleShift := x.fullScaleShift, couch := r.couchOf n
             epoch := x.epoch, sense := (r.bank q).regs.sense, drive := (r.bank (r.upBank q)).regs.drive
             staged := x.staged }
    else none

/-- The contents of the logical plates of a press, as its replacement engraves them (R440). A vat that is PULPING or
RESETTING has none engraved. -/
def replacedContents (s : State) (p v : Nat) : List (Nat × Content) :=
  if (s.vat v).state = .serving then
    (List.range 16).filterMap fun n => (replacedContent s p n).map fun c => (n, c)
  else []

/-- Everything that a press was doing stops (R439 step 1): passes and engravings are dropped. -/
def stopPress (p : Nat) (s : State) : State :=
  let s := s.updPress p fun r => { clearPasses r with engraving := none, handover := false, returning := none }
  { s with engQueue := s.engQueue.filter fun e => decide (e.press.val ≠ p) }

/-- A FeltWord of free bits. -/
def freeWord (d : Nat) : BitVec 64 := BitVec.ofNat 64 (leNat (freeBytes d 8))

/-- The felt entries of a job on a press hold undefined data (R441). -/
def undefineFelt (p : Nat) (j : Job) (s : State) : State :=
  let n := min (j.m * j.n) (8192 - j.desc.feltBase.toNat)
  let s' := s.updPress p fun r =>
    { r with felt := tputL 0 r.felt j.desc.feltBase.toNat ((List.range n).map fun i => freeWord (s.free + 8 * i)) }
  { s' with free := s.free + 8 * n }

/-- A job whose tokens start over, its chunk's when it is claimed: what its committed chunks gave stays (R240, R441). -/
def Job.restart (j : Job) : Job :=
  { j with
    state := .waiting, next := 0, doneTokens := 0, tokensDone := [], tag := 0, slices := [], joins := [], feltSeen := []
    arrived := [], stale := [], draining := false, loading := false, batch := [], drainWords := [], hostOut := []
    hostDone := [], fed := [], operandRuns := [], operands := [], lateOut := [] }

/-- A job that runs again from its first token as if it had not run (R441). -/
def Job.rerun (j : Job) : Job :=
  { j.restart with
    rescaled := false, saturated := false, accSaturated := false, committed := 0, saturatedPasses := 0, drainWait := 0
    mailOut := [] }

/-- The felt entries of a job's tokens from t on are set to Valid 0 (R171, R441). -/
def invalidateFelt (j : Job) (t : Nat) (r : PressRec) : PressRec :=
  { r with felt := (List.range ((j.m - t) * j.n)).foldl (fun f i =>
      tmod 0 f (j.desc.feltBase.toNat + t * j.n + i) fun w => w &&& 0x7FFFFFFFFFFFFFFF) r.felt }

/-- The fate of a job in slot k of a press that is retired (R441): it ends, or it is made ready to run again. -/
def retiredJob (p k : Nat) (s : State) : State :=
  match (s.press p).slot k with
  | none => s
  | some j =>
    let d := j.desc
    let work := decide (d.opcode = opPlate ∨ d.opcode = opStipple)
    let used := if d.opcode = opMacroLoad then jobMacros d else if work then neededMacros s p j else []
    let broken := used.any fun m => decide (((s.press p).macro' m).state = .failed)
    let ends := fun (t : State) => stopJob p k (fun j => { j with internal := true, reissued := true }) t
    match j.state with
    | .posting => s
    | .running =>
      if broken then ends s
      else if work ∧ d.preloadSelect = 5 then undefineFelt p j (ends s)
      else if d.claimed then s.updJob p k fun j => { j.restart with chunk := none, reissued := true }
      else if work ∧ d.oz4030 then
        let s := if d.feltMode = 1 ∨ d.feltMode = 2 then s.updPress p (invalidateFelt j j.doneTokens) else s
        s.updJob p k fun j => { j with
          state := .waiting, next := j.doneTokens, draining := false, batch := [], slices := [], joins := [], feltSeen := []
          fed := [], operandRuns := [], operands := [], lateOut := [], reissued := true }
      else
        let s := if work ∧ (d.feltMode = 1 ∨ d.feltMode = 2) then s.updPress p (invalidateFelt j 0) else s
        s.updJob p k fun j => { j.rerun with reissued := true }
    | _ => s.updJob p k fun j => { j with reissued := true }

/-- The SPARE press with the fewest hops to a press, ties to the lower number (R439 step 4). -/
def nearestSpare (s : State) (p : Nat) : Option Nat := argMin (hops p) (spares s)

/-- A press takes the scratch, the felt and the slots of another (R439 step 5), with the writes that its jobs have waiting:
jobs that post stay behind. -/
def moveJobs (src dst : Nat) (s : State) : State :=
  let a := s.press src
  let posts := a.slots.filter fun e => e.2.any fun j => decide (j.state = .posting)
  let moved := a.slots.filter fun e => e.2.any fun j => decide (j.state ≠ .posting)
  let s := s.updPress dst fun r =>
    { r with scratch := tcut a.scratch 0xB0000 0xC0000, felt := a.felt, slots := moved, placed := a.placed
             jobsReissued := satAdd r.jobsReissued moved.length }
  let s := s.updPress src fun r => { r with slots := posts }
  let place := fun (x : Option (Press × Slot)) => x.map fun y =>
    if y.1.val = src ∧ moved.any (fun e => decide (e.1 = y.2.val)) then (Fin.ofNat 68 dst, y.2) else y
  let toOp := fun (op : RemoteOp) => { op with src := place op.src }
  let toHeld := fun (h : HeldAccess) =>
    match h with
    | .access x op e job => HeldAccess.access x op e (place job)
    | .remote op => .remote (toOp op)
    | .part i a n => .part i a n
  ({ s with heldOps := s.heldOps.map toOp } : State).updHubs fun h =>
    { h with
      copies := h.copies.map fun c => { c with held := c.held.map toHeld }
      gathers := h.gathers.map fun g => { g with op := toOp g.op } }

/-- The spare selected for press p enters ENGAGING with the work of press src, and its clocks start (R100, R138, R439
steps 4, 5; R440). -/
def beginEngaging (p src spare : Nat) (todo : List (Nat × Content)) (s : State) : State :=
  let a := s.press p
  let s := s.updPress spare fun r =>
    let r := (List.range 16).foldl (fun r n => r.updPlate (r.physOf n) fun y => { y with epoch := (a.plate (a.physOf n)).epoch }) r
    { recoverBanks r with
      state := .engaging, vat := a.vat, vatPress := a.vatPress, engagingFor := some (Fin.ofNat 68 p)
      replaces := some (Fin.ofNat 68 p), engageChecked := false, clocked := true
      engageTodo := todo.map fun e => (Fin.ofNat 17 (r.physOf e.1), e.2) }
  moveJobs src spare (s.updPress p fun r => { r with replacement := some (Fin.ofNat 68 spare) })

/-- No SPARE press is left for press p, whose jobs press src holds (R442). -/
def retireUnreplaced (p src : Nat) (s : State) : State :=
  let a := s.press p
  let s := stopJobs src (fun _ => true) (fun j => { j with internal := true }) s
  let s := match a.vat with
    | some v =>
      checkSwap v.val (discardHeld v.val a.vatPress (s.updVat v.val fun r =>
        { r with
          pressMap := tput 0xFF r.pressMap a.vatPress 0xFF
          swap := { r.swap with
            todo := r.swap.todo.filter fun e => decide (e.1.val ≠ p ∧ e.1.val ≠ src)
            stippleTodo := r.swap.stippleTodo.filter fun e => decide (e.1.val ≠ p ∧ e.1.val ≠ src) } }))
    | none => s
  s.updPress p fun r => { r with state := .retired, clocked := false, replacement := none, vat := none, vatPress := 0x7F }

/-- A failed ENGAGING press is retired and the device selects another for the same place (R439 step 6). -/
def failEngaging (x cause : Nat) (s : State) : State :=
  let r := s.press x
  let p := (r.engagingFor.map Fin.val).getD x
  let jobs := r.jobs.length
  let s := stopPress x (raiseRetired x cause none jobs s)
  let s := s.updPress x fun r =>
    { r with state := .retired, retireCause := cause, clocked := false, engagingFor := none, engageChecked := false
             engageTodo := [], replaces := none, vat := none, vatPress := 0x7F }
  match nearestSpare s p, (s.press p).vat with
  | some y, some v =>
    let todo := r.engageTodo.filterMap fun e => (r.logOf e.1).map fun n => (n, e.2)
    let place := fun (q : Plate) => Fin.ofNat 17 ((s.press y).physOf ((r.logOf q).getD 0))
    beginEngaging p x y todo (s.updVat v.val fun z => { z with swap := { z.swap with
      todo := z.swap.todo.map fun e => if e.1.val = x then (Fin.ofNat 68 y, place e.2) else e
      stippleTodo := z.swap.stippleTodo.map fun e => if e.1.val = x then (Fin.ofNat 68 y, e.2) else e } })
  | _, _ => retireUnreplaced p x s

/-- Plates of a swap move from a press to its replacement (R440): those not yet done, and those that held the incoming
epoch and have to be engraved again. -/
def moveSwapPlates (p spare v : Nat) (s : State) : State :=
  let r := s.press p
  let w := (s.vat v).swap
  if !w.active then s
  else
    let due := fun (n : Nat) =>
      let q := r.physOf n
      w.todo.contains (Fin.ofNat 68 p, Fin.ofNat 17 q) || (decide ((r.plate q).state = .live) && decide ((r.plate q).epoch = w.epoch))
    let rest := w.todo.filter fun e => decide (e.1.val ≠ p)
    let mine := (List.range 16).filter due |>.map fun n => (Fin.ofNat 68 spare, Fin.ofNat 17 ((s.press spare).physOf n))
    s.updVat v fun x => { x with swap := { w with
      todo := rest ++ mine
      stippleTodo := w.stippleTodo.map fun e => if e.1.val = p then (Fin.ofNat 68 spare, e.2) else e } }

/-- A press is retired with a cause (R438, R439, R442); one that belongs to no vat takes steps 1 and 8 of R439 alone. A press
that is RETIRING or RETIRED already stays as it is. -/
def retirePress (p cause : Nat) (s : State) : State :=
  let r := s.press p
  let jobs := r.jobs.length
  match r.state with
  | .retiring => s
  | .retired => s
  | .testing =>
    raiseRetired p cause none 0 (s.updPress p fun r => { r with state := .retired, retireCause := cause, clocked := false })
  | .spare =>
    raiseIfExhausted p
      (raiseRetired p cause none 0 (s.updPress p fun r => { r with state := .retired, retireCause := cause, clocked := false }))
  | .engaging => failEngaging p cause s
  | .active =>
    match r.vat with
    | none =>
      raiseIfExhausted p (raiseRetired p cause none jobs
        ((stopPress p s).updPress p fun r => { r with state := .retired, retireCause := cause, clocked := false }))
    | some v =>
      let todo := replacedContents s p v.val
      let s := s.updPress p fun r => { r with state := .retiring, retireCause := cause }
      let s := raiseRetired p cause (nearestSpare s p) jobs s
      let s := stopPress p s
      let s := claimsOfPress (Fin.ofNat 68 p) s
      match nearestSpare s p with
      | some y =>
        let s := forL (r.jobs.map Prod.fst) (fun k t => retiredJob p k t) s
        beginEngaging p p y todo (moveSwapPlates p y v.val s)
      | none => retireUnreplaced p p s

end Sys2Proof.Machine
end

