-- ==== Sys2Proof/Machine/Banks.lean ====
section
/-! DEFINITION. Banks.lean: slices and slice banks: failures, the spare slice, the fallback converter, background
calibration, power-down and the windows of the statistics unit (03 R96 to R106, 04 R137 to R141). -/

namespace Sys2Proof.Machine

/-! ## Failures (R101 to R106) -/

/-- FailedCount (R108). -/
def failedCount (b : Bank) : Nat := b.sliceFailed.length

/-- A bank is parked (R105): rotation stops, with any refresh step that has not handed over, plate b stays in the refresh
target's place, and the fallback converter is free again. -/
def parkBank (p b : Nat) (s : State) : State :=
  let x := (s.press p).bank b
  let s : State := { s with engQueue := s.engQueue.filter fun e => !decide (e.press.val = p ∧ e.purpose = .refresh) }
  let s := s.updPress p fun r =>
    { r with
      rotation := .stopped, handover := false
      engraving := r.engraving.filter fun e => decide (e.purpose ≠ .refresh)
      fallback := if r.fallbackBank.map Fin.val = some b then .standby else r.fallback
      fallbackBank := if r.fallbackBank.map Fin.val = some b then none else r.fallbackBank }
  let s := s.updBank p b fun x => { x with state := .parked, shadowActive := false }
  raise evBankParked (some p) (some b) (s.pressVat p) (leBytes 1 x.parkSteps) s

/-- A bank is LOST and its press is retired (R106). -/
def loseBank (p b cause : Nat) (s : State) : State :=
  let s := s.updBank p b fun x => { x with state := .lost, shadowActive := false }
  let s := raise evBankLost (some p) (some b) (s.pressVat p) (leBytes 1 cause) s
  retirePress p 2 s

/-- A slice bank fails (R104 to R106). A second bank that fails while the converter is being checked for the first is LOST as
it would be under an ACTIVE converter (DESIGN CHOICE; assumption 87). -/
def bankFails (p b : Nat) (s : State) : State :=
  let r := s.press p
  let st := (r.bank b).state
  if st = .fallback ∨ st = .parked ∨ st = .lost ∨ r.fallbackFor.map Fin.val = some b then s
  else if r.refreshTarget.val = b then parkBank p b s
  else if r.fallback = .failed then loseBank p b 2 s
  else if r.fallback = .active ∨ r.fallbackFor.isSome then loseBank p b 1 s
  else
    (s.updBank p b fun x => { x with shadowActive := false }).updPress p fun r =>
      { r with fallbackFor := some (Fin.ofNat 17 b) }

/-- A working slice fails (R101, R102, R104): the spare slice takes it over when it is healthy and free. -/
def sliceFails (p b j cause : Nat) (s : State) : State :=
  let x := (s.press p).bank b
  let s := s.updBank p b fun x =>
    { x with
      sliceFailed := tput false x.sliceFailed j true, sliceFailures := satInc x.sliceFailures
      pendingTrim := tput none x.pendingTrim j none, failing := x.failing.filter (· ≠ j) }
  if x.spareFailed ∨ x.substituted ≠ 0xFF then bankFails p b s
  else
    raise evSliceSubstituted (some p) (some b) (s.pressVat p) (leBytes 1 j ++ leBytes 1 cause)
      (s.updBank p b fun x =>
        { x with substituted := BitVec.ofNat 8 j, state := .degraded, shadowActive := false })

/-- The spare slice fails (R99, R102): with a slice substituted the bank fails. -/
def spareFails (p b : Nat) (s : State) : State :=
  let x := (s.press p).bank b
  let cause := if x.substituted = 0xFF then 1 else 2
  let s := s.updBank p b fun x =>
    { x with
      spareFailed := true, sliceFailed := tput false x.sliceFailed 128 true, sliceFailures := satInc x.sliceFailures
      shadowActive := false, failing := x.failing.filter (· ≠ 128), state := if x.state = .working then .degraded else x.state }
  let s := raise evSpareSliceFailed (some p) (some b) (s.pressVat p) (leBytes 1 cause) s
  if x.substituted = 0xFF then s else bankFails p b s

/-- The foreground calibration sets the slice trims of a press (R100). -/
def setTrims (p : Nat) (trims : List (Plate × Fin 129 × BitVec 16)) (s : State) : State :=
  forL trims (fun e s => s.updBank p e.1 fun b => { b with sliceTrim := tput 0 b.sliceTrim e.2.1 e.2.2 }) s

/-- The slices of a bank that fail a foreground calibration (R100 step 3). -/
def calFailures (fails : List (Plate × Fin 129)) (b : Nat) : List Nat :=
  ((fails.filter fun e => decide (e.1.val = b)).map fun e => e.2.val).dedup

/-- A bank would need the fallback converter: two of its slices have failed (R104, R454). -/
def needsFallback (r : PressRec) (fails : List (Plate × Fin 129)) (b : Nat) : Bool :=
  decide (2 ≤ (((r.bank b).sliceFailed.map Prod.fst) ++ calFailures fails b).dedup.length)

/-- A press fails its foreground calibration: more than one bank would need the fallback converter (R454). -/
def calFails (r : PressRec) (fails : List (Plate × Fin 129)) : Bool :=
  decide (1 < ((List.range 17).filter (needsFallback r fails)).length)

/-- The slices that a foreground calibration finds outside the trim range fail (R100 step 3). -/
def failSlices (p : Nat) (fails : List (Plate × Fin 129)) (s : State) : State :=
  forN 17 (fun b t => forL (calFailures fails b) (fun j t => if j < 128 then sliceFails p b j 3 t else spareFails p b t) t) s

/-- FALLBACK_CHECK_DONE: the fallback converter has been checked at the five levels, for a bank to be handed over or while
it is ACTIVE (R104 steps 2 to 4, R106). A bank whose plate has become the refresh target meanwhile is parked (R105). -/
def execFallbackCheckDone (p : Press) (errs : List Int) (s : State) : Out :=
  let good := errs.all fun e => decide (-8 ≤ e ∧ e ≤ 8)
  match (s.press p).fallbackFor with
  | none =>
    match (s.press p).fallbackBank with
    | none => .next s
    | some b => if good then .next s else .next (converterFails p b (s.updPress p fun r => { r with fallbackBank := none }))
  | some b =>
    let s := s.updPress p fun r => { r with fallbackFor := none }
    if !good then .next (converterFails p b s)
    else if (s.press p).refreshTarget = b then .next (parkBank p b s)
    else
      let s := s.updPress p fun r =>
        { r with
          fallback := .active, fallbackBank := some b
          rotation := if r.rotation = .running then .priority else r.rotation }
      let s := s.updBank p b fun x => { x with state := .fallback, parkSteps := 0 }
      .next (raise evBankFallback (some p) (some b) (s.pressVat p) (leBytes 1 (failedCount ((s.press p).bank b)))
        (reclass p s))
where
  /-- The converter fails, before it takes bank b over or while it serves it, and the bank is LOST (R104, R106). -/
  converterFails (p b : Nat) (s : State) : State :=
    let s := s.updPress p fun r => { r with fallback := .failed }
    loseBank p b 2 (raise evFallbackFailed (some p) (some b) (s.pressVat p) ((lpad 0 5 errs).flatMap fun e => leInt 2 e) s)

/-- SPARE_SELF_CHECK: in the frame that is due for it the spare slice converts the five reference levels; a level beyond
8 LSBs on two consecutive checks fails it (R99). -/
def execSpareSelfCheck (p : Press) (b : Plate) (errs : List Int) (s : State) : Out :=
  let x := (s.press p).bank b
  if !x.checkDue ∨ x.spareFailed ∨ !(x.state = .working ∨ x.state = .degraded) ∨ !(s.press p).clocked then .next s
  else
    let bad := (List.range 5).filter fun i => decide (lget 0 errs i < -8 ∨ 8 < lget 0 errs i)
    let s := s.updBank p b fun x => { x with badLevels := bad, checkDue := false }
    if bad.any fun i => x.badLevels.contains i then .next (spareFails p b s) else .next s

/-! ## Background calibration (R97, R98, R139, R140) -/

/-- The trims of R109: gain and offset. -/
def unpackTrim (w : BitVec 16) : Int × Int := (sext 8 (field w.toNat 15 8), sext 8 (field w.toNat 7 0))
/-- The element of SliceTrim from its trims (R109). -/
def packTrim (t : Int × Int) : BitVec 16 := BitVec.ofNat 16 (toBits 8 t.1 * 256 + toBits 8 t.2)

/-- The step that R98 calls for, of gain and of offset, from the sums of a dwell. -/
def trimStep (x : Bank) : Int × Int :=
  let gain : Int := if x.dwellSquare < x.dwellProd * 4096 then -1 else if x.dwellProd * 4096 < -x.dwellSquare then 1 else 0
  let offset : Int := if (x.dwellN : Int) < 2 * x.dwellDiff then -1 else if 2 * x.dwellDiff < -(x.dwellN : Int) then 1 else 0
  (gain, offset)

/-- A calibration round completes (R97, R139, R140). -/
def endRound (p b : Nat) (s : State) : State :=
  let x := (s.press p).bank b
  let s := s.updBank p b fun x =>
    { x with
      rounds := satInc x.rounds
      convMse := BitVec.ofNat 32 (min (x.roundDiff2 * 256 / max 1 x.roundN) (2 ^ 32 - 1))
      convSignal := BitVec.ofNat 32 (min (x.roundSquare / max 1 x.roundN) (2 ^ 32 - 1))
      roundN := 0, roundDiff2 := 0, roundSquare := 0 }
  let ratio := s.settings.coarseRatio.toNat
  if x.roundSquare < ratio * x.roundDiff2 then
    raise evScaleCoarse (some p) (some b) (s.pressVat p)
      (leBytes 1 ((s.press p).eventLog b) ++ [0] ++ leBytes 2 ratio)
      (s.updBank p b fun x => { x with coarseRounds := satInc x.coarseRounds })
  else s

/-- DWELL_END: the spare slice has counted ShadowDwell conversions of one column (R97, R98, R101). -/
def execDwellEnd (p : Press) (b : Plate) (s : State) : Out :=
  let x := (s.press p).bank b
  if !x.shadowActive ∨ x.dwellN < x.dwellGoal ∨ x.dwellN = 0 then .next s
  else
    let col := x.shadowColumn.toNat
    let j := col / 4
    let now := unpackTrim ((tget none x.pendingTrim j).getD (tget 0 x.sliceTrim j))
    let step := trimStep x
    let new := (now.1 + step.1, now.2 + step.2)
    let goal := (s.press p).cfg.shadowDwell.toNat
    let s := s.updBank p b fun x =>
      { x with
        dwellN := 0, dwellDiff := 0, dwellProd := 0, dwellSquare := 0, dwellGoal := goal, mismatches := 0
        shadowColumn := BitVec.ofNat 16 ((col + 1) % 512) }
    let s := if col = 511 then endRound p b s else s
    if fitsTrim new then
      .next (if step = (0, 0) then s else s.updBank p b fun x => { x with pendingTrim := tput none x.pendingTrim j (some (packTrim new)) })
    else .next (sliceFails p b j 1 s)
where
  /-- Both trims lie in their range (R109). -/
  fitsTrim (t : Int × Int) : Bool := decide (-128 ≤ t.1 ∧ t.1 ≤ 127 ∧ -128 ≤ t.2 ∧ t.2 ≤ 127)

/-! ## Power-down and windows -/

/-- A RUNNING job has in its plate set the plate that a bank senses or drives (R96). -/
def bankInvolved (r : PressRec) (b : Nat) : Bool :=
  r.jobs.any fun e =>
    decide (e.2.state = .running ∧ e.2.desc.opcode = opPlate) &&
      ((jobPlates r e.2.desc).contains b || (jobPlates r e.2.desc).contains (r.downPlate b))

/-- BANK_POWER_DOWN: a bank idle for more than 64 CCLK cycles that no running job involves powers down (R96). A
frame, a proof pass or the verify of an engraving that needs it wakes it. -/
def execBankPowerDown (p : Press) (b : Plate) (s : State) : Out :=
  let r := s.press p
  if r.cfg.powerDownEnable ∧ !bankInvolved r b then .next (s.updBank p b fun x => { x with poweredDown := true })
  else .next s

/-- A bank leaves power-down for a deposit or a conversion that it has to make; its frame is then not idle (R96, R423). -/
def wakeBank (p b : Nat) (s : State) : State := s.updBank p b fun x => { x with poweredDown := false, idleFrame := false }

/-- SAT_WINDOW_END: a saturation window of SatWindow conversions ends (R137), under the entries as they were when it began
(R146). -/
def execSatWindowEnd (p : Press) (b : Plate) (s : State) : Out :=
  let x := (s.press p).bank b
  if x.windowConversions < x.windowGoal ∨ x.windowConversions = 0 then .next s
  else
    let t := x.windowLimit
    let s := s.updBank p b fun x => { x with clipCount := 0, windowConversions := 0 }
    if t < x.clipCount.toNat then
      .next (raise evSatDrift (some p) (some b) (s.pressVat p)
        (leBytes 1 ((s.press p).eventLog b) ++ [0, 0, 0] ++ leBytes 4 t)
        (s.updBank p b fun x => { x with satDriftWindows := satInc x.satDriftWindows }))
    else .next s

end Sys2Proof.Machine
end

