-- ==== Sys2Proof/Machine/Quant.lean ====
section
/-! DEFINITION. Quant.lean: the drive quantiser (04 R112 to R116, R130, R133) and the token formats of the output stage
(R126). -/

namespace Sys2Proof.Machine

/-- The value of an input element: FP16 or BF16 by format 0, 1 (R113). -/
def elemVal (fmt : Nat) (w : BitVec 16) : FVal := decodeF (if fmt = 1 then bf16 else fp16) w.toNat

/-- A stored code of w bits after the clamp of R113: the most negative code counts as the one above it. -/
def storedCode (w v : Nat) : Int :=
  let c := sext w v
  if c = -(2 ^ (w - 1) : Nat) then c + 1 else c

/-- Q of R114. -/
def qOf (int4 : Bool) : Nat := if int4 then 7 else 127

/-- m of R114: the largest magnitude among the elements that enter it. -/
def quantMax (fmt : Nat) (els : List (BitVec 16)) (skip : Nat → Bool) : Frac :=
  maxFrac (((List.range els.length).zip els).filterMap fun e => if skip e.1 then none else some (magOf (elemVal fmt e.2)))

/-- The token scale s_a of R114 from m and α, as an FP16 word; a value beyond the range becomes the largest finite one. -/
def tokenScale (m : Frac) (alpha : BitVec 16) (q : Nat) : BitVec 16 :=
  let lim :=
    match h16 alpha with
    | .val a _ => if a.lt m then a else m
    | _ => m
  toH16 (fv (lim.mul ⟨1, q⟩))

/-- q_k of R114 for one element: the scale is exact. -/
def quantCode (scale : Frac) (z : Int) (q : Nat) (v : FVal) : Int :=
  let lim := fun (c : Int) => clampI (-(q : Int)) q c
  match finOf v with
  | none => lim z
  | some x => if scale.num = 0 then lim z else lim ((x.div scale).rne + z)

/-- A finite FP16 word as a rational; 0 for the rest. -/
def scaleFrac (w : BitVec 16) : Frac :=
  match h16 w with
  | .val q _ => q
  | _ => ⟨0, 1⟩

/-- The codes q_k of the rows of a pass before the factor 18 (R114, R130): row r takes code 0 when it carries no input
element or is an outlier row. scale is 2^k s_a; fmt 2 is stored codes. -/
def formCodes (els : List (BitVec 16)) (fmt rows : Nat) (skip : Nat → Bool) (scale : Frac) (z : Int) (int4 : Bool) :
    List Int :=
  let q := qOf int4
  (List.range rows).map fun r =>
    if els.length ≤ r ∨ skip r then 0
    else
      let w := lget 0 els r
      if fmt = 2 then storedCode (if int4 then 4 else 8) w.toNat else quantCode scale z q (elemVal fmt w)

/-- The row code deposited for a code (R111, R114). -/
def rowCode (int4 : Bool) (q : Int) : Int := if int4 then 18 * q else q

/-- The scale step of a clip repeat (R133): the smallest k from 1 with 2^k s_a Q at least m, limited. -/
def scaleStep (m scale : Frac) (q : Nat) (limit : Nat) : Nat :=
  (((List.range limit).map fun (i : Nat) => i + 1).find? fun (k : Nat) => m.le ((scale.mul (pow2 (k : Int))).mul ⟨(q : Int), 1⟩)).getD limit

/-! ## Output formats (R126) -/

/-- The bytes of one token's results in OutputFormat 1 to 5 (R126, R226). -/
def tokenBytes (fmt : Nat) (ys : List FVal) : List Byte :=
  match fmt with
  | 1 => ys.flatMap fun y => leBytes 2 (encodeSat fp16 y)
  | 2 => ys.flatMap fun y => leBytes 2 (encodeF bf16 y)
  | 3 =>
    let so := toH16 (fv ((maxFrac (ys.map magOf)).mul ⟨1, 127⟩))
    let q := scaleFrac so
    ys.map (fun y =>
      match finOf y with
      | none => (0 : Byte)
      | some x => if q.num = 0 then 0 else BitVec.ofInt 8 (clampI (-127) 127 (x.div q).rne)) ++ leBytes 2 so.toNat
  | 4 => ys.map fun y => BitVec.ofNat 8 (encodeF e4m3 y)
  | 5 => ys.map fun y => BitVec.ofNat 8 (encodeSat e5m2 y)
  | _ => []

end Sys2Proof.Machine
end

