-- ==== Sys2Proof/Machine/Analogue.lean ====
section
/-! DEFINITION. Analogue.lean: a plate's charges and their conversion (02 R46 to R50, R69 to R73; 03 R90, R94, R95, R97,
R101, R103), with the analogue error as a free value within the bounds of R72. -/

namespace Sys2Proof.Machine

/-- Output resolution in bits (R82, R91). -/
def resBits (d : Descriptor) : Nat := 6 + 2 * d.resolution.toNat

/-! ## Charges -/

/-- Sums of one column: a (t+ - t-), a (16 + t+), a (16 + t-) over the rows, with the target codes t of R42. -/
structure Charge where
  diff : Int := 0
  pos : Int := 0
  neg : Int := 0
  deriving DecidableEq, Repr

/-- Two charges on joined lines (R69). -/
def Charge.plus (a b : Charge) : Charge := ⟨a.diff + b.diff, a.pos + b.pos, a.neg + b.neg⟩

/-- One cell pair with weight code c under row code a (R44, R48). -/
def addCell (cb : List Byte) (a : Int) (c : Nat) (x : Charge) : Charge :=
  let tp : Int := (lget 0 cb (2 * c)).toNat
  let tm : Int := (lget 0 cb (2 * c + 1)).toNat
  ⟨x.diff + a * (tp - tm), x.pos + a * (16 + tp), x.neg + a * (16 + tm)⟩

/-- One row of weight codes: column n in byte n >> 1, the low nibble for even n (R307). -/
def addRow (cb : List Byte) (a : Int) : List Byte → List Charge → List Charge
  | b :: bs, x :: y :: r => addCell cb a (b.toNat % 16) x :: addCell cb a (b.toNat / 16) y :: addRow cb a bs r
  | _, r => r

/-- All rows of a plate. -/
def addRows (cb : List Byte) : List Int → List Byte → List Charge → List Charge
  | [], _, acc => acc
  | a :: as, bytes, acc => addRows cb as (bytes.drop 256) (if a = 0 then acc else addRow cb a (bytes.take 256) acc)

/-- The charges of the 512 active columns under a pass's row codes (R48); pulped cells stand at target 0 (R41). -/
def plateCharges (s : State) (q : PlateRec) (codes : List Int) : List Charge :=
  if q.codes = [] then List.replicate 512 ⟨0, 16 * lsum codes, 16 * lsum codes⟩
  else addRows (codebookOf s q) codes q.codes (List.replicate 512 {})

/-- QHR(g) in fC (R50). -/
def headroom (g : Nat) : Nat := min (24576 / 2 ^ g) 6400

/-- The common-mode detector trips on a column at h halvings (R50): on the ideal charges (assumption 22). -/
def trips (g h times : Nat) (c : Charge) : Bool :=
  let lim : Int := headroom g * 2540 * 2 ^ h * times
  decide (lim < c.pos.natAbs ∨ lim < c.neg.natAbs)

/-! ## Proof columns and cells (R40, R41, R51, R54) -/

/-- The fixed targets of the eight proof columns (R54). -/
def proofTargets : List (Nat × Nat) := [(225, 0), (225, 0), (0, 225), (0, 225), (105, 0), (105, 0), (15, 0), (240, 240)]

/-- GPlusTarget - GMinusTarget of proof column j: 240 L_j (R54). -/
def proofDelta (j : Nat) : Int := ((lget (0, 0) proofTargets j).1 : Int) - (lget (0, 0) proofTargets j).2

/-- The active row or column that a spare replaces (R77). -/
def replacedBy (m : Tab (BitVec 16)) (spare : Nat) : Option Nat :=
  let w := tget 0 m spare
  if nbit w.toNat 15 then some (field w.toNat 8 0) else none

/-- The spare that replaces an active row or column, in segments of size k (R51). -/
def spareOf (m : Tab (BitVec 16)) (k i : Nat) : Option Nat :=
  if replacedBy m (i / k) = some i then some (i / k) else none

/-- The active row or column whose targets a line of cells carries: itself unless a spare replaces it, or the one that a
spare replaces (R51, R320). -/
def servedLine (m : Tab (BitVec 16)) (k i : Nat) : Option Nat :=
  if i < 512 then (if (spareOf m k i).isNone then some i else none) else replacedBy m (i - 512)

/-- The targets of the cell pair on row r, 0 to 519, and column c of a plate: active columns 0 to 511, spare columns 512 to
527, proof columns 528 to 535 (R40, R44, R51, R54). A pulp leaves the proof columns as they are; every cell of the others
that no content is engraved to stands at target 0. -/
def cellTargets (s : State) (y : PlateRec) (r c : Nat) : Nat × Nat :=
  if 528 ≤ c then lget (0, 0) proofTargets (c - 528)
  else if y.codes = [] then (0, 0)
  else
    match servedLine y.rowMap 64 r, servedLine y.colMap 32 c with
    | some a, some n =>
      let w := (lget 0 y.codes (256 * a + n / 2)).toNat / (if n % 2 = 0 then 1 else 16) % 16
      ((lget 0 (codebookOf s y) (2 * w)).toNat, (lget 0 (codebookOf s y) (2 * w + 1)).toNat)
    | _, _ => (0, 0)

/-! ## Conversion -/

/-- Round to nearest, halves away from zero. -/
def Frac.rhaz (a : Frac) : Int := rhazDiv a.num a.den

/-- The n-bit code and Clip of a ratio (R90). -/
def convert (n : Nat) (x : Frac) : Int × Bool :=
  let top : Int := (2 ^ (n - 1) : Nat)
  if (Frac.ofInt 1).lt x.abs then (if 0 < x.num then top - 1 else -top, true)
  else (clampI (-top) (top - 1) (x.mul (Frac.ofInt top)).rhaz, false)

/-- The code of the fallback converter: 12 bits, rounded to the resolution (R103). -/
def convertFallback (n : Nat) (x : Frac) : Int × Bool :=
  let (c, clip) := convert 12 x
  let top : Int := (2 ^ (n - 1) : Nat)
  (clampI (-top) (top - 1) (rhazDiv c (2 ^ (12 - n))), clip)

/-- The layout of a result entry (R91). -/
structure Entry where
  clip : Bool
  trip : Bool
  couchHalf : Bool := false
  tag : Nat := 0
  column : Nat := 0
  resolution : Nat := 0
  code : Int
  deriving DecidableEq, Repr

/-- The 32-bit word of a result entry (R91). -/
def packEntry (e : Entry) : BitVec 32 :=
  BitVec.ofNat 32 (bitOf e.clip * 2 ^ 31 + bitOf e.trip * 2 ^ 30 + bitOf e.couchHalf * 2 ^ 29 + e.tag % 16 * 2 ^ 25 +
    e.column % 512 * 2 ^ 16 + e.resolution % 4 * 2 ^ 14 + toBits 12 e.code)

/-- A result entry from its word (R91). -/
def unpackEntry (w : BitVec 32) : Entry :=
  let n := w.toNat
  { clip := nbit n 31, trip := nbit n 30, couchHalf := nbit n 29, tag := field n 28 25, column := field n 24 16
    resolution := field n 15 14, code := sext 12 (field n 11 0) }

/-- The element of LastCodes that an entry leaves (R107). -/
def lastCode (w : BitVec 32) : BitVec 16 :=
  let e := unpackEntry w
  BitVec.ofNat 16 (bitOf e.clip * 2 ^ 15 + bitOf e.trip * 2 ^ 14 + toBits 12 e.code)

/-- A pass's entries in the order in which a bank's four sense slots deliver them: column 4j + c in slot c (R92). -/
def slotOrder {α : Type} (d : α) (l : List α) : List α :=
  (List.range 4).flatMap fun c => (List.range 128).map fun j => lget d l (4 * j + c)

/-- The entry of column n among entries in slot order; the code 0 beyond them. -/
def entryOf (l : List (BitVec 32)) (n : Nat) : Entry := unpackEntry (lget 0 l (n % 4 * 128 + n / 4))

/-- The worst-case error of a converted result in 1/10,000 of full scale, by the output resolution and the distance of a
press's diode reading from the nearest trim point (R72). -/
def errorBound (n : Nat) (t : Int) : Int :=
  let near := [-240, 0, 280, 560, 840].any fun (x : Int) => decide ((t - x).natAbs ≤ 80)
  match n with
  | 6 => if near then 420 else 500
  | 8 => if near then 300 else 380
  | _ => if near then 270 else 350

/-- The plate meets the conditions of R73 that do not depend on the pass: LIVE, proof columns in band, not overdue. -/
def inBounds (q : PlateRec) : Bool :=
  decide (q.state = .live) && !q.overdue &&
    (List.range 8).all fun j => decide (field q.columnResult.toNat (2 * j + 1) (2 * j) ≠ 1 ∧ field q.columnResult.toNat (2 * j + 1) (2 * j) ≠ 2)

/-- A ratio with an error of e / 10,000. -/
def withError (x : Frac) (e : Int) : Frac := x.add (mkFrac e 10000)

/-- A failure begins in a slice of a bank, in 128 the spare one (R101): a slice that has not failed already fails from now
on, until R101 or R99 detects it. -/
def failureBegins (j : Option (Fin 129)) (b : Bank) : Bank :=
  match j with
  | some j => if tget false b.sliceFailed j.val || b.failing.contains j.val then b else { b with failing := b.failing ++ [j.val] }
  | none => b

/-- The slice of a bank that serves column n: the spare slice where it is substituted (R102). -/
def servingSlice (b : Bank) (n : Nat) : Nat := if b.substituted.toNat = n / 4 then 128 else n / 4

/-- OffsetTrim and GainTrim of a slice: SliceTrim on top of the trim in force at the bank's position (R98, R420), as gain and
offset. -/
def sliceTrims (b : Bank) (j : Nat) : Int × Int :=
  let t := unpackTrim (tget 0 b.sliceTrim j)
  (t.1 + b.trim.senseGain, t.2 + b.trim.senseOffset)

/-- The ratio that a converter finds for a charge y with a free error in 1/10,000, under a gain trim in 2^-12 and an offset
trim in 1/4 twelve-bit LSB (R98, R420). -/
def sensed (t : Int × Int) (y : Frac) (e : Int) : Frac :=
  ((withError y e).mul (mkFrac (4096 + t.1) 4096)).add (mkFrac t.2 8192)

/-- A ratio limited to R72's bound about the ideal one. -/
def boundRatio (bound : Int) (x z : Frac) : Frac :=
  let lo := withError x (-bound)
  let hi := withError x bound
  if z.lt lo then lo else if hi.lt z then hi else z

/-- A code of n bits limited to R72's bound about the ideal ratio. -/
def boundCode (n : Nat) (bound : Int) (x : Frac) (c : Int) : Int :=
  let top : Int := (2 ^ (n - 1) : Nat)
  let lo := -(((withError x (-bound)).mul (Frac.ofInt (-top))).floor)
  let hi := ((withError x bound).mul (Frac.ofInt top)).floor
  clampI (-top) (top - 1) (clampI lo hi c)

/-- One conversion of a ratio whose ideal value is x and whose charge, with the drive's trim, is y: within R72's bound where
it holds, and where the column clips without one (R72, R73, R90). -/
def convertOne (conv : Frac → Int × Bool) (n : Nat) (bound : Int) (ok : Bool) (t : Int × Int) (x y : Frac) (e : Int) :
    Int × Bool :=
  let z := sensed t y e
  let c := conv (if ok then boundRatio bound x z else z)
  if ok && !c.2 then (boundCode n bound x c.1, false) else c

/-- The conversions of the columns of a plate or of half a couch, with errors from draw d on: the ratios as they are ideally
and with the drive's trims; `trim` gives a column's trims and `bare` those whose slice's failure has begun (R101). -/
def convertAll (conv : Frac → Int × Bool) (n d : Nat) (bound : Int) (ok : Bool) (trim : Nat → Int × Int) (bare : Nat → Bool)
    (xs : List (Frac × Frac)) : List (Int × Bool) :=
  ((List.range xs.length).zip xs).map fun e =>
    convertOne conv n bound (ok && !bare e.1) (trim e.1) e.2.1 e.2.2 (Config.analogueError (d + e.1))

/-- A column of the pass clipped: the other columns take conversions without a bound (R73). -/
def freeCodes (cs free : List (Int × Bool)) : List (Int × Bool) := (cs.zip free).map fun e => if e.1.2 then e.1 else e.2

/-! ## Statistics (R97, R101, R138 to R141) -/

/-- One counted conversion: working code scaled to 12 bits and shadow code (R139). -/
def countShadow (w t : Int) (x : Bank) : Bank :=
  let d := w - t
  { x with
    dwellN := x.dwellN + 1, dwellDiff := x.dwellDiff + d, dwellProd := x.dwellProd + d * t
    dwellSquare := x.dwellSquare + t * t, roundN := x.roundN + 1, roundDiff2 := x.roundDiff2 + d.natAbs * d.natAbs
    roundSquare := x.roundSquare + t.natAbs * t.natAbs }

/-- MaxAbs takes the n-bit codes of columns from number c on, in MAXABS mode (R141): active column n at n, proof column j
at 512 + j. -/
def recordMax (n c : Nat) (codes : List Int) (x : Bank) : Bank :=
  if !x.maxAbsMode then x
  else
    { x with maxAbs := ((List.range codes.length).zip codes).foldl (fun m e =>
        tmod 0 m (c + e.1) fun (v : BitVec 16) => BitVec.ofNat 16 (max v.toNat (e.2.natAbs * 2 ^ (12 - n)))) x.maxAbs }

/-- The spare slice's shadow conversion of a pass (R97): the working code of the shadowed column against its own; x is the
column's ratio, ideal and with the drive's trims. -/
def shadowPass (p b n : Nat) (bound : Int) (ok : Bool) (d : Nat) (x : Frac × Frac) (work : Int × Bool) (s : State) : State :=
  let y := (s.press p).bank b
  if y.state ≠ .working ∨ !y.shadowActive ∨ y.maxAbsMode ∨ y.checkDue ∨ y.dwellGoal ≤ y.dwellN then s
  else
    let t := convertOne (convert 12) 12 bound (ok && !y.failing.contains 128) (sliceTrims y 128) x.1 x.2 (Config.analogueError d)
    if work.2 ∨ t.2 then s
    else
      let w := work.1 * (2 ^ (12 - n) : Nat)
      let far := decide (((s.press p).cfg.sliceFailLimit.toNat : Int) * 2048 < (w - t.1).natAbs * 10000)
      let m := if far then y.mismatches + 1 else 0
      let s := s.updBank p b fun z => { countShadow w t.1 z with mismatches := m }
      if far ∧ (s.press p).cfg.sliceFailCount.toNat ≤ m then
        sliceFails p b (y.shadowColumn.toNat / 4) 2 (s.updBank p b fun z => { z with mismatches := 0 })
      else s

end Sys2Proof.Machine
end

