-- ==== Sys2Proof/Machine/Accum.lean ====
section
/-! DEFINITION. Accum.lean: the exact accumulators (05 R160 to R176, R188, R189), PartialWord (06 R198) and the preload
conversion (R165). -/

namespace Sys2Proof.Machine

/-- The fields of an AccumulatorWord (R188). -/
structure Acc where
  ovf : Bool := false
  sat : Bool := false
  netSat : Bool := false
  shift : Nat := 0
  contrib : Nat := 0
  carry : Int := 0
  value : Int := 0
  deriving DecidableEq, Repr

/-- The word of an accumulator (R188). -/
def packAcc (a : Acc) : BitVec 64 :=
  BitVec.ofNat 64 (bitOf a.ovf * 2 ^ 63 + bitOf a.sat * 2 ^ 62 + bitOf a.netSat * 2 ^ 61 + a.shift % 4 * 2 ^ 59 +
    min a.contrib 64 * 2 ^ 52 + toBits 10 a.carry * 2 ^ 42 + toBits 32 a.value)

/-- An accumulator from its word (R188). -/
def unpackAcc (w : BitVec 64) : Acc :=
  let n := w.toNat
  { ovf := nbit n 63, sat := nbit n 62, netSat := nbit n 61, shift := field n 60 59, contrib := field n 58 52
    carry := sext 10 (field n 51 42), value := sext 32 (field n 31 0) }

/-- An integer fits w bits of two's complement. -/
def fitsW (w : Nat) (t : Int) : Bool := decide (-(2 ^ (w - 1) : Nat) ≤ t ∧ t < (2 ^ (w - 1) : Nat))

/-- An integer limited to w bits of two's complement. -/
def clampW (w : Nat) (t : Int) : Int := clampI (-(2 ^ (w - 1) : Nat)) ((2 ^ (w - 1) : Nat) - 1) t

/-- An add in 32-bit mode leaves the range of the register (R161). -/
def leaves32 (a : Acc) (v : Int) : Bool := !fitsW 32 (a.value + v)

/-- An add in 32-bit mode (R161); at the limit of overflow repeats it saturates and sets Saturated alone (R176; that Overflow
stays as it is there, DESIGN CHOICE, assumption 98). -/
def accAdd32 (atLimit : Bool) (a : Acc) (v : Int) : Acc :=
  let t := a.value + v
  if fitsW 32 t then { a with value := t }
  else if atLimit then { a with value := clampW 32 t, sat := true }
  else { a with value := sext 32 (toBits 32 t), ovf := true }

/-- An add in 16-bit mode (R162). -/
def accAdd16 (a : Acc) (v : Int) : Acc :=
  let t := a.value + v
  let w := (t + 32768) % 65536 - 32768
  let c := (t - w) / 65536
  let n := a.carry + c
  if a.netSat || decide (n < -512 ∨ 511 < n) then { a with value := w, netSat := true }
  else { a with value := w, carry := n }

/-- A register needs the wrap repeat (R175). -/
def Acc.wraps (a : Acc) : Bool := a.netSat || decide (a.carry ≠ 0)

/-- The fields of a FeltWord (R189). -/
structure Felt where
  valid : Bool := false
  ovf : Bool := false
  sat : Bool := false
  shift : Nat := 0
  sum : Int := 0
  deriving DecidableEq, Repr

/-- The word of a felt entry (R189). -/
def packFelt (f : Felt) : BitVec 64 :=
  BitVec.ofNat 64 (bitOf f.valid * 2 ^ 63 + bitOf f.ovf * 2 ^ 62 + bitOf f.sat * 2 ^ 61 + f.shift % 4 * 2 ^ 59 +
    toBits 48 f.sum)

/-- A felt entry from its word (R189). -/
def unpackFelt (w : BitVec 64) : Felt :=
  let n := w.toNat
  { valid := nbit n 63, ovf := nbit n 62, sat := nbit n 61, shift := field n 60 59, sum := sext 48 (field n 47 0) }

/-- A felt entry as a job reads it: Sum 0 and AccShift 0 when it is not Valid (R172). -/
def readFelt (w : BitVec 64) : Felt := let f := unpackFelt w; if f.valid then f else {}

/-- The felt entry divided to a larger AccShift (R174 step 4). -/
def Felt.toShift (f : Felt) (s : Nat) : Felt :=
  if f.shift < s then { f with sum := rneDiv f.sum (2 ^ (s - f.shift)), shift := s } else f

/-- A value at AccShift s added to a felt entry, aligned (R171); the second component: the add left 48 bits. -/
def feltAdd (f : Felt) (s : Nat) (v : Int) : Felt × Bool :=
  let f := f.toShift s
  let v := if s < f.shift then rneDiv v (2 ^ (f.shift - s)) else v
  let t := f.sum + v
  ({ f with valid := true, sum := t }, !fitsW 48 t)

/-- The felt entry with its Sum limited (R176). -/
def Felt.saturate (f : Felt) : Felt := { f with sum := clampW 48 f.sum, sat := true }

/-- The word of a PartialWord (R198). -/
def packPartial (sat : Bool) (shift : Nat) (sum : Int) : BitVec 64 :=
  BitVec.ofNat 64 (bitOf sat * 2 ^ 63 + shift % 16 * 2 ^ 48 + toBits 48 sum)

/-- The smallest AccShift from s up for which the value fits 48 bits, 16 when there is none up to 15 (R199, R477). -/
def partialShift (v : Int) (s : Nat) : Nat :=
  ((List.range (16 - s)).map (s + ·) |>.find? fun i => fitsW 48 (rneDiv v (2 ^ i))).getD 16

/-- An exact value as a PartialWord with AccShift at least s, and whether it saturated (R198, R199, R477). -/
def partialOf (v : Int) (s : Nat) (sat : Bool) : BitVec 64 × Bool :=
  let i := partialShift v s
  if i < 16 then (packPartial sat i (rneDiv v (2 ^ i)), false)
  else (packPartial true 15 (clampW 48 (rneDiv v (2 ^ 15))), true)

/-- conv of R165: a preload value in units of U. -/
def convPreload (p u : FVal) : Int :=
  match u, p with
  | .val q _, .val x _ => if q.num = 0 then 0 else clampW 32 (x.div q).rne
  | .val q _, .inf n => if q.num = 0 then 0 else if n != decide (q.num < 0) then -(2 ^ 31 : Nat) else (2 ^ 31 : Nat) - 1
  | _, _ => 0

end Sys2Proof.Machine
end

