-- ==== Sys2Proof/Machine/MacroOps.lean ====
section
/-! DEFINITION. MacroOps.lean: the stipple macros' arithmetic (05 R151 to R155, R178, R179) and which job may use a macro
(07 R229, R234). -/

namespace Sys2Proof.Machine

/-! ## Weights -/

/-- The weight of a cell: an INT8 weight, or the low or high nibble of an INT4 pair (R152). -/
def cellWeight (x : MacroRec) (row col : Nat) (half : Option Bool) : Int :=
  let c := (tget 0 x.weights (64 * row + col)).toNat
  match half with
  | none => sext 8 c
  | some hi => sext 4 (if hi then c / 16 else c % 16)

/-- Row group g is INT4 packed. -/
def groupInt4 (x : MacroRec) (g : Nat) : Bool := nbit x.int4.toNat g

/-- The logical row at which row group g begins (R152). -/
def groupBase (x : MacroRec) (g : Nat) : Nat := ((List.range g).map fun i => if groupInt4 x i then 512 else 256).foldl (· + ·) 0

/-- A connected row: its logical number, its row in the array and its half. -/
structure MRow where
  log : Nat
  row : Nat
  half : Option Bool
  deriving DecidableEq, Repr

/-- The rows of a row group, or of one half of an INT4 group, that lie below K (R152, R228). -/
def groupRows (x : MacroRec) (g : Nat) (hi : Bool) (k : Nat) : List MRow :=
  let b := groupBase x g
  (List.range 256).filterMap fun i =>
    let r : MRow :=
      if groupInt4 x g then ⟨b + 2 * i + bitOf hi, 256 * g + i, some hi⟩ else ⟨b + i, 256 * g + i, none⟩
    if r.log < k ∧ (groupInt4 x g ∨ !hi) then some r else none

/-- The row groups, or halves, that are issued for K rows, in order (R151, R152): in 16-bit mode groups 0 and 1, then 2
and 3, are connected together. -/
def issueGroups (x : MacroRec) (k : Nat) (mode16 : Bool) : List (List MRow) :=
  let one := fun (g : Nat) => [groupRows x g false k, groupRows x g true k]
  let two := fun (g : Nat) =>
    [groupRows x g false k ++ groupRows x (g + 1) false k, groupRows x g true k ++ groupRows x (g + 1) true k]
  (if mode16 then two 0 ++ two 2 else one 0 ++ one 1 ++ one 2 ++ one 3).filter fun l => !l.isEmpty

/-- T_b of R154: the sum of the weights of the rows whose input bit b is 1. -/
def bitSum (x : MacroRec) (l : List MRow) (code : Nat → Int) (bits col b : Nat) : Int :=
  lsum (l.map fun r => if nbit (toBits bits (code r.log)) b then cellWeight x r.row col r.half else 0)

/-- What input bit b of a row group adds to a register (R154). -/
def bitTerm (x : MacroRec) (l : List MRow) (code : Nat → Int) (bits col b : Nat) : Int :=
  let t := bitSum x l code bits col b * (2 ^ b : Nat)
  if b + 1 = bits then -t else t

/-- Contributions that a list of connected rows makes (R171): the row groups, or halves of INT4 groups, among them. -/
def contribsOf (l : List MRow) : Nat := ((l.map fun r => (r.row / 256, r.half)).eraseDups).length

/-- The exact sum of a row group for one column (R154). -/
def rowSumOf (x : MacroRec) (l : List MRow) (code : Nat → Int) (col : Nat) : Int :=
  lsum (l.map fun r => code r.log * cellWeight x r.row col r.half)

/-- Row j of segment i of a row group, or of one half of an INT4 group (R155, R178). -/
def segRow (x : MacroRec) (g : Nat) (hi : Bool) (i j : Nat) : MRow :=
  ⟨j, 256 * g + 32 * i + j, if groupInt4 x g then some hi else none⟩

/-! ## Registers (R160, R168, R188) -/

/-- Register i of column c of a macro (R188: column-major). -/
def accKey (c lane : Nat) : Nat := 8 * c + lane

/-- Register i of every column is written. -/
def setLane (lane : Nat) (as : List Acc) (x : MacroRec) : MacroRec :=
  { x with acc := ((List.range 64).zip as).foldl (fun m e => tput 0 m (accKey e.1 lane) (packAcc e.2)) x.acc }

/-- Register i of every column. -/
def laneRegisters (x : MacroRec) (lane : Nat) : List Acc := (List.range 64).map fun c => unpackAcc (tget 0 x.acc (accKey c lane))

/-- The registers of a lane return to 0 with an AccShift (R168). -/
def clearRegisters (lane shift : Nat) (x : MacroRec) : MacroRec := setLane lane (List.replicate 64 { shift := shift }) x

/-- Input bit b of a list of rows is added to the registers of a lane (R154, R161, R162); the last one makes the rows'
contributions (R171). -/
def addBit (mode16 atLimit : Bool) (x : MacroRec) (rows : List MRow) (code : Nat → Int) (bits b : Nat) (old : List Acc) :
    List Acc :=
  let gain := if b + 1 = bits then contribsOf rows else 0
  ((List.range old.length).zip old).map fun e =>
    let t := bitTerm x rows code bits e.1 b
    { (if mode16 then accAdd16 e.2 t else accAdd32 atLimit e.2 t) with contrib := min 64 (e.2.contrib + gain) }

/-- The places of a span in 16-bit mode as those of the same input bits in 32-bit mode, where one row group is connected at
a time (R151, R175). -/
def widenSpan (x : MacroRec) (k bits : Nat) (span : List Nat) : List Nat :=
  let two := issueGroups x k true
  let one := issueGroups x k false
  (List.range (one.length * bits)).filter fun q =>
    span.any fun e => decide (e % bits = q % bits) &&
      (lget [] one (q / bits)).any fun r => (lget [] two (e / bits)).contains r

/-- A drain waits for W = 7 cycles at the end of a reduction: it is accepted in the cycle after the last input bit (R168). -/
def countWait (p w : Nat) (s : State) : State :=
  s.updPress p fun r => { r with drainWaitMax := BitVec.ofNat 8 (max r.drainWaitMax.toNat w) }

/-! ## Order of jobs on a macro (R229, R234) -/

/-- A number restricted to the macros of a set. -/
def macroIn (d : Descriptor) (m : Nat) : Nat :=
  if d.macroSet = 1 then 0 else if d.macroSet = 2 then 1 else m % 2

/-- Where the operand of a unit is formed (R178, R179): macros with the row groups each uses, the first for the outlier
rows or the A stage. The A stage and the B stage run on different macros. -/
def operandPlaces (s : State) (p : Nat) (j : Job) (us : List PUnit) (i : Nat) : List (Nat × List Nat) :=
  match us[i]? with
  | none => []
  | some u =>
    let r := s.press p
    let outliers := field (driveRegs s (r.bank (r.upBank u.even))).control.toNat 23 18
    if unitJoin s p j us i = 0 then []
    else if 0 < outliers then
      let (m, g, _) := Config.outlierPlace u.log j.desc.macroSet.toNat
      [(macroIn j.desc m, [g % 4])]
    else
      let (a, g, _) := Config.adapterPlace u.log j.desc.macroSet.toNat
      let ma := macroIn j.desc a
      [(ma, (List.range 4).filter fun x => decide (groupBase (r.macro' ma) x < u.rows)), (1 - ma, [g % 4])]

/-- The places of the operands of every unit of a PLATE job. -/
def jobPlaces (s : State) (p : Nat) (j : Job) : List (Nat × List Nat) :=
  let us := jobUnits (s.press p) j.desc
  (List.range us.length).flatMap (operandPlaces s p j us)

/-- The macros on which a job's input bits are issued. -/
def usedMacros (s : State) (p : Nat) (j : Job) : List Nat :=
  if j.desc.opcode = opPlate then (List.range 2).filter fun m => (jobPlaces s p j).any fun e => decide (e.1 = m)
  else neededMacros s p j

/-- The logical row at which row group g of macro m begins for a job: in the formats that the loads placed before it, and not
yet ended, give the groups (R152, R229). -/
def loadedBase (r : PressRec) (j : Job) (m g : Nat) : Nat :=
  let loads := (earlier r j).filter fun e => decide (e.2.desc.opcode = opMacroLoad) && (jobMacros e.2.desc).contains m
  ((List.range g).map fun i =>
    256 + 256 * bitOf (match argMin (fun e => 2 ^ 64 - e.2.order) (loads.filter fun e => nbit e.2.desc.n.toNat i) with
      | some e => nbit e.2.desc.n.toNat (4 + i)
      | none => groupInt4 (r.macro' m) i)).foldl (· + ·) 0

/-- The row groups of macro m that a job uses. -/
def jobGroups (s : State) (p : Nat) (j : Job) (m : Nat) : List Nat :=
  let d := j.desc
  if d.opcode = opMacroLoad then (if (jobMacros d).contains m then maskGroups (d.n.toNat % 16) else [])
  else if d.opcode = opPlate then ((jobPlaces s p j).filter fun e => decide (e.1 = m)).flatMap Prod.snd
  else if !(neededMacros s p j).contains m then []
  else if d.opcode = opStipple then
    (List.range 4).filter fun g => decide (loadedBase (s.press p) j m g < j.k)
  else []

/-- The job still issues input bits on macro m: a STIPPLE job with tokens to issue, a plate job that joins until it
ends. -/
def issuesBits (s : State) (p : Nat) (j : Job) : Bool :=
  !atBarrier s p j && decide (j.state ≠ .posting) &&
    (decide (j.desc.opcode = opPlate) ||
      (decide (j.desc.opcode = opStipple) &&
        (decide (j.next < j.m) || !j.batch.isEmpty || (j.desc.claimed && !j.exhausted))))

/-- An earlier job keeps job j from macro m: it still issues bits there, or it loads a group that j uses. -/
def macroTaken (s : State) (p : Nat) (j : Job) (m : Nat) : Bool :=
  (earlier (s.press p) j).any fun e =>
    (issuesBits s p e.2 && (usedMacros s p e.2).contains m) ||
      (decide (e.2.desc.opcode = opMacroLoad) && (jobGroups s p e.2 m).any fun g => (jobGroups s p j m).contains g)

/-- A macro that a job needs is not ready: reloading, a group that the job uses loading, or taken by an earlier job. -/
def macroWaits (s : State) (p : Nat) (j : Job) (m : Nat) : Bool :=
  let x := (s.press p).macro' m
  decide (x.state = .reloading) || (jobGroups s p j m).any (fun g => nbit x.loading.toNat g) || macroTaken s p j m

/-- A macro becomes BUSY for a job's work (R187). -/
def busyMacro (m : Nat) (segmented mode16 : Bool) (r : PressRec) : PressRec :=
  r.updMacro m fun x =>
    { x with state := if x.state = .idle then .busy else x.state, segmented := segmented, mode16 := mode16 }

end Sys2Proof.Machine
end

