-- ==== Sys2Proof/Machine/Power.lean ====
section
/-! DEFINITION. Power.lean: admission of work against the allowances of the running window (01 R37, R38; 13 R417, R418). -/

namespace Sys2Proof.Machine

/-- A kind of work that the energy table prices (R417): a plate pass by resolution and couch, a stipple input bit by mode,
one vector lane operation, a bite, a pulse. -/
inductive Work
  | pass (resolution : Nat) (couch : Couch)
  | bit (mode16 : Bool)
  | lane (op : Nat)
  | bite
  | pulse
  deriving DecidableEq, Repr

/-- The class of R37 that a kind of work belongs to: 0 analogue, 1 digital, 2 engraving. -/
def Work.cls : Work → Nat
  | .pass _ _ => 0
  | .bit _ => 1
  | .lane _ => 1
  | .bite => 2
  | .pulse => 2

/-- The price of one piece of work on a press at its reading in picojoules, by the energy table in force (R417, R418, R457
step 3); the two values of R37 are those of a single plate at 85 °C. -/
def price (s : State) (p : Nat) (w : Work) : Nat :=
  let t := (s.press p).thermal.reading
  let table := fun (kind a b : Nat) => Config.energyTable (s.gov.table.getD []) kind a b t
  match w with
  | .pass r c =>
    if t = 680 ∧ c = .none ∧ r = 0 then 12600
    else if t = 680 ∧ c = .none ∧ r = 1 then 13400
    else table 0 r (match c with
      | .none => 0
      | .tall => 1
      | .deep => 2)
  | .bit m => table 1 0 (bitOf m)
  | .lane op => table 2 op 0
  | .bite => table 3 0 0
  | .pulse => table 4 0 0

/-- What is left of a class's allowance (R417); none before the first window (assumption 75). -/
def creditOf (s : State) (cls : Nat) : Option Nat := s.gov.credits.map fun l => lget 0 l cls

/-- n pieces of work are within what is left of their class's allowance. -/
def admits (s : State) (p : Nat) (w : Work) (n : Nat) : Bool :=
  match creditOf s w.cls with
  | none => true
  | some c => decide (n * price s p w ≤ c)

/-- A class is charged an energy for work of a press (R361, R417). -/
def chargeEnergy (p cls e : Nat) (s : State) : State :=
  let v := (s.pressVat p).getD 8
  s.updGov fun g =>
    { g with credits := g.credits.map fun l => lset l cls (lget 0 l cls - e), admitted := tmod 0 g.admitted (9 * cls + v) (· + e) }

/-- The class of a kind of work is charged for n pieces of it. -/
def charge (p : Nat) (w : Work) (n : Nat) (s : State) : State := chargeEnergy p w.cls (n * price s p w) s

/-- Energy of work of a class at a place of press p that was ready and not admitted: it counts as the class's demand for the
running window, once however often it is tried (R417). Places: plate q as q, macro m as 17 + m, the vector engine 19, the
engraver 20. -/
def refuseEnergy (p cls place e : Nat) (s : State) : State :=
  s.updGov fun g => { g with refused := tput 0 g.refused ((cls * 68 + p) * 32 + place) e }

/-- n pieces of work at a place of press p were ready and not admitted (R417). -/
def refuse (p place : Nat) (w : Work) (n : Nat) (s : State) : State := refuseEnergy p w.cls place (n * price s p w) s

/-- The energy in picojoules of a class's work that was ready in the running window and not admitted (R417). -/
def refusedOf (s : State) (cls : Nat) : Nat :=
  ((s.gov.refused.filter fun e => decide (e.1 / 2176 = cls)).map Prod.snd).foldl (· + ·) 0

/-- Work that one window's allowance may not cover is admitted piece by piece over several: what is left of the class goes
to it until the whole is paid, and what is still to be paid counts as demand. The answer says what has been paid and whether
that is all. -/
def payTowards (p cls place need paid : Nat) (s : State) : Nat × Bool × State :=
  match creditOf s cls with
  | none => (0, true, chargeEnergy p cls (need - paid) s)
  | some c =>
    if need - paid ≤ c then (0, true, chargeEnergy p cls (need - paid) s)
    else (paid + c, false, refuseEnergy p cls place (need - paid - c) (chargeEnergy p cls c s))

end Sys2Proof.Machine
end

