-- ==== Sys2Proof/Machine/PlateForm.lean ====
section
/-! DEFINITION. PlateForm.lean: what a pass of the plate path is formed from: a token's input, its stipple operand and its
row codes (04 R112 to R116, R130; 05 R178 to R180; 07 R223 to R226, R231, R234). -/

namespace Sys2Proof.Machine

/-! ## Input of a token (R113, R226, R276) -/

/-- The range of a token's input (R226, R276). -/
def inputRange (s : State) (p : Nat) (j : Job) (t : Nat) : Range :=
  let stride := inStride s p j
  let a := absToken j t
  let per := max 1 (blockTokens stride)
  let off := if j.desc.scaleSource = 2 then a / per * 4096 + a % per * stride else a * stride
  ⟨(daddr j.desc.srcAddress).plus off, stride, .input⟩

/-- The range of a token's stored scale (R226, R276). -/
def scaleRange (s : State) (p : Nat) (j : Job) (t : Nat) : Range :=
  let a := absToken j t
  let per := max 1 (blockTokens (inStride s p j))
  let off := if j.desc.scaleSource = 2 then a / per * 4096 + a % per * 2 else 2 * a
  ⟨(daddr j.desc.scaleAddress).plus off, if j.desc.scaleSource = 0 then 0 else 2, .input⟩

/-- The elements in the bytes of a token: 16-bit words, bytes or nibbles. -/
def elements (bits k : Nat) (l : List Byte) : List (BitVec 16) :=
  if bits = 16 then wordsOf 16 k l
  else if bits = 8 then (lpad 0 k l).map fun b => b.setWidth 16
  else (List.range k).map fun i => BitVec.ofNat 16 ((lget 0 l (i / 2)).toNat / (if i % 2 = 0 then 1 else 16) % 16)

/-- A token's elements and stored scale, and the bytes of package memory that were read. -/
def readToken (s : State) (p : Nat) (j : Job) (t bits : Nat) : Except ReadFail (List (BitVec 16) × BitVec 16) :=
  match readRanges s p j [inputRange s p j t, scaleRange s p j t] with
  | .error e => .error e
  | .ok ls => .ok (elements bits j.k (ls.getD 0 []), BitVec.ofNat 16 (leAt (ls.getD 1 []) 0 2))

/-- ActivityMemory gains the bytes of a token's input (R360). -/
def countInput (p : Nat) (j : Job) (t : Nat) (s : State) : State :=
  let r := inputRange s p j t
  let c := scaleRange s p j t
  countExact j.desc.vat.toNat 3 (pkgBytes r.addr r.len + pkgBytes c.addr c.len) s

/-! ## The stipple operand (R130, R178 to R180) -/

/-- The outlier codes of a token and s_o (R130): values of the outlier rows, in the order of OutlierList, quantised as
COMPUTED input: an infinite value counts as 65,504 and a NaN as 0 (R114). -/
def outlierCodes (dr : DriveRegs) (els : List (BitVec 16)) (fmt : Nat) (stored : BitVec 16) : List Int × BitVec 16 :=
  let width := if dr.wide then 32767 else 127
  let vals := dr.rows.map fun r =>
    if els.length ≤ r then fZero
    else if fmt = 2 then
      (fInt (storedCode (if dr.int4 then 4 else 8) (lget 0 els r).toNat - dr.zero)).mul (h16 stored)
    else elemVal fmt (lget 0 els r)
  let so := toH16 (fv ((maxFrac (vals.map magOf)).mul ⟨1, width⟩))
  let q := scaleFrac so
  (vals.map fun v =>
    match finOf v with
    | none => 0
    | some x => if q.num = 0 then 0 else clampI (-(width : Int)) width (x.div q).rne, so)

/-- The codes q_k of a layer's rows as its adapter reduces them, before the factor 18 (R114, R179). -/
def adapterRows (dr : DriveRegs) (u : PUnit) (els : List (BitVec 16)) (fmt : Nat) (sa : BitVec 16) : List Int :=
  formCodes els fmt u.rows (fun _ => false) (scaleFrac sa) dr.zero dr.int4

/-- The stipple operand of token t of unit i, with the PassTag of its pass, before its first input bit (R130, R178, R179):
that of the unit's outlier rows where it has some, else that of its adapter; none without an enabled JoinOp. The B stage of
an adapter takes the low half of an INT4 group (DESIGN CHOICE; assumption 77). -/
def startOperand (s : State) (p : Nat) (j : Job) (us : List PUnit) (i : Nat) (u : PUnit) (t tag : Nat) (dr : DriveRegs)
    (els : List (BitVec 16)) (fmt : Nat) (sa : BitVec 16) : List OperandRun :=
  if unitJoin s p j us i = 0 then []
  else if 0 < dr.count then
    let (m, g, hi) := Config.outlierPlace u.log j.desc.macroSet.toNat
    let (codes, so) := outlierCodes dr els fmt sa
    [{ token := t, unit := i, tag := tag, stage := .outlier, mac := macroIn j.desc m, group := g % 4, half := hi
       codes := codes, bits := if dr.wide then 16 else 8, scale := so, int4 := dr.int4 }]
  else
    let (m, g, _) := Config.adapterPlace u.log j.desc.macroSet.toNat
    [{ token := t, unit := i, tag := tag, stage := .stageA, mac := macroIn j.desc m, group := g % 4, half := false
       codes := adapterRows dr u els fmt sa, bits := 8, scale := sa, int4 := dr.int4 }]

/-- The stage runs in WHOLE mode, on register 0 of each column; the others in SEGMENTED mode, on all eight (R155, R179). -/
def OperandRun.whole (r : OperandRun) : Bool := decide (r.stage = .stageA)

/-- The stage runs in 16-bit mode: an A stage of a job in that mode, unless a wrap repeat runs it (R155, R175). -/
def OperandRun.mode16 (r : OperandRun) (j : Job) : Bool := r.whole && j.desc.accMode16 && !r.wide

/-- The row groups that a stage issues on its macro, in order (R151, R155, R178, R179). -/
def OperandRun.groups (r : OperandRun) (x : MacroRec) (j : Job) : Nat :=
  if r.whole then (issueGroups x r.codes.length (r.mode16 j)).length else 1

/-- The input bits of a stage that its registers take, in order of issue: place group x bits + b (R154, R168). -/
def OperandRun.places (r : OperandRun) (x : MacroRec) (j : Job) : List Nat := r.span.getD (List.range (r.groups x j * r.bits))

/-- The stage has issued its last input bit. -/
def OperandRun.done (r : OperandRun) (x : MacroRec) (j : Job) : Bool := decide ((r.places x j).length ≤ r.issued)

/-- The stage holds the registers of its macro. -/
def OperandRun.started (r : OperandRun) : Bool := decide (0 < r.issued) || r.span.isSome

/-- The rows connected at a place of a stage on segment i (R151, R155). -/
def OperandRun.rows (r : OperandRun) (x : MacroRec) (j : Job) (i place : Nat) : List MRow :=
  if r.whole then lget [] (issueGroups x r.codes.length (r.mode16 j)) (place / r.bits)
  else (List.range r.codes.length).map (segRow x r.group r.half i)

/-- The operand that a macro works on for a job, with its position: the one that holds its registers, else the oldest that
needs it. -/
def operandOn (j : Job) (m : Nat) : Option (Nat × OperandRun) :=
  let mine := ((List.range j.operandRuns.length).zip j.operandRuns).filter fun e => decide (e.2.mac = m)
  (mine.find? fun e => e.2.started).orElse fun _ => mine.head?

/-- Input bit of a stage at a place: the registers of its macro take its terms, from 0 at its first (R154, R155, R178). -/
def operandBit (r : OperandRun) (j : Job) (x : MacroRec) : MacroRec :=
  let place := lget 0 (r.places x j) r.issued
  (List.range (if r.whole then 1 else 8)).foldl (fun y i =>
    let old := if r.issued = 0 then List.replicate 64 {} else laneRegisters x i
    setLane i (addBit (r.mode16 j) false x (r.rows x j i place) (fun n => lget 0 r.codes n) r.bits (place % r.bits) old) y) x

/-- The registers of a stage's macro return to 0 (R168). -/
def clearOperand (r : OperandRun) (x : MacroRec) : MacroRec :=
  (List.range (if r.whole then 1 else 8)).foldl (fun y i => clearRegisters i 0 y) x

/-- Macro m issues the next input bit of a job's operand, once it is free for the job and the governor admits the bit (R38,
R157, R178, R179, R187, R234). -/
def issueOperand (p : Nat) (k : Slot) (m : Nat) (s : State) : State :=
  match runningJob s p k opPlate with
  | none => s
  | some j =>
    match operandOn j m with
    | none => s
    | some (i, r) =>
      let x := (s.press p).macro' m
      if r.done x j ∨ macroWaits s p j m then s
      else if !admits s p (.bit (r.mode16 j)) 1 then refuse p (17 + m) (.bit (r.mode16 j)) 1 s
      else
        let s := countExact j.desc.vat.toNat 1 1 (charge p (.bit (r.mode16 j)) 1 s)
        let s := s.updPress p fun q => (busyMacro m (!r.whole) (r.mode16 j) q).updMacro m (operandBit r j)
        s.updJob p k fun j => { j with operandRuns := lset j.operandRuns i { r with issued := r.issued + 1 } }

/-- The B stage of an adapter from the sums H of its A stage, on the other macro (R179). -/
def requantise (x : MacroRec) (r : OperandRun) (h : List Int) : OperandRun :=
  let top := lmax (h.map Int.natAbs)
  let e := ((List.range 64).find? fun e => decide (top ≤ 127 * 2 ^ e)).getD 64
  let u : FVal := if r.int4 then fv ⟨1, 18⟩ else fInt 1
  let sj := toH16 ((((h16 r.scale).mul u).mul (h16 x.downScale)).mul (fv (pow2 (e : Int))))
  { r with
    stage := .stageB sj r.codes, mac := 1 - r.mac, codes := h.map fun v => rneDiv v (2 ^ e), wide := false, span := none
    issued := 0 }

/-- B_n of the 512 outputs, from register i of column c for output 64 i + c (R178, R179). -/
def operandSums (x : MacroRec) : List Int := (List.range 8).flatMap fun i => (laneRegisters x i).map Acc.value

/-- The rank of the adapter of a unit, up to 32 (R179). -/
def adapterRank (u : PUnit) (d : Descriptor) : Nat := min 32 (Config.adapterPlace u.log d.macroSet.toNat).2.2

/-- The registers of macro m are drained at the end of a stage of a job's operand (R168): a 16-bit A stage that wraps runs
again in 32-bit mode (R175), another one goes on in the B stage, and the sums of the rest leave for the output stage, under
their PassTag (R178, R179, R181). -/
def drainOperand (p : Nat) (k : Slot) (m : Nat) (s : State) : State :=
  match (s.press p).slot k with
  | none => s
  | some j =>
    match operandOn j m with
    | none => s
    | some (i, r) =>
      let x := (s.press p).macro' m
      if !r.done x j then s
      else
        let s := (countWait p 7 s).updMacro p m (clearOperand r)
        let rest := fun (j : Job) => { j with operandRuns := j.operandRuns.eraseIdx i }
        let arrives := fun (sj : BitVec 16) => s.updJob p k fun j => { rest j with operands := j.operands ++
          [{ token := r.token, unit := r.unit, tag := r.tag, sums := operandSums x, scale := sj }] }
        match r.stage with
        | .outlier => arrives r.scale
        | .stageB sj _ => arrives sj
        | .stageA =>
          match (jobUnits (s.press p) j.desc)[r.unit]? with
          | none => s.updJob p k rest
          | some u =>
            let as := (laneRegisters x 0).take (adapterRank u j.desc)
            let r' :=
              if r.mode16 j ∧ as.any Acc.wraps then
                { r with wide := true, issued := 0, span := r.span.map (widenSpan x r.codes.length r.bits) }
              else requantise x r (as.map Acc.value)
            let s := if r'.wide then s.updPress p fun q => { q with wrapRepeats := satInc q.wrapRepeats } else s
            s.updJob p k fun j => { j with operandRuns := lset j.operandRuns i r' }

/-- The span of a stage is repeated from its inputs: the codes of the replay store, for a B stage those of its A stage, which
runs again (R173). -/
def OperandRun.restart (r : OperandRun) : OperandRun :=
  match r.stage with
  | .stageB _ rows => { r with stage := .stageA, mac := 1 - r.mac, codes := rows, wide := false, span := none, issued := 0 }
  | _ => { r with issued := 0 }

/-- The operand of a stage loses what its registers held: the rest of its input bits are what they take (R168). -/
def OperandRun.cleared (r : OperandRun) (x : MacroRec) (j : Job) : OperandRun :=
  { r with span := some ((r.places x j).drop r.issued), issued := 0 }

/-! ## Forming a pass (R112 to R116, R224, R225) -/

/-- The bank upstream of a unit: UE, or the bank upstream of a plate. -/
def PUnit.ue (r : PressRec) (u : PUnit) : Nat := r.upBank u.even

/-- The unit takes a new pass: its drive queues hold fewer than two, its part of the replay store fewer than four (R92,
R132), and no earlier job still has passes to make on its plates (R234). -/
def unitOpen (s : State) (p : Nat) (j : Job) (u : PUnit) : Bool :=
  let r := s.press p
  let ue := r.bank (u.ue r)
  let be := r.bank u.even
  decide (ue.driveQueue.length < 2 ∧ ue.replay.length < 4) && (u.mode = .none || decide (be.driveQueue.length < 2)) &&
    (u.mode ≠ .tall || decide (be.replay.length < 4)) && !u.plates.any (plateTaken s p j)

/-- What the drive quantiser of a unit forms: the pass on its first plate, the row codes of its second with the frame of BE
before which they are not deposited (R93), and the operand that starts. -/
structure Formed where
  pass : Pass
  odd : List Int := []
  oddAt : Nat := 0
  operand : List OperandRun := []
  deriving DecidableEq, Repr

/-- The deposited codes of a unit for scale step k and AccShift s, from the replay store (R114, R133, R174). -/
def depositCodes (dr : DriveRegs) (u : PUnit) (els : List (BitVec 16)) (fmt : Nat) (sa : BitVec 16) (k sh : Nat) :
    List Int :=
  let q := formCodes els fmt u.rows (fun r => dr.rows.contains r) ((scaleFrac sa).mul (pow2 (k : Int))) dr.zero dr.int4
  q.map fun c => rneDiv (rowCode dr.int4 c) (2 ^ sh)

/-- The row codes of the first and of the second plate of a unit (R69, R70). -/
def splitCodes (u : PUnit) (l : List Int) : List Int × List Int :=
  match u.mode with
  | .none => (l, [])
  | .tall => (l.take 512, l.drop 512)
  | .deep => (l, l)

/-- A pass of token t with a PassTag on unit i: m is that of R114, sa the token scale, sh the AccShift it starts with. -/
def formPass (s : State) (p : Nat) (k : Slot) (j : Job) (us : List PUnit) (i : Nat) (u : PUnit) (t tag : Nat)
    (els : List (BitVec 16)) (fmt : Nat) (m : Frac) (sa : BitVec 16) (sh : Nat) : Formed :=
  let r := s.press p
  let dr := driveRegs s (r.bank (u.ue r))
  let dep := depositCodes dr u els fmt sa 0 sh
  let (even, odd) := splitCodes u dep
  { pass :=
      { slot := k, token := t, unit := i, tag := tag, codes := even, rowSum := lsum dep, scale := sa, int4 := dr.int4
        zero := dr.zero, shift := sh, stored := decide (fmt = 2), inputs := els, inFmt := fmt, mNum := m.num.toNat
        mDen := m.den, cmLimit := s.settings.cmRepeatLimit.toNat, clipEnable := s.settings.clipRepeatEnable
        maxStep := s.settings.maxScaleStep.toNat }
    odd := odd, operand := startOperand s p j us i u t tag dr els fmt sa }

/-- A formed pass enters the drive queues and the replay store, and its operand waits for its macro (R92, R116, R132,
R181). -/
def enqueuePass (p : Nat) (k : Slot) (u : PUnit) (f : Formed) (s : State) : State :=
  let r := s.press p
  let odd := { f.pass with codes := f.odd, notBefore := f.oddAt }
  let s := s.updBank p (u.ue r) fun b => { b with driveQueue := b.driveQueue ++ [f.pass], replay := b.replay ++ [f.pass] }
  let s :=
    match u.mode with
    | .none => s
    | .tall => s.updBank p u.even fun b => { b with driveQueue := b.driveQueue ++ [odd], replay := b.replay ++ [f.pass] }
    | .deep => s.updBank p u.even fun b => { b with driveQueue := b.driveQueue ++ [odd] }
  s.updJob p k fun j => { j with operandRuns := j.operandRuns ++ f.operand }

/-- A job's felt entry for token t and output c (R170). -/
def feltIndex (j : Job) (t c : Nat) : Nat := j.desc.feltBase.toNat + t * j.n + c

/-- The AccShift with which a lane of a token starts whose outputs are n from number c on: the largest of its felt entries
under PreloadSelect FELT (R172). -/
def startShift (r : PressRec) (j : Job) (t c n : Nat) : Nat :=
  if j.desc.preloadSelect = 5 then
    lmax ((List.range n).map fun i => (readFelt (tget 0 r.felt (feltIndex j t (c + i)))).shift)
  else 0

/-- The felt entries of a lane that a job has are divided to AccShift sh (R172, R174 step 4). -/
def alignFelt (p : Nat) (j : Job) (t c n sh : Nat) (s : State) : State :=
  s.updPress p fun r =>
    { r with felt := (List.range n).foldl (fun m i =>
        let x := feltIndex j t (c + i)
        let f := unpackFelt (tget 0 m x)
        if f.valid ∧ (j.desc.preloadSelect = 5 ∨ tget false j.feltSeen x) then tput 0 m x (packFelt (f.toShift sh)) else m) r.felt }

/-- The first element of unit i of a SLICED set (R225). -/
def sliceStart (us : List PUnit) (i : Nat) : Nat := ((us.take i).map PUnit.rows).foldl (· + ·) 0

/-- The units that take their input from the token itself: the first, or all of a SLICED set. -/
def entryUnits (us : List PUnit) (sliced : Bool) : List (Nat × PUnit) :=
  let l := (List.range us.length).zip us
  if sliced then l else l.take 1

/-- The format of a plate job's input elements: codes, BF16 or FP16 (R113). -/
def plateFormat (j : Job) : Nat := if j.desc.scaleSource ≠ 0 then 2 else if j.desc.inputBf16 then 1 else 0

/-- The AccShift with which a token starts on an entry unit that is also the last, or is one of a SLICED set (R172). -/
def entryShift (r : PressRec) (j : Job) (us : List PUnit) (t : Nat) : Nat :=
  if j.desc.sliced ∨ us.length = 1 then startShift r j t 0 j.n else 0

/-- The pass of token t of a job on its entry unit i: the token scale is formed over all of the token's elements (R114,
R225). -/
def formEntry (s : State) (p : Nat) (k : Slot) (j : Job) (els : List (BitVec 16)) (stored : BitVec 16) (t tag i : Nat)
    (u : PUnit) : Formed :=
  let r := s.press p
  let us := jobUnits r j.desc
  let fmt := plateFormat j
  let part := fun (i : Nat) (u : PUnit) => (els.drop (if j.desc.sliced then sliceStart us i else 0)).take u.rows
  let regs := fun (u : PUnit) => driveRegs s (r.bank (u.ue r))
  let m := maxFrac ((entryUnits us j.desc.sliced).map fun e =>
    quantMax fmt (part e.1 e.2) fun x => (regs e.2).rows.contains x)
  let first := match us with
    | u :: _ => regs u
    | [] => {}
  let sa := if fmt = 2 then stored else tokenScale m first.alpha (qOf first.int4)
  formPass s p k j us i u t tag (part i u) fmt m sa (entryShift r j us t)

/-- The next token that entry unit i takes (R225). -/
def Job.taken (j : Job) (i : Nat) : Nat := max j.next (lget 0 j.fed i)

/-- A job with n entry units after unit i of them has taken token t. -/
def Job.feeds (j : Job) (n i t : Nat) : Job :=
  let fed := lset ((List.range n).map j.taken) i (t + 1)
  let next := fed.foldl min (t + 1)
  { j with fed := fed, next := next, tag := (j.tag + (next - j.next)) % 16 }

/-- What keeps token t of a running plate job from entering (R231, R238, R267, R276): the chunk has no such token; no new one
starts under SCALE_SKEW or SEAL_FAIL, though one that has started goes on; in OZ4030-compatible order the tokens before it
have to be written; a streamed one needs its tile. -/
def tokenWaits (s : State) (p : Nat) (j : Job) (t : Nat) : Bool :=
  decide (j.m ≤ t ∨ ((j.scaleSkew ∨ j.sealFail) ∧ j.begun ≤ t) ∨ (j.desc.claimed ∧ j.chunk = none) ∨
    (j.desc.oz4030 ∧ t ≠ j.doneTokens)) ||
    (decide (j.desc.scaleSource = 2) && (decide (t ≠ j.next) || !tileReady s p j))

/-- The next token of entry unit i of a running plate job enters it: its pass enters the drive queues (R88, R225, R231,
R234). Its PassTag is the job's next, 0 to 15 in turn (DESIGN CHOICE; assumption 78). A token that cannot be read fails when
every entry unit has come to it. -/
def feedUnit (p : Nat) (k : Slot) (i : Nat) (s : State) : State :=
  match runningJob s p k opPlate with
  | none => s
  | some j =>
    let r := s.press p
    let us := jobUnits r j.desc
    let t := j.taken i
    match us[i]? with
    | none => s
    | some u =>
      if tokenWaits s p j t || !unitOpen s p j u then s
      else
        let bits := if j.desc.scaleSource = 0 then 16 else if driveInt4 s (r.bank (entryBank r j.desc)) then 4 else 8
        match readToken s p j t bits with
        | .error e => if t = j.next then failRead p k t e s else s
        | .ok (els, stored) =>
          let f := formEntry s p k j els stored t ((j.tag + (t - j.next)) % 16) i u
          let s' := if j.begun ≤ t then
              alignFelt p j t 0 j.n (entryShift r j us t) (countInput p j t s)
            else s
          (enqueuePass p k u f s').updJob p k fun j => j.feeds (entryUnits us j.desc.sliced).length i t

/-- Each entry unit of a running plate job takes its next token when its conditions hold (R88, R225, R231, R234). -/
def feedToken (p : Nat) (k : Slot) (s : State) : State :=
  match runningJob s p k opPlate with
  | none => s
  | some j => forN (entryUnits (jobUnits (s.press p) j.desc) j.desc.sliced).length (fun i t => feedUnit p k i t) s

/-- A PLATE job waits in its slot while a plate of its set is out of job service (R58, R65), and while earlier jobs keep
every plate of the set (R234). -/
def platesFree (s : State) (p : Nat) (j : Job) : Bool :=
  let r := s.press p
  !((jobPlates r j.desc).any fun q => (r.plate q).outOfService) && !((jobPlates r j.desc).all (plateTaken s p j))

/-- PLATE: the job in slot k starts when its waits are over, its next tokens enter the set when their conditions hold, and
each macro issues the next input bit of the job's stipple operands (R178, R179, R223 to R227, R231, R234). A job whose macro
is FAILED completes INTERNAL (R184). -/
def execPlate (p : Press) (k : Slot) (s : State) : Out :=
  let s := startJob opPlate platesFree p k s
  match runningJob s p k opPlate with
  | none => .next s
  | some j =>
    if (usedMacros s p j).any fun m => decide (((s.press p).macro' m).state = .failed) then
      .next (stopJob p k (fun j => { j with internal := true }) s)
    else
      .next (forN 2 (fun m t => issueOperand p k m t)
        (feedToken p k (if j.desc.scaleSource = 2 then readChannels p k s else s)))

end Sys2Proof.Machine
end

