-- ==== Sys2Proof/Machine/Frames.lean ====
section
/-! DEFINITION. Frames.lean: a frame of a slice bank, its drive phase and its sense phase (02 R46 to R50, R69, R70; 03 R87
to R99, R103; 04 R137 to R141). -/

namespace Sys2Proof.Machine

/-- The unit of its plate set that a pass runs on, with its job. -/
def passUnit (r : PressRec) (x : Pass) : Option (Job × PUnit) :=
  (r.slot x.slot).bind fun j => (jobUnits r j.desc)[x.unit]?.map fun u => (j, u)

/-! ## The drive phase (R88, R89, R93, R131) -/

/-- Two passes are the same attempt on the plates of a couch (R94). -/
def sameAttempt (x y : Pass) : Bool :=
  decide (x.slot = y.slot ∧ x.token = y.token ∧ x.unit = y.unit ∧ x.h = y.h ∧ x.step = y.step ∧ x.shift = y.shift ∧ x.repeated = y.repeated)

/-- The attempt x of a pass has begun: it is a repeat, or the other plate of its couch holds its deposit. -/
def begun (r : PressRec) (q : Nat) (u : PUnit) (x : Pass) : Bool :=
  x.repeated || (decide (q ≠ u.even) && (r.plate u.even).integrators.any (sameAttempt x))

/-- Downstream plate q of a press takes a deposit of pass x now: an integrator is free (R87, R88), the plate has its content
and is in job service, and no fence or earlier job holds the pass back (R234, R424). An attempt that has begun is finished
on a plate that leaves job service (R65, R67). -/
def takesDeposit (s : State) (p q : Nat) (u : PUnit) (x : Pass) : Bool :=
  let r := s.press p
  let y := r.plate q
  decide (y.integrators.length < 2) && (decide (y.state = .live) || y.inPlace) &&
    (begun r q u x || (!y.outOfService && !y.fenceHold)) && ((r.slot x.slot).any fun j => !plateTaken s p j q)

/-- The pass that a bank deposits next: a repeat whose frame has come, or the head of its queue (R92, R93, R131). -/
def nextDeposit (b : Bank) : Option Pass :=
  match b.repeats.find? fun x => decide (x.notBefore ≤ b.frames) with
  | some x => some x
  | none => b.driveQueue.head?.filter fun x => decide (x.notBefore ≤ b.frames)

/-- Bank b without the pass that it has deposited. -/
def afterDeposit (x : Pass) (b : Bank) : Bank :=
  if x.repeated then { b with repeats := b.repeats.erase x } else { b with driveQueue := b.driveQueue.drop 1 }

/-- The drive phase of bank b: a pass is deposited on the downstream plate (R88, R89). The deposit on the first plate of its
unit is the plate pass that the governor admits, or counts as demand (R38, R417). -/
def drivePhase (p b : Nat) (s : State) : State :=
  let r := s.press p
  match nextDeposit (r.bank b) with
  | none => s
  | some x =>
    let q := r.downPlate b
    match passUnit r x with
    | none => s
    | some (j, u) =>
      let w := Work.pass j.desc.resolution.toNat u.mode
      let first := decide (u.even = q)
      if !takesDeposit s p q u x then s
      else if first ∧ !admits s p w 1 then refuse p q w 1 s
      else
        let s := if first then charge p w 1 s else s
        (s.updBank p b fun z => { afterDeposit x z with idleFrame := false }).updPlate p q fun z =>
          { z with integrators := z.integrators ++ [x], openJob := some j.order }

/-! ## The sense phase (R88, R90 to R95, R97, R103) -/

/-- The ratios that a unit's slices convert: of its full scale, from the charges of its plates (R49, R69, R70), whose drive
references are raised by ge and go in 2^-14 (R420). -/
def unitRatios (u : PUnit) (g h : Nat) (ge go : Int) (ce co : List Charge) : List Frac :=
  let den := 240 * 127 * 512 * 2 ^ h * 16384
  let e := fun (c : Charge) => c.diff * (16384 + ge) * (2 ^ g : Nat)
  let o := fun (c : Charge) => c.diff * (16384 + go) * (2 ^ g : Nat)
  match u.mode with
  | .none => ce.map fun c => mkFrac (e c) den
  | .tall => (ce.zip co).map fun x => mkFrac (e x.1 + o x.2) (den * 2)
  | .deep => (ce.zip co).map fun x => mkFrac (16 * e x.1 + o x.2) (den * 16)

/-- The columns on which the detectors of a unit's even and odd plate trip (R50, R69, R70). -/
def unitTrips (u : PUnit) (g h : Nat) (ce co : List Charge) : List Bool × List Bool :=
  match u.mode with
  | .none => let t := ce.map (trips g h 1); (t, t)
  | .tall => let t := (ce.zip co).map fun e => trips g h 2 (e.1.plus e.2); (t, t)
  | .deep => (ce.map (trips g h 1), co.map (trips g h 1))

/-- The entries of a pass in slot order from its conversions (R91). -/
def passEntries (x : Pass) (d : Descriptor) (couchHalf : Bool) (marks : List Bool) (cs : List (Int × Bool)) :
    List (BitVec 32) :=
  if cs = [] then []
  else
    slotOrder 0 (((List.range cs.length).zip (marks.zip cs)).map fun e =>
      packEntry { clip := e.2.2.2, trip := e.2.1, couchHalf := couchHalf, tag := x.tag, column := e.1
                  resolution := d.resolution.toNat, code := e.2.2.1 })

/-- A plate has been sensed: its integrator is free, and its trips are counted (R75, R87). -/
def sensedPlate (p q : Nat) (tripped : Bool) (s : State) : State :=
  s.updPlate p q fun z =>
    { z with integrators := z.integrators.drop 1, cmTripCount := if tripped then satInc z.cmTripCount else z.cmTripCount }

/-- The conversions of a unit by the slices of bank z, with errors from draw d on, each under the trims of its slice; a
slice whose failure has begun keeps no bound (R94, R98, R101, R102). -/
def sliceCodes (n d : Nat) (bound : Int) (ok : Bool) (z : Bank) (xs : List (Frac × Frac)) : List (Int × Bool) :=
  convertAll (convert n) n d bound ok (fun c => sliceTrims z (servingSlice z c)) (fun c => z.failing.contains (servingSlice z c)) xs

/-- The conversions of a unit by the fallback converter under the trim of the position that it serves (R103, R420). -/
def fallbackCodes (n d : Nat) (bound : Int) (ok : Bool) (t : TrimEntry) (xs : List (Frac × Frac)) : List (Int × Bool) :=
  convertAll (convertFallback n) n d bound ok (fun _ => (t.senseGain, t.senseOffset)) (fun _ => false) xs

/-- The codes of a pass on a unit, and those of BE's slices for a tall couch, from draw d on: within R72's bounds where R73
holds them, and without a bound on the rest of the pass where a column clips (R72, R73, R94, R103). -/
def unitCodes (r : PressRec) (b n d : Nat) (ok : Bool) (u : PUnit) (xs : List (Frac × Frac)) :
    List (Int × Bool) × List (Int × Bool) :=
  let be := r.bank u.even
  let tall := decide (u.mode = .tall)
  let bound := errorBound n r.thermal.reading
  let codes := fun (ok : Bool) =>
    if (r.bank b).state = .fallback then (fallbackCodes n d bound ok (r.bank b).trim xs, [])
    else if tall ∧ be.state = .fallback then (fallbackCodes n d bound ok be.trim xs, [])
    else (sliceCodes n d bound ok (r.bank b) xs, if tall then sliceCodes n (d + 512) bound ok be xs else [])
  let (c1, c2) := codes ok
  if ok && (c1 ++ c2).any Prod.snd then
    let (f1, f2) := codes false
    (freeCodes c1 f1, freeCodes c2 f2)
  else (c1, c2)

/-- The frame of BE before which the next unit of a job's set takes the result of a pass on its odd plate (R93). -/
def oddFrame (r : PressRec) (j : Job) (x : Pass) : Nat :=
  match (jobUnits r j.desc)[x.unit + 1]? with
  | some nu => (r.bank nu.even).frames + 2
  | none => 0

/-- The attempt x is sensed by bank b from unit u: its entries enter the CCLK to PCLK queues, from which the output stage
has taken those of the first two slots, and every counter takes it (R32, R50, R90 to R95, R97, R103, R137 to R141). Both
plates of a couch have one FullScaleShift (R67); where a ream gave them two, the even plate's is used (assumption 79). A
slice's failure may begin with it (R101). -/
def senseUnit (p b : Nat) (j : Job) (u : PUnit) (x y : Pass) (s : State) : State :=
  let d := j.desc
  let fallback := decide (((s.press p).bank b).state = .fallback) ||
    (decide (u.mode = .tall) && decide (((s.press p).bank u.even).state = .fallback))
  let s := if fallback then s else s.updBank p b (failureBegins (Config.sliceOnset (s.free + 1025)))
  let s := if fallback ∨ u.mode ≠ .tall then s else s.updBank p u.even (failureBegins (Config.sliceOnset (s.free + 1026)))
  let r := s.press p
  let n := resBits d
  let pe := r.plate u.even
  let po := r.plate u.odd
  let g := pe.fullScaleShift
  let ce := plateCharges s pe x.codes
  let co := if u.mode = .none then [] else plateCharges s po y.codes
  let (tripE, tripO) := unitTrips u g x.h ce co
  let tripped := tripE.any id || tripO.any id
  let gain := fun (q : Nat) => (r.bank q).trim.readGain
  let xs := (unitRatios u g x.h 0 0 ce co).zip (unitRatios u g x.h (gain u.even) (gain u.odd) ce co)
  let ok := inBounds pe && (u.mode = .none || inBounds po) && !tripped
  let (c1, c2) := unitCodes r b n s.free ok u xs
  let marks := (tripE.zip tripO).map fun e => e.1 || e.2
  let e1 := passEntries x d false marks c1
  let e2 := passEntries x d true marks c2
  let clips := ((c1 ++ c2).filter Prod.snd).length
  let taken := if fallback then 512 else 256
  let x := { x with
    forwardAt := (r.bank b).frames + 2, forwardOddAt := oddFrame r j x, repeatAt := (r.bank (u.ue r)).frames + 2, repeatOddAt := (r.bank u.even).frames + 2 }
  let s' := ({ s with free := s.free + 1027 } : State).updBank p b fun z =>
    let first := decide (z.windowConversions = 0)
    let z := setStatsMode (debugMaxAbs s p) z
    recordMax n 0 (c2.map Prod.fst) (recordMax n 0 (c1.map Prod.fst)
      { z with
        idleFrame := false
        windowGoal := if first then s.settings.satWindow.toNat else z.windowGoal
        windowLimit := if first then s.settings.satThreshold.toNat else z.windowLimit
        passBuffer := some (x, e1.take taken, e2.take taken), resultQueue := e1.drop taken
        lastCodes := tputL 0 [] 0 ((List.range 512).map fun c => lastCode (lget 0 e1 (c % 4 * 128 + c / 4)))
        clipCount := satAdd z.clipCount clips, windowConversions := z.windowConversions + (c1 ++ c2).length })
  let s' := if c2 = [] then s' else s'.updBank p u.even fun z =>
    { z with
      idleFrame := false, resultQueue := e2.drop taken
      lastCodes := tputL 0 [] 0 ((List.range 512).map fun c => lastCode (lget 0 e2 (c % 4 * 128 + c / 4))) }
  let s' := sensedPlate p u.even (tripE.any id) s'
  let s' := if u.mode = .none then s' else sensedPlate p u.odd (tripO.any id) s'
  let col := ((s'.press p).bank b).shadowColumn.toNat
  if fallback then s'
  else
    shadowPass p b n (errorBound 12 r.thermal.reading) (ok && !(c1 ++ c2).any Prod.snd) (s.free + 1024)
      (lget (⟨0, 1⟩, ⟨0, 1⟩) xs col) (lget (0, true) c1 col) s'

/-- The output stage of bank b has room for a pass of unit u: the queues that feed it are empty (R33, R94). -/
def stageFree (r : PressRec) (b : Nat) (u : PUnit) : Bool :=
  (r.bank b).passBuffer.isNone && (r.bank b).resultQueue.isEmpty &&
    (decide (u.mode ≠ .tall) || (r.bank u.even).resultQueue.isEmpty)

/-- The sense phase of bank b: the oldest pass on its plate (R88); in a couch BO senses for both plates, and BE does not
(R94, R95). -/
def sensePhase (p b : Nat) (s : State) : State :=
  let r := s.press p
  match (r.plate b).integrators with
  | [] => s
  | x :: _ =>
    match passUnit r x with
    | none => s
    | some (j, u) =>
      if !stageFree r b u ∨ u.senseBank ≠ b then s
      else if u.mode = .none then senseUnit p b j u x x s
      else
        match (r.plate u.even).integrators with
        | [] => s
        | e :: _ => if sameAttempt e x ∧ bankWorks r u.even then senseUnit p b j u e x s else s

/-- A frame of bank b begins: it is counted, neither phase has run in it (R423), the bank wakes when a running job involves
it or power-down is off (R96), and every SpareCheckInterval frames the spare slice's self-check takes its sense phase
(R99). -/
def beginFrame (p b : Nat) (s : State) : State :=
  let r := s.press p
  let wakes := bankInvolved r b || !r.cfg.powerDownEnable
  s.updBank p b fun z =>
    let due := decide (r.cfg.spareCheckInterval.toNat ≤ z.sinceCheck + 1)
    { z with
      frames := z.frames + 1, idleFrame := true, poweredDown := z.poweredDown && !wakes
      sinceCheck := if due then 0 else z.sinceCheck + 1, checkDue := z.checkDue || due }

/-- BANK_FRAME: one frame of bank b, its drive phase and its sense phase, each when its conditions hold (R88). A press
under a hold senses what has been deposited and deposits nothing (R415). -/
def execBankFrame (p : Press) (b : Plate) (s : State) : Out :=
  if pressCommits s p ∧ bankWorks (s.press p) b then
    let s := beginFrame p b s
    .next (sensePhase p b (if pressIssues s p then drivePhase p b s else s))
  else .next s

end Sys2Proof.Machine
end

