-- ==== Sys2Proof/Machine/PlatePath.lean ====
section
/-! DEFINITION. PlatePath.lean: the repeat decision of a pass (04 R131 to R136), the commit of its contributions (R121, R122;
05 R160 to R166), and what leaves the accumulators: spills, the final drain, and the result (R123 to R126, R477; 05 R167 to
R177; 07 R224, R225). -/

namespace Sys2Proof.Machine

/-! ## The repeat decision (R131 to R136) -/

/-- What R134 decides for an attempt. -/
inductive Verdict
  | cmRepeat
  | clipRepeat (k : Nat)
  | commit (saturated : Bool)
  deriving DecidableEq, Repr

/-- A clip repeat is possible (R133), under ClipRepeatEnable as it was when the pass was formed (R146). -/
def clipPossible (x : Pass) : Bool :=
  let sa := scaleFrac x.scale
  x.clipEnable && !x.stored && decide (sa.num ≠ 0) &&
    (sa.mul ⟨qOf x.int4, 1⟩).lt ⟨x.mNum, x.mDen⟩

/-- The decision of R134, under CmRepeatLimit and MaxScaleStep as they were when the pass was formed (R146). A tall-couch
pass that the fallback converter serves counts one conversion per column (DESIGN CHOICE; assumption 80). -/
def verdict (x : Pass) (es : List Entry) : Verdict :=
  if es.any fun e => e.trip then
    if x.h < x.cmLimit then .cmRepeat else .commit true
  else if es.length < (es.filter fun e => e.clip).length * 64 then
    if !x.clipRepeated ∧ clipPossible x then
      .clipRepeat (scaleStep ⟨x.mNum, x.mDen⟩ (scaleFrac x.scale) (qOf x.int4) x.maxStep)
    else .commit true
  else .commit false

/-- The attempt in bank b's pass buffer has been decided: the buffer is empty. -/
def clearBuffer (p b : Nat) (u : PUnit) (s : State) : State :=
  let s := s.updBank p b fun z => { z with passBuffer := none, resultQueue := [] }
  if u.mode = .tall then s.updBank p u.even fun z => { z with resultQueue := [] } else s

/-- A repeat of a pass is asked for: its codes are re-formed from the replay store, and it is deposited before every other
pass, from the frame on that R131 names (R131, R133, R174; assumption 81). -/
def requeue (p : Nat) (u : PUnit) (x : Pass) (s : State) : State :=
  let r := s.press p
  let dr := driveRegs s (r.bank (u.ue r))
  let dep := depositCodes dr u x.inputs x.inFmt x.scale x.step x.shift
  let (even, odd) := splitCodes u dep
  let y := { x with codes := even, rowSum := lsum dep, repeated := true, saturated := false, notBefore := x.repeatAt }
  let s := s.updBank p (u.ue r) fun z => { z with repeats := z.repeats ++ [y] }
  if u.mode = .none then s
  else s.updBank p u.even fun z => { z with repeats := z.repeats ++ [{ y with codes := odd, notBefore := x.repeatOddAt }] }

/-! ## Contributions (R121, R163 to R166) -/

/-- C_n of R121 for the 512 columns, from the entries of a pass in slot order. -/
def contributions (sr : SenseRegs) (u : PUnit) (g n : Nat) (x : Pass) (e1 e2 : List (BitVec 32)) : List Int :=
  let sh := 18 - n - g + x.h + x.step
  let one := if u.mode = .tall ∧ e2 = [] then sh + 1 else sh
  (List.range 512).map fun c =>
    let a := (entryOf e1 c).code * (2 ^ one : Nat)
    let a2 := if e2 = [] then 0 else (entryOf e2 c).code * (2 ^ sh : Nat)
    a + a2 + (2 ^ x.step : Nat) * (rneDiv (sr.offset c) (2 ^ x.shift) + rneDiv (sr.coef c * x.rowSum) 4096)

/-- The unit U_n of the plate path (R123, R165). -/
def plateUnit (sr : SenseRegs) (x : Pass) (c : Nat) : FVal :=
  (((fv ⟨127, 256⟩).mul (h16 x.scale)).mul (if x.int4 then fv ⟨1, 18⟩ else fInt 1)).mul (h16 (sr.scale c))

/-- The preload ranges of token t (R164, R226): bias, then residual or stored partials. -/
def preloadRanges (j : Job) (t : Nat) : List Range :=
  let a := daddr j.desc.preloadAddress
  let tok := absToken j t
  let n := j.n
  match j.desc.preloadSelect.toNat with
  | 1 => [⟨a, 2 * n, .input⟩, ⟨a, 0, .input⟩]
  | 2 => [⟨a, 0, .input⟩, ⟨a.plus (2 * tok * n), 2 * n, .input⟩]
  | 3 => [⟨a, 2 * n, .input⟩, ⟨a.plus (2 * n + 2 * tok * n), 2 * n, .input⟩]
  | 4 => [⟨a, 0, .input⟩, ⟨a.plus (4 * tok * n), 4 * n, .input⟩]
  | _ => []

/-- P of R164 and R165 for output c, from the bytes read and the unit of the path. -/
def preloadValue (sel : Nat) (bias rest : List Byte) (u : FVal) (c : Nat) : Int :=
  let b := h16 (BitVec.ofNat 16 (leAt bias (2 * c) 2))
  let r := h16 (BitVec.ofNat 16 (leAt rest (2 * c) 2))
  match sel with
  | 1 => convPreload b u
  | 2 => convPreload r u
  | 3 => convPreload (b.add r) u
  | 4 => sext 32 (leAt rest (4 * c) 4)
  | _ => 0

/-- The registers of a lane after the preload and one contribution (R163, R166, R188). -/
def laneRegs (atLimit : Bool) (sh : Nat) (pre cs : List Int) : List Acc :=
  ((List.range cs.length).zip cs).map fun e =>
    { accAdd32 atLimit (accAdd32 atLimit { shift := sh } (rneDiv (lget 0 pre e.1) (2 ^ sh))) e.2 with contrib := 1 }

/-- The adds of a lane's preload and contribution that saturate at the limit (R176). -/
def laneSats (sh : Nat) (pre cs : List Int) : Nat :=
  ((((List.range cs.length).zip cs).map fun e =>
    let v := rneDiv (lget 0 pre e.1) (2 ^ sh)
    bitOf (leaves32 {} v) + bitOf (leaves32 (accAdd32 true {} v) e.2))).foldl (· + ·) 0

/-! ## Felt (R170 to R172, R174) -/

/-- A job accumulates in felt (R170, R172, R225). -/
def usesFelt (j : Job) : Bool := decide (j.desc.feltMode ≠ 0 ∨ j.desc.preloadSelect = 5) || j.desc.sliced

/-- The felt entry as the job finds it: empty unless it continues an earlier sum or has touched the entry (R171, R172). -/
def feltFor (r : PressRec) (j : Job) (t c : Nat) : Felt :=
  if j.desc.preloadSelect = 5 ∨ tget false j.feltSeen (feltIndex j t c) then readFelt (tget 0 r.felt (feltIndex j t c)) else {}

/-- How a register leaves an accumulator: a spill, or the final drain (R171, R172). -/
inductive DrainKind
  | spill
  | final
  deriving DecidableEq, Repr

/-- One output's register as it is drained: the value A, the felt entry as it is left, and whether the 48-bit add left its
range (R171, R172, R176). -/
structure Drained where
  sum : Summed
  entry : Option Felt := none
  left : Bool := false
  deriving DecidableEq, Repr

/-- A register is drained into or with its felt entry (R171, R172); at the limit of overflow repeats the 48-bit add
saturates and sets the entry's Saturated (R176). After a spill, and at the end of a KEEP job, the entry is Valid; after the
final drain of a USE job it is not. The Overflow of an entry is cleared when an add within its range writes it (DESIGN
CHOICE; assumption 82). -/
def drainReg (r : PressRec) (j : Job) (kind : DrainKind) (atLimit : Bool) (t c : Nat) (a : Acc) : Drained :=
  if !usesFelt j then { sum := { value := a.value, shift := a.shift, sat := a.sat } }
  else
    let (g, left) := feltAdd (feltFor r j t c) a.shift a.value
    let h := if left ∧ atLimit then g.saturate else { g with ovf := false }
    { sum := { value := h.sum, shift := h.shift, sat := a.sat || h.sat }
      entry :=
        if kind = .spill ∨ j.desc.feltMode = 2 then some h
        else if j.desc.feltMode = 1 then some { h with valid := false }
        else if left ∧ atLimit then some { unpackFelt (tget 0 r.felt (feltIndex j t c)) with sat := true } else none
      left := left }

/-- The felt entries of a lane take what its outputs from number c on leave in them. -/
def writeFelt (p k : Nat) (j : Job) (t c : Nat) (ds : List Drained) (s : State) : State :=
  let idx := ((List.range ds.length).zip ds).filterMap fun e => e.2.entry.map fun f => (feltIndex j t (c + e.1), f)
  let s := s.updPress p fun r => { r with felt := idx.foldl (fun m e => tput 0 m e.1 (packFelt e.2)) r.felt }
  s.updJob p k fun j => { j with feltSeen := idx.foldl (fun m e => tput false m e.1 true) j.feltSeen }

/-- The entries of a lane whose add left the range take Overflow (R171, R172). -/
def markOverflow (p : Nat) (j : Job) (t c : Nat) (ds : List Drained) (s : State) : State :=
  s.updPress p fun r => { r with felt := ((List.range ds.length).zip ds).foldl (fun m e =>
    if e.2.left then tmod 0 m (feltIndex j t (c + e.1)) fun w => packFelt { unpackFelt w with ovf := true } else m) r.felt }

/-- ACC_SATURATED is raised once per job, its adds are counted, and the job is rescaled (R176). -/
def accSaturates (p k path n : Nat) (s : State) : State :=
  if n = 0 then s
  else
    let once := match (s.press p).slot k with
      | some j => !j.accSaturated
      | none => false
    let s := s.updPress p fun r => { r with accSaturations := satAdd r.accSaturations n }
    let s := s.updJob p k fun j => { j with rescaled := true, accSaturated := true }
    if once then raise evAccSaturated (some p) none (s.pressVat p) (leBytes 1 path) s else s

/-- An overflow repeat begins (R174, R176): it is counted, the job is rescaled, and the lane's felt entries are divided to
the new AccShift. -/
def beginRepeat (p k : Nat) (j : Job) (t c n sh : Nat) (s : State) : State :=
  let s := s.updPress p fun r => { r with overflowRepeats := satInc r.overflowRepeats }
  alignFelt p j t c n sh (s.updJob p k fun j => { j with rescaled := true })

/-! ## The result (R123 to R126, R177, R477) -/

/-- y_n of R123. -/
def outputValue (sr : SenseRegs) (x : Pass) (c : Nat) (v : Summed) : FVal :=
  rneSat16 ((fInt (v.value * (2 ^ v.shift : Nat))).mul (plateUnit sr x c))

/-- A stipple operand as it joins: JoinOp, its sums, s_j and the sense registers whose JoinScale applies. -/
structure Join where
  op : Nat
  sums : List Int
  scale : BitVec 16
  regs : SenseRegs
  deriving DecidableEq, Repr

/-- y^s_n of R124. -/
def joinValue (jn : Join) (c : Nat) : FVal :=
  rneSat16 (((fInt (lget 0 jn.sums c)).mul (h16 jn.scale)).mul (h16 (jn.regs.join c)))

/-- The join of R124, with a multiply also where the operand is the sums of outlier rows, for which R177 lists add alone
(DESIGN CHOICE; assumption 83). -/
def applyJoin (y : FVal) (jn : Join) (c : Nat) : FVal :=
  if jn.op = 1 then rneSat16 (y.add (joinValue jn c)) else if jn.op = 2 then rneSat16 (y.mul (joinValue jn c)) else y

/-- The join in accumulator units of R477; a NaN factor leaves the product open: a free value. -/
def applyJoinExact (u : FVal) (draw : Nat) (v : Int) (jn : Join) (c : Nat) : Int :=
  if jn.op = 1 then v + convPreload (joinValue jn c) u
  else if jn.op = 2 then
    match joinValue jn c with
    | .val q _ => ((Frac.ofInt v).mul q).rne
    | _ => Config.analogueError (draw + c)
  else v

/-- Every value of one token on the last unit, in OutputFormat 1 to 6 (R123 to R126, R477), and whether one saturated. -/
def tokenOutput (s : State) (set : TableSet) (j : Job) (sr : SenseRegs) (x : Pass) (joins : List Join)
    (vs : List Summed) : List Byte × Bool :=
  let fmt := j.desc.outputFormat.toNat
  let idx := (List.range vs.length).zip vs
  if fmt = 6 then
    let ws := idx.map fun e =>
      let v := joins.foldl (fun v jn => applyJoinExact (plateUnit sr x e.1) s.free v jn e.1) (e.2.value * (2 ^ e.2.shift : Nat))
      partialOf v e.2.shift e.2.sat
    (ws.flatMap fun w => leBytes 8 w.1.toNat, ws.any Prod.snd)
  else
    let act := if j.desc.disableActivation then 0 else sr.activation
    let ys := idx.map fun e => activate' s set act (joins.foldl (fun y jn => applyJoin y jn e.1) (outputValue sr x e.1 e.2))
    (tokenBytes fmt ys, false)

/-! ## Commit and drain -/

/-- The pass leaves the replay store (R132). -/
def dropReplay (p : Nat) (u : PUnit) (x : Pass) (s : State) : State :=
  let other := fun (y : Pass) => decide ((y.slot, y.token, y.unit) ≠ (x.slot, x.token, x.unit))
  let r := s.press p
  let s := s.updBank p (u.ue r) fun b => { b with replay := b.replay.filter other }
  if u.mode = .tall then s.updBank p u.even fun b => { b with replay := b.replay.filter other } else s

/-- What every committed pass counts: plate passes, the lane, ActivityPasses (R160, R360). -/
def countPass (p b : Nat) (j : Job) (u : PUnit) (s : State) : State :=
  let s := clearBuffer p b u (countExact j.desc.vat.toNat 0 1 s)
  let s := forL u.plates (fun q t => t.updPlate p q fun z => { z with passes := z.passes + 1 }) s
  s.updBank p b fun z => { z with lane := !z.lane }

/-- The contributions of a pass have been added to everything that takes them: it leaves the replay store, and counts as a
saturated pass if it is one (R132, R136, R149). -/
def settlePass (p b : Nat) (u : PUnit) (x : Pass) (s : State) : State :=
  let s := dropReplay p u x s
  if x.saturated then
    (s.updBank p b fun z => { z with saturatedPasses := satInc z.saturatedPasses }).updJob p x.slot
      fun j => { j with saturated := true, saturatedPasses := j.saturatedPasses + 1 }
  else s

/-- Token t of a job's chunk has its outputs written: host blocks, the end of a chunk, the end of the job (R220, R231, R238,
R267, R268). Under SCALE_SKEW or SEAL_FAIL the job ends once the tokens already started are written. -/
def tokenDone (p k t : Nat) (s : State) : State :=
  let s := s.updJob p k fun j => { j with doneTokens := j.doneTokens + 1, tokensDone := tput false j.tokensDone t true }
  let s := s.updJob p k fun j => if j.desc.claimed then j else { j with committed := j.leading }
  match (s.press p).slot k with
  | none => s
  | some j =>
    if j.doneTokens < j.m then
      let s := flushAll p k .full s
      if (j.scaleSkew ∨ j.sealFail) ∧ j.leading = j.next then finishJob p k s else s
    else if j.desc.claimed then
      let s := flushAll p k .all s
      let s := match j.chunk with
        | some i => claimReturn (counterNo j.desc.vat.toNat j.desc.claimCounter.toNat) (Fin.ofNat 68 p) i s
        | none => s
      s.updJob p k fun j => { j with chunk := none, committed := j.committed + j.m }
    else finishJob p k s

/-- The overflow repeat of a pass (R174): AccShift rises, the lane's felt entries are divided, the span is repeated. -/
def overflowRepeat (p : Nat) (j : Job) (u : PUnit) (x : Pass) (s : State) : State :=
  requeue p u { x with shift := x.shift + 1 } (beginRepeat p x.slot j x.token 0 j.n (x.shift + 1) s)

/-- The lane of an output stage that a pass occupies is read out and returns to 0 (R168). -/
def clearLane (p b l : Nat) (s : State) : State :=
  s.updBank p b fun z => { z with lanes := tput none z.lanes l none, outputAcc := tcut z.outputAcc (512 * l) (512 * l + 512) }

/-- The registers of a lane (R160, R188). -/
def laneOf (z : Bank) (l : Nat) : List Acc := (tgetN 0 z.outputAcc (512 * l) 512).map unpackAcc

/-- The press limits overflow repeats at AccShift sh (R176). -/
def atRepeatLimit (s : State) (sh : Nat) : Bool := decide (s.settings.overflowRepeatLimit.toNat ≤ sh)

/-- A pass of a SLICED set on a unit before the last spills its contribution at once (R171, R225). -/
def spillPass (p b : Nat) (k : Slot) (j : Job) (u : PUnit) (x : Pass) (as : List Acc) (s : State) : State :=
  let atLimit := atRepeatLimit s x.shift
  let ds := ((List.range j.n).zip as).map fun e => drainReg (s.press p) j .spill atLimit x.token e.1 e.2
  if !atLimit ∧ ds.any Drained.left then
    overflowRepeat p j u x (markOverflow p j x.token 0 ds (clearBuffer p b u s))
  else
    let s := settlePass p b u x (countPass p b j u s)
    let s := writeFelt p k j x.token 0 ds (accSaturates p k 0 (ds.filter Drained.left).length s)
    s.updJob p k fun j =>
      { j with slices := tmod 0 j.slices x.token (· + 1), joins := j.joins ++ [(x.token, x.unit, x.operand, x.operandScale)] }

/-- A pass's contribution is committed (R122, R163): to the lane of bank b that is its turn, where it stays until a drain
reads it, or, on a unit of a SLICED set before the last, to felt. A lane that still holds a pass keeps the next one in the
pass buffer. -/
def commitPass (p b : Nat) (k : Slot) (j : Job) (us : List PUnit) (u : PUnit) (x : Pass) (sr : SenseRegs) (cs : List Int)
    (s : State) : State :=
  let last := decide (x.unit + 1 = us.length)
  let atLimit := atRepeatLimit s x.shift
  let ranges := if last then preloadRanges j x.token else []
  let z := (s.press p).bank b
  let l := bitOf z.lane
  match readRanges s p j ranges with
  | .error e => failRead p k x.token e s
  | .ok ls =>
    let pre := if !last then [] else (List.range 512).map fun c =>
      if c < j.n then preloadValue j.desc.preloadSelect.toNat (ls.getD 0 []) (ls.getD 1 []) (plateUnit sr x c) c else 0
    let as := laneRegs atLimit x.shift pre cs
    if as.any Acc.ovf then overflowRepeat p j u x (clearBuffer p b u s)
    else if j.desc.sliced ∧ !last then
      spillPass p b k j u x as (accSaturates p k 0 (if atLimit then laneSats x.shift pre cs else 0) s)
    else if (tget none z.lanes l).isSome then s
    else
      let s := accSaturates p k 0 (if atLimit then laneSats x.shift pre cs else 0) s
      let s := countExact j.desc.vat.toNat 3 ((ranges.map fun y => pkgBytes y.addr y.len).foldl (· + ·) 0) s
      let s := countPass p b j u s
      let s := if last ∧ usesFelt j then s else settlePass p b u x s
      s.updBank p b fun z =>
        { z with lanes := tput none z.lanes l (some x), outputAcc := tputL 0 z.outputAcc (512 * l) (as.map packAcc) }

/-- The final drain of a unit before the last of a CHAIN set: its result becomes the token of the next unit (R21, R93,
R224). It waits while that unit takes no pass. -/
def forwardLane (p b l : Nat) (k : Slot) (j : Job) (us : List PUnit) (x : Pass) (s : State) : State :=
  let r := s.press p
  let i := x.unit + 1
  match us[x.unit]?, us[i]? with
  | some u, some nu =>
    if !unitOpen s p j nu then s
    else
      let sr := senseRegs s (r.bank b)
      let set := tableSetOf s j.desc.vat.toNat (r.plate u.even).epoch
      let join : Join := { op := unitJoin s p j us x.unit, sums := x.operand, scale := x.operandScale, regs := sr }
      let ys := ((List.range 512).zip (laneOf (r.bank b) l)).map fun e =>
        activate' s set sr.activation (applyJoin (outputValue sr x e.1 { value := e.2.value, shift := x.shift }) join e.1)
      let els := ys.map toH16
      let dr := driveRegs s (r.bank (nu.ue r))
      let m := quantMax 0 els fun y => dr.rows.contains y
      let lastNext := decide (i + 1 = us.length)
      let sh := if lastNext then startShift r j x.token 0 j.n else 0
      let f := formPass s p k j us i nu x.token x.tag els 0 m (tokenScale m dr.alpha (qOf dr.int4)) sh
      let f := { f with pass := { f.pass with notBefore := x.forwardAt }, oddAt := x.forwardOddAt }
      let s := if lastNext then alignFelt p j x.token 0 j.n sh s else s
      enqueuePass p k nu f (clearLane p b l s)
  | _, _ => s

/-- Every pass of a job is decided, and none is to start (R170, R171: the end of a KEEP job). -/
def allDecided (r : PressRec) (k : Nat) (j : Job) (us : List PUnit) : Bool :=
  decide (j.m ≤ j.next) && !inFlight r k us.length

/-- The joins of a token on the last unit of its set (R124, R225): its own, and in a SLICED set those of the other units, in
unit order. -/
def tokenJoins (s : State) (p b : Nat) (j : Job) (us : List PUnit) (x : Pass) : List Join :=
  let join := fun (i : Nat) (sums : List Int) (sc : BitVec 16) =>
    ({ op := unitJoin s p j us i, sums := sums, scale := sc
       regs := senseRegs s ((s.press p).bank (((us[i]?).map PUnit.senseBank).getD b)) } : Join)
  let mine := j.joins.filter fun e => decide (e.1 = x.token)
  (List.range us.length).filterMap fun i =>
    if i = x.unit then some (join i x.operand x.operandScale)
    else (mine.find? fun e => decide (e.2.1 = i)).map fun e => join i e.2.2.1 e.2.2.2

/-- The outputs of a token are written, or those of a KEEP job are in felt, and the token is done. -/
def commitToken (p k t : Nat) (bytes : List Byte) (s : State) : State :=
  match (s.press p).slot k with
  | none => s
  | some j => tokenDone p k t (if j.desc.feltMode = 2 then s else writeOut p k (outAddr j t) bytes s)

/-- The outputs of streamed tokens are committed in token order: those of the leading token, while they are there (R226). -/
def releaseOutputs (p k : Nat) : Nat → State → State
  | 0, s => s
  | fuel + 1, s =>
    match (s.press p).slot k with
    | none => s
    | some j =>
      match j.lateOut.find? fun e => decide (e.1 = j.leading) with
      | none => s
      | some (t, bytes) =>
        releaseOutputs p k fuel (commitToken p k t bytes
          (s.updJob p k fun j => { j with lateOut := j.lateOut.filter fun e => decide (e.1 ≠ t) }))

/-- The outputs of a token of a plate job are there: under STREAMED input they wait for those of the tokens before (R226). -/
def outputToken (p k t : Nat) (bytes : List Byte) (s : State) : State :=
  match (s.press p).slot k with
  | none => s
  | some j =>
    if j.desc.scaleSource ≠ 2 then commitToken p k t bytes s
    else
      releaseOutputs p k (j.lateOut.length + 1)
        (s.updJob p k fun j => { j with lateOut := j.lateOut ++ [(t, bytes)] })

/-- The drain of the last unit of a set: the final drain, joins, activation and output, or the spill of a KEEP job, whose
lane is spilled when the next pass needs it and at the end of the job, and in OZ4030-compatible order, in which the next token
waits for it, at once (R170 to R172, R225, R231). -/
def outputLane (p b l : Nat) (k : Slot) (j : Job) (us : List PUnit) (u : PUnit) (x : Pass) (s : State) : State :=
  let r := s.press p
  let z := r.bank b
  let keep := decide (j.desc.feltMode = 2)
  let atLimit := atRepeatLimit s x.shift
  let needed := z.passBuffer.isSome && decide (bitOf z.lane = l)
  if (j.desc.sliced ∧ tget 0 j.slices x.token + 1 ≠ us.length) ∨ (keep ∧ !j.desc.oz4030 ∧ !needed ∧ !allDecided r k j us) then s
  else
    let ds := ((List.range j.n).zip (laneOf z l)).map fun e =>
      drainReg r j (if keep then .spill else .final) atLimit x.token e.1 e.2
    if !atLimit ∧ ds.any Drained.left then
      overflowRepeat p j u x (markOverflow p j x.token 0 ds (clearLane p b l s))
    else
      let s := clearLane p b l s
      let s := if usesFelt j then settlePass p b u x s else s
      let s := writeFelt p k j x.token 0 ds (accSaturates p k 0 (ds.filter Drained.left).length s)
      if keep then outputToken p k x.token [] s
      else
        let set := tableSetOf s j.desc.vat.toNat (r.plate u.even).epoch
        let (bytes, sat) := tokenOutput s set j (senseRegs s (r.bank b)) x (tokenJoins s p b j us x) (ds.map Drained.sum)
        let s := accSaturates p k 0 (if sat then 1 else 0) { s with free := s.free + 512 }
        outputToken p k x.token bytes s

/-- Lane l of bank b is drained when it holds a pass of the job in slot k (R167, R168: W is 0). -/
def drainLane (p b l : Nat) (k : Slot) (s : State) : State :=
  match tget none ((s.press p).bank b).lanes l, (s.press p).slot k with
  | some x, some j =>
    let us := jobUnits (s.press p) j.desc
    match us[x.unit]? with
    | none => s
    | some u =>
      if x.slot ≠ k then s
      else if !j.desc.sliced ∧ x.unit + 1 < us.length then forwardLane p b l k j us x s
      else outputLane p b l k j us u x s
  | _, _ => s

/-- The registers of the job in slot k whose reductions have ended are drained: those of its stipple operands, and the lanes
of the output stages, the older of a stage first. -/
def drainPlates (p : Nat) (k : Slot) (s : State) : State :=
  forN 17 (fun b t =>
    let l := bitOf ((t.press p).bank b).lane
    drainLane p b (1 - l) k (drainLane p b l k t)) (forN 2 (fun m t => drainOperand p k m t) s)

/-- The operand with the PassTag of pass x joins it in bank b's pass buffer (R181). -/
def takeOperand (p b : Nat) (x : Pass) (o : Operand) (s : State) : State :=
  (s.updBank p b fun z => { z with passBuffer := z.passBuffer.map fun e =>
    ({ e.1 with operand := o.sums, operandScale := o.scale }, e.2) }).updJob p x.slot fun j => { j with operands := j.operands.erase o }

/-- The operand for which a pass waits, among those that have arrived (R181). -/
def operandFor (j : Job) (x : Pass) : Option Operand :=
  j.operands.find? fun o => decide (o.token = x.token ∧ o.unit = x.unit ∧ o.tag = x.tag)

/-- The decision of R134 is carried out for the attempt in bank b's pass buffer. A pass that is to be committed stays there
until its stipple operand has arrived (R181). -/
def decidePass (p b : Nat) (x : Pass) (e1 e2 : List (BitVec 32)) (s : State) : State :=
  let r := s.press p
  match passUnit r x with
  | none => s
  | some (j, u) =>
    match verdict x ((e1 ++ e2).map unpackEntry) with
    | .cmRepeat =>
      requeue p u { x with h := x.h + 1 } (clearBuffer p b u (s.updBank p b fun z => { z with cmRepeats := satInc z.cmRepeats }))
    | .clipRepeat step =>
      requeue p u { x with step := step, clipRepeated := true }
        (clearBuffer p b u (s.updBank p b fun z => { z with clipRepeats := satInc z.clipRepeats }))
    | .commit saturated =>
      let us := jobUnits r j.desc
      let sr := senseRegs s (r.bank b)
      let cs := contributions sr u (r.plate u.even).fullScaleShift (resBits j.desc) x e1 e2
      if unitJoin s p j us x.unit = 0 ∨ x.operand ≠ [] then commitPass p b x.slot j us u { x with saturated := saturated } sr cs s
      else
        match operandFor j x with
        | none => s
        | some o =>
          commitPass p b x.slot j us u { x with saturated := saturated, operand := o.sums, operandScale := o.scale } sr cs
            (takeOperand p b x o s)

/-- REPEAT_DECISION: the output stage of bank b has taken the attempt's last entry and decides for it (R122, R134): it
repeats it, or it commits it. -/
def execRepeatDecision (p : Press) (b : Plate) (s : State) : Out :=
  let r := s.press p
  match (r.bank b).passBuffer with
  | none => .next s
  | some (x, e1, e2) =>
    let even := match passUnit r x with
      | some (_, u) => u.even
      | none => b.val
    if pressCommits s p then
      .next (decidePass p b x (e1 ++ (r.bank b).resultQueue) (if e2 = [] then [] else e2 ++ (r.bank even).resultQueue) s)
    else .next s

end Sys2Proof.Machine
end

