-- ==== Sys2Proof/Machine/Trim.lean ====
section
/-! DEFINITION. Trim.lean: the current trim, trim fences, the hand-over of a refresh step and proof passes (02 R55 to R62,
R65; 04 R119; 13 R421 to R425). -/

namespace Sys2Proof.Machine

/-! ## The current trim (R420 to R423) -/

/-- The readings of the trim points in 1/8 °C (R420). -/
def trimPoints : List Int := [-240, 0, 280, 560, 840]

/-- The trim set entry of a position (R420). -/
def trimSet (s : State) (set p q : Nat) : TrimEntry := tget {} s.otp.trims ((set * 68 + p) * 17 + q)

/-- A field between two trim points, rounded once (R421). -/
def lerp (lo hi : Int) (t d : Nat) : Int := rneDiv (lo * d + (hi - lo) * t) d

/-- The trim of position q of press p at a reading (R421). -/
def trimAt (s : State) (p q : Nat) (t : Int) : TrimEntry :=
  let i := ((List.range 4).filter fun i => decide (lget 0 trimPoints i ≤ t)).getLast?.getD 0
  let lo := lget 0 trimPoints i
  let hi := lget 0 trimPoints (i + 1)
  let x := (clampI 0 (hi - lo) (t - lo)).toNat
  let d := (hi - lo).toNat
  let a := trimSet s i p q
  let b := trimSet s (i + 1) p q
  { readGain := lerp a.readGain b.readGain x d, senseOffset := lerp a.senseOffset b.senseOffset x d
    senseGain := lerp a.senseGain b.senseGain x d, proofShift := lerp a.proofShift b.proofShift x d
    verifyShift := lerp a.verifyShift b.verifyShift x d }

/-- A press forms a new trim for a position when its reading differs by TrimStep or more from that at which the trim in force
was formed (R423). -/
def formTrim (p q : Nat) (s : State) : State :=
  let t := (s.press p).thermal.reading
  if (t - ((s.press p).bank q).trimFor).natAbs < s.settings.trimStep.toNat then s
  else
    (s.updPress p fun r => { r with trimTemp := t }).updBank p q fun b =>
      { b with trimPending := some (trimAt s p q t), pendingFor := t }

/-- A press forms new trims for its positions (R423). -/
def formTrims (p : Nat) (s : State) : State := forN 17 (fun q t => formTrim p q t) s

/-! ## Fences (R423, R424) -/

/-- The plates of the couch of plate q, or q alone. -/
def fencePlates (r : PressRec) (q : Nat) : List Nat :=
  match r.logOf q with
  | some n => if r.couchOf n = .none then [q] else [r.physOf (n / 2 * 2), r.physOf (n / 2 * 2 + 1)]
  | none => [q]

/-- No pass is between its first deposit on plate q and its commit or discard. -/
def plateIdle (r : PressRec) (q : Nat) : Bool := (r.plate q).integrators.isEmpty && (r.bank q).passBuffer.isNone

/-- No pass is between its first deposit on plate q and its commit or discard, and no repeat on it is pending. -/
def plateQuiet (r : PressRec) (q : Nat) : Bool := plateIdle r q && (r.bank (r.upBank q)).repeats.isEmpty

/-- The job whose pass was deposited last on plate q has no pass left for it, or no job's was (R423). -/
def jobBoundary (r : PressRec) (q : Nat) : Bool :=
  match (r.plate q).openJob with
  | none => true
  | some o => r.jobs.all fun e => decide (e.2.order ≠ o) || decide (e.2.state = .posting) || !passesLeft r e.1 e.2 q

/-- The check phases of an engraving run on plate q: no fence falls inside them (R319, R423). -/
def inCheck (r : PressRec) (q : Nat) : Bool :=
  r.engraving.any fun e => decide (e.plate.val = q ∧ e.lines = [] ∧ (e.phase = .check ∨ e.phase = .recheck ∨ e.phase = .verify))

/-- The conditions of a trim fence hold on plate q (R423). -/
def atFence (r : PressRec) (q : Nat) : Bool := plateQuiet r q && ((r.bank q).idleFrame || jobBoundary r q) && !inCheck r q

/-- The pending trim and the pending slice trims of a bank take effect (R98, R423). -/
def applyTrims (b : Bank) : Bank :=
  { b with
    trim := b.trimPending.getD b.trim, trimPending := none
    trimFor := if b.trimPending.isSome then b.pendingFor else b.trimFor
    sliceTrim := b.pendingTrim.foldl (fun m e => match e.2 with
      | some w => tput 0 m e.1 w
      | none => m) b.sliceTrim
    pendingTrim := [] }

/-- Another plate of q's couch is out of job service for a PROOF_LIMIT of its own (R58, R67). -/
def partnerOut (r : PressRec) (qs : List Nat) (q : Nat) : Bool :=
  qs.any fun x => decide (x ≠ q) && (r.plate x).priority && (r.plate x).limitTripped

/-- What one bank holds of a logical plate goes to another: its registers, the passes that wait in it or are in it, and the
contributions in its lanes (R62 step 7, R119, R329). -/
def moveBank (src dst : Nat) (r : PressRec) : PressRec :=
  let b := r.bank src
  let r := r.updBank dst fun x =>
    { x with
      regs := b.regs, driveQueue := b.driveQueue, repeats := b.repeats, replay := b.replay, passBuffer := b.passBuffer
      resultQueue := b.resultQueue, lanes := b.lanes, outputAcc := b.outputAcc, lane := b.lane, frames := b.frames
      clipCount := 0, windowConversions := 0 }
  r.updBank src fun x =>
    { x with
      driveQueue := [], repeats := [], replay := [], passBuffer := none, resultQueue := [], lanes := [], outputAcc := [] }

/-- Plates go back to job service together and the priority mark of plate q is taken away (R58, R65, R67). -/
def returnPlates (qs : List Nat) (q : Nat) (r : PressRec) : PressRec :=
  let out := partnerOut r qs q
  let r := qs.foldl (fun r x => r.updPlate x fun y => { y with outOfService := out }) r
  r.updPlate q fun y => { y with priority := false }

/-- Step 7 of R62 with refresh target h: plate h takes the number of the next plate, and bank h what that plate's bank holds
of it (R119). -/
def handOver (p : Nat) (s : State) : State :=
  let r := s.press p
  let h := r.refreshTarget.val
  let n := (h + 1) % 17
  let old := r.plate n
  let out := partnerOut r (fencePlates r n) n
  let r := returnPlates (fencePlates r n) n r
  let r := r.updPlate h fun x =>
    { x with state := if old.state = .live then .live else .blank, epoch := old.epoch, outOfService := out, priority := false }
  let r := r.updPlate n fun x => { x with state := .refreshTarget, outOfService := false }
  let r := moveBank n h r
  let r := match r.fallbackBank with
    | some k => r.updBank k fun x => { x with parkSteps := x.parkSteps + 1 }
    | none => r
  let r := { r with
    refreshTarget := Fin.ofNat 17 n, logicalBase := if r.logicalBase.val = n then Fin.ofNat 17 h else r.logicalBase
    handover := false, stepAcc := 0 }
  if r.fallbackBank.map Fin.val = some n then parkBank p n (s.setPress p r)
  else s.setPress p (if r.rotation = .suspended then r else resumeRotation r)

/-- TRIM_FENCE: where the fence conditions hold on plate q, or on both plates of its couch, pending trims, a returning plate
and a hand-over take effect (R62 steps 6 and 7, R65, R423). The deposits that a forced fence held are released, and it is
counted (R424). -/
def execTrimFence (p : Press) (q : Plate) (s : State) : Out :=
  let r := s.press p
  let qs := fencePlates r q
  if !r.clocked ∨ !qs.all (atFence r) then .next s
  else
    let forced := qs.any fun x => (r.plate x).fenceHold
    let s := s.updPress p fun r =>
      { qs.foldl (fun r x => (r.updBank x applyTrims).updPlate x fun y => { y with fenceHold := false }) r with
        fencesForced := if forced then satInc r.fencesForced else r.fencesForced }
    let back := match r.returning with
      | some x => if qs.contains x.val then some x.val else none
      | none => none
    let s := match back with
      | some x => s.updPress p fun r =>
          let r := returnPlates qs x r
          resumeIf { (r.updPlate x fun y => { y with state := .live, inPlace := false }) with returning := none, stepAcc := 0 }
      | none => s
    if r.handover ∧ qs.contains ((r.refreshTarget.val + 1) % 17) then .next (handOver p s) else .next s
where
  /-- The rotation of a press whose content has been refreshed in place. -/
  resumeIf (r : PressRec) : PressRec := if r.rotation = .suspended then r else resumeRotation r

/-- Position q waits for a fence (R424). -/
def waitsFence (r : PressRec) (q : Nat) : Bool :=
  (r.bank q).trimPending.isSome || !(r.bank q).pendingTrim.isEmpty ||
    (r.handover && (fencePlates r q).contains ((r.refreshTarget.val + 1) % 17))

/-- TRIM_FENCE_WAIT_EXPIRY: no fence of a waiting position fell within TrimFenceWait; deposits are held until one does. -/
def execTrimFenceWaitExpiry (p : Press) (q : Plate) (s : State) : Out :=
  let r := s.press p
  if !r.clocked ∨ !waitsFence r q ∨ (r.plate q).fenceHold then .next s
  else
    .next (s.updPress p fun r => (fencePlates r q).foldl (fun r x => r.updPlate x fun y => { y with fenceHold := true }) r)

/-! ## Proof passes (R55 to R58) -/

/-- The bits of a ColumnResult (R78). -/
def packResult (l : List Nat) : BitVec 16 := BitVec.ofNat 16 (l.foldr (fun x a => x + 4 * a) 0)

/-- ColumnResult of column j. -/
def resultOf (w : BitVec 16) (j : Nat) : Nat := field w.toNat (2 * j + 1) (2 * j)

/-- The charge of proof column j in a proof pass as a ratio of QFS(0): L_j x 64/127, from the column's targets on the 512
rows that are deposited on, with an error in 0.01 % of QFS(0) (R48, R54, R55). -/
def proofReading (j : Nat) (err : Int) : Frac := withError (mkFrac (512 * 64 * proofDelta j) (240 * 127 * 512)) err

/-- The twelve-bit code of a proof column's charge, which the spare slice converts at a verify (R99). -/
def proofCode (j : Nat) (err : Int) : Int := (convert 12 (proofReading j err)).1

/-- The result of a proof column: its charge against the window centre moved by the current trim (R55, R422). -/
def columnResult (s : State) (p q j : Nat) (err : Int) : Nat :=
  let r := s.press p
  let y := r.plate q
  if y.proofDisabled.any fun x => decide (x.val = j) then 3
  else
    let shift := (trimAt s p q r.thermal.reading).proofShift - (trimAt s p q y.verifyTemp).proofShift
    let dev := ((proofReading j err).add (mkFrac (lget 0 y.centres j * (4096 + shift)) (2048 * 4096)).neg).abs
    if (mkFrac r.cfg.proofLimit.toNat 10000).lt dev then 2 else if (mkFrac r.cfg.proofBand.toNat 10000).lt dev then 1 else 0

/-- Priority refresh of a plate's content is asked for (R57, R58). -/
def askPriority (q : Nat) (r : PressRec) : PressRec :=
  let r := r.updPlate q fun y => { y with priority := true, proofTrips := satInc y.proofTrips }
  if r.rotation = .running then { r with rotation := .priority } else r

/-- PROOF_PASS: a proof pass of a LIVE plate compares its proof columns with their windows; the errors of their charges
are given in 0.01 % of QFS(0) (R54 to R58). It wakes the banks that deposit and convert it (R96). -/
def execProofPass (p : Press) (q : Plate) (errs : List Int) (s : State) : Out :=
  let r := s.press p
  let y := r.plate q
  let qs := fencePlates r q
  if y.state ≠ .live ∨ y.outOfService ∨ y.passes < y.proofGoal ∨ !pressIssues s p ∨ !qs.all (plateQuiet r) then
    .next s
  else
    let res := (List.range 8).map fun j => columnResult s p q j (lget 0 errs j)
    let log := r.eventLog q
    let s := (wakeBank p (r.upBank q) (wakeBank p q s)).updPlate p q fun z =>
      { z with
        passes := 0, proofGoal := r.cfg.proofInterval.toNat, columnResult := packResult res
        outside := if res.any fun x => decide (x = 1 ∨ x = 2) then satInc z.outside else 0 }
    let detail := leBytes 1 log ++ [0] ++ leBytes 2 (packResult res).toNat
    if res.contains 2 then
      let s := s.updPress p fun r =>
        qs.foldl (fun r x => r.updPlate x fun z => { z with outOfService := true })
          ((askPriority q r).updPlate q fun z => { z with limitTripped := true })
      .next (raise evProofLimit (some p) (some q) (s.pressVat p) detail (reclass p s))
    else if !y.priority ∧ (List.range 8).any fun j => decide (lget 0 res j = 1 ∧ resultOf y.columnResult j = 1) then
      .next (raise evProofBand (some p) (some q) (s.pressVat p) detail (reclass p (s.updPress p (askPriority q))))
    else .next s

end Sys2Proof.Machine
end

