-- ==== Sys2Proof/Machine/Engrave.lean ====
section
/-! DEFINITION. Engrave.lean: engraving and pulping plates, repairs, retirement of plates, refresh steps, the endurance
ledger and swap requests (02 R51 to R66; 10 R319 to R332; 13 R425, R426). -/

namespace Sys2Proof.Machine

/-! ## Retiring a plate (R53, R59, R65, R66, R329) -/

/-- Retired plates of a press (R66). -/
def retiredPlates (r : PressRec) : Nat := ((List.range 17).filter fun q => decide ((r.plate q).state = .retired)).length

/-- The content that logical plate n of a press has or is to take: what it waits to be engraved to, for the incoming epoch
only while no job of an older epoch has the plate in its set (R242). -/
def plannedContent (s : State) (p n : Nat) : Option Content :=
  let q := (s.press p).physOf n
  let free : Bool := match s.pressVat p with
    | some v => plateEligible s p v n
    | none => true
  let asked := s.engQueue.find? fun e =>
    decide (e.press.val = p ∧ e.plate.val = q ∧ ((e.purpose = .swap ∧ free = true) ∨ e.purpose = .engage ∨ e.purpose = .reengrave))
  match asked with
  | some e => e.content
  | none =>
    match (s.press p).engageTodo.find? fun e => decide (e.1.val = q) with
    | some e => some e.2
    | none => replacedContent s p n

/-- Passes that are in flight on plate q are deposited again before every other pass (R329: their jobs wait). -/
def recallPasses (p q : Nat) (s : State) : State :=
  let r := s.press p
  let s := match (r.bank q).passBuffer with
    | some (x, _, _) =>
      match passUnit r x with
      | some (_, u) => requeue p u x (clearBuffer p q u s)
      | none => s
    | none => s
  let r := s.press p
  let back := (r.plate q).integrators.map fun x => { x with repeated := true, notBefore := 0 }
  (s.updPlate p q fun y => { y with integrators := [] }).updBank p (r.upBank q) fun b => { b with repeats := back ++ b.repeats }

/-- The plate that holds, after the renumbering of R329, the content of a plate. -/
def movedPlate (olds : List Nat) (q : Plate) : Plate := if olds.contains q.val then Fin.ofNat 17 (q.val + 16) else q

/-- The renumbering of R329 when plate x is retired while h is the refresh target: every plate from h up to the one before
x takes the logical number of the next one, and its bank what that plate's bank holds of it. The moved plates are engraved
again, with the content and for the epoch of their new number, before the swap completes. -/
def renumber (p x : Nat) (s : State) : State :=
  let h := (s.press p).refreshTarget.val
  let d := (x + 17 - h) % 17
  let olds := (List.range d).map fun i => (h + 1 + i) % 17
  let s := ((olds.flatMap (fencePlates (s.press p))).dedup).foldl (fun t q => recallPasses p q t) s
  let r := s.press p
  let contents := olds.map fun q => (q, (r.logOf q).bind (plannedContent s p))
  let mine := fun (e : EngReq) => decide (e.press.val = p) && (olds.contains e.plate.val || decide (e.plate.val = h))
  let s := { s with engQueue := s.engQueue.filter fun e => !mine e }
  let s := s.updPress p fun r => olds.foldl (fun r q => moveBank q ((q + 16) % 17) r) r
  let base := r.logicalBase.val
  let inSpan := decide ((base + 17 - (h + 1) % 17) % 17 ≤ (x + 17 - (h + 1) % 17) % 17)
  let s := s.updPress p fun r =>
    { r with
      refreshTarget := Fin.ofNat 17 x, rotation := .stopped, handover := false
      logicalBase := if inSpan then Fin.ofNat 17 (base + 16) else r.logicalBase
      engageTodo := r.engageTodo.map fun e => (movedPlate olds e.1, e.2) }
  let news := olds.map fun q => (Fin.ofNat 68 p, movedPlate olds (Fin.ofNat 17 q))
  let rest := fun (e : Press × Plate) => decide (e.1.val ≠ p) || !olds.contains e.2.val
  let s := match r.vat with
    | some v => s.updVat v.val fun z =>
        if z.swap.active then { z with swap := { z.swap with todo := z.swap.todo.filter rest ++ news } } else z
    | none => s
  contents.foldl (fun t e =>
    let q := (e.1 + 16) % 17
    let t := t.updPlate p q fun y =>
      { y with
        state := .engraving, outOfService := true, ready := none, priority := false
        epoch := (e.2.map Content.epoch).getD (r.plate e.1).epoch }
    askPower { cls := 2, press := Fin.ofNat 68 p, plate := Fin.ofNat 17 q, purpose := .reengrave, content := e.2 } t) s

/-- A plate is retired with a cause of R79; a second one, or one that the press cannot do without, retires the press. -/
def retirePlate (p q cause : Nat) (s : State) : State :=
  let r := s.press p
  let log := r.eventLog q
  let target := decide (r.refreshTarget.val = q)
  let s := raise evPlateRetired (some p) (some q) (s.pressVat p) (leBytes 1 log ++ leBytes 1 cause) s
  let s := if r.anchored ∨ target then s else renumber p q s
  let s := s.updPlate p q fun y =>
    { y with state := .retired, priority := false, ready := none, outOfService := false, inPlace := false, codes := [] }
  let s := s.updPress p fun r =>
    { r with rotation := .stopped, engraving := none
             handover := if target then false else r.handover }
  if 2 ≤ retiredPlates (s.press p) ∨ (r.anchored ∧ !target) then retirePress p 1 s else s

/-! ## Lines and spares (R51 to R53, R319, R320) -/

/-- Spares in use of n. -/
def usedSpares (m : Tab (BitVec 16)) (n : Nat) : Nat := ((List.range n).filter fun s => (replacedBy m s).isSome).length

/-- The lines of column n: its own or those of its spare column (R319). -/
def columnLines (y : PlateRec) (n : Nat) : List Nat :=
  match spareOf y.colMap 32 n with
  | some s => [1024 + 2 * s, 1025 + 2 * s]
  | none => [2 * n, 2 * n + 1]

/-- The 1,024 column lines that serve active columns. -/
def servingLines (y : PlateRec) : List Nat := (List.range 512).flatMap (columnLines y)

/-- The active column that a line serves, and whether it is a spare column's line. A line number above 2,047 stands for
the cell of spare row (line / 2,048 - 1) on line (line mod 2,048) alone. -/
def lineColumn (y : PlateRec) (line : Nat) : Nat × Bool :=
  let l := line % 2048
  if l < 1024 then (l / 2, false) else ((replacedBy y.colMap ((l - 1024) / 2)).getD 0, true)

/-- The cells found outside their windows that a bite of a line concerns: active rows that are not replaced, and spare
rows that are mapped in (R51, R320). -/
def cellsOf (y : PlateRec) (line : Nat) (outside : List (Fin 520)) : List Nat :=
  (outside.map Fin.val).filter fun r =>
    if 2048 ≤ line then decide (r = 512 + (line / 2048 - 1))
    else if r < 512 then (spareOf y.rowMap 64 r).isNone else (replacedBy y.rowMap (r - 512)).isSome

/-- The events of a mapping (R53). -/
def raiseMapped (p q kind spare index : Nat) (s : State) : State :=
  let r := s.press p
  let y := r.plate q
  let log := r.eventLog q
  let s := raise evPlateSpareMapped (some p) (some q) (s.pressVat p)
    (leBytes 1 log ++ leBytes 1 kind ++ leBytes 1 spare ++ [0] ++ leBytes 2 index) s
  let rows := usedSpares y.rowMap 8
  let cols := usedSpares y.colMap 16
  if (kind = 0 ∧ rows = 8) ∨ (kind = 1 ∧ cols = 16) then
    raise evPlateSparesLow (some p) (some q) (s.pressVat p) (leBytes 1 log ++ leBytes 1 rows ++ leBytes 1 cols) s
  else s

/-- The engraving of a press with f applied. -/
def updEng (p : Nat) (f : EngRec → EngRec) (s : State) : State :=
  s.updPress p fun r => { r with engraving := r.engraving.map f }

/-- The spare column of column n's segment is mapped in; each of its lines is to receive a pulse and is bitten (R53, R320). -/
def mapColumn (p q n : Nat) (s : State) : State :=
  let old := columnLines ((s.press p).plate q) n
  let s := s.updPlate p q fun y => { y with colMap := tput 0 y.colMap (n / 32) (BitVec.ofNat 16 (0x8000 + n)) }
  let s := updEng p (fun e => { e with
    pulses := e.pulses + 2
    lines := (e.lines.filter fun l => !old.contains (l % 2048)) ++ columnLines ((s.press p).plate q) n }) s
  raiseMapped p q 1 (n / 32) n s

/-- The spare row of row k's segment is mapped in; it is to receive a pulse and is bitten on every line (R53, R320). -/
def mapRow (p q k : Nat) (s : State) : State :=
  let s := s.updPlate p q fun y => { y with rowMap := tput 0 y.rowMap (k / 64) (BitVec.ofNat 16 (0x8000 + k)) }
  let s := updEng p (fun e => { e with
    pulses := e.pulses + 1
    lines := e.lines ++ (servingLines ((s.press p).plate q)).map fun l => 2048 * (k / 64 + 1) + l }) s
  raiseMapped p q 0 (k / 64) k s

/-- The cause of R79 for a plate whose engraving fails. -/
def failCause (y : PlateRec) : Nat := if y.limitTripped then 3 else 1

/-- A failed cell is repaired (R53): spare column, else spare row, else the plate is retired. A failed column of the
second check (R321) has no row. -/
def repairCell (p q line : Nat) (row : Option Nat) (s : State) : State :=
  let y := (s.press p).plate q
  let (col, spare) := lineColumn y line
  if y.state = .retired ∨ (s.press p).engraving = none then s
  else if !spare ∧ spareOf y.colMap 32 col = some (col / 32) then s
  else if !spare ∧ replacedBy y.colMap (col / 32) = none then mapColumn p q col s
  else
    match row with
    | some k =>
      if k < 512 ∧ spareOf y.rowMap 64 k = some (k / 64) then s
      else if k < 512 ∧ replacedBy y.rowMap (k / 64) = none then mapRow p q k s
      else retirePlate p q (failCause y) s
    | none => retirePlate p q (failCause y) s

/-! ## Power (R322 to R324) -/

/-- Plates that engrave or pulp now (R322, R333). -/
def engravingsActive (s : State) : Nat :=
  (s.presses.filter fun e => e.2.engraving.any fun x => !x.held).length

/-- Plates that the granted power lets engrave at once (R322): floor(E / 0.25 W), at most 64. -/
def engravingLimit (s : State) : Nat := min 64 (lget 0 s.gov.grants 2 / 250)

/-- A plate that is being engraved gives its power back and waits for it again, a refresh step in the class that its press's
priorities now give it; its bite counts are kept (R323, R324). -/
def holdEngraving (p : Nat) (s : State) : State :=
  match (s.press p).engraving with
  | some e =>
    if e.held then s
    else
      let cls := if e.purpose = .refresh then refreshClass (s.press p) else e.cls
      askPower { cls := cls, press := Fin.ofNat 68 p, plate := e.plate, purpose := e.purpose, content := e.content }
        (updEng p (fun x => { x with held := true }) s)
  | none => s

/-- An engraving stops above 105 °C (R324). -/
def holdHot (p : Nat) (s : State) : State :=
  let r := s.press p
  match r.engraving with
  | some e =>
    if e.held ∨ r.thermal.reading ≤ 840 then s
    else
      raise evEngraveHeldHot (some p) (some e.plate.val) (s.pressVat p) (leInt 2 (r.thermal.reading / 8)) (holdEngraving p s)
  | none => s

/-- The presses that engrave, the lowest class of R323 first. -/
def byClass (s : State) : List Nat :=
  let at' := fun (c : Nat) => (s.presses.filter fun e => e.2.engraving.any fun x => !x.held && decide (x.cls = c)).map Prod.fst
  at' 1 ++ at' 2 ++ at' 3 ++ at' 4

/-- The granted power has fallen: the plates beyond the limit of R322 stop and wait, those of the highest class number first
(DESIGN CHOICE; assumption 88). -/
def shedEngravings (s : State) : State := forL ((byClass s).drop (engravingLimit s)) holdEngraving s

/-- One engraving is counted in the ledger (R330, R332). -/
def countEngraving (p q : Nat) (s : State) : State :=
  let s := s.updPlate p q fun y => { y with ledger := satInc y.ledger }
  let y := (s.press p).plate q
  if s.settings.enduranceWarn ≤ y.ledger ∧ !y.warned then
    raise evEnduranceWarn (some p) (some q) (s.pressVat p) (leBytes 4 y.ledger.toNat)
      (s.updPlate p q fun y => { y with warned := true })
  else s

/-- A waiting plate can be granted power: its press bites, engraves nothing else, no page of its content's sections is under
copy (R298), and no pass is on the plate; before a plate that holds a content in service is engraved, no repeat on it or on
its couch is pending either. -/
def grantable (s : State) (e : EngReq) : Bool :=
  let r := s.press e.press
  let free : Bool := match r.engraving with
    | none =>
      if e.purpose = .inPlace ∨ e.purpose = .swap then (fencePlates r e.plate).all (plateQuiet r) else plateIdle r e.plate
    | some x => x.held && decide (x.plate = e.plate)
  let held : Bool := match s.pressVat e.press, e.content with
    | some v, some c => contentHeld s e.press v c
    | _, _ => false
  r.clocked && pressBites s e.press && free && !held && (decide (e.purpose ≠ .engage) || r.engageChecked)

/-- Bytes of the staged ream that an engraving reads for its vat: the weight codes and codebook, and the registers of a new
content (R62, R283, R307, R360). -/
def stagedBytes (e : EngReq) : Nat :=
  match e.content with
  | none => 0
  | some c =>
    let new := decide (e.purpose ≠ .refresh ∧ e.purpose ≠ .inPlace)
    c.codes.length + c.codebook.length + (if new ∧ c.sense.isSome then 5124 else 0) + (if new ∧ c.drive.isSome then 72 else 0)

/-- The content of a granted plate as its press reads it from the vat's staged ream (R62 step 4). -/
def readEngraved (e : EngReq) (s : State) : Option Content × State :=
  match e.content, s.pressVat e.press with
  | some c, some v => let (c, s) := readContent e.press v c s; (some c, s)
  | c, _ => (c, s)

/-- A granted plate begins its pulp and its bites, or goes on with them (R319, R324, R326). A content without a codebook
takes the default in force as it is engraved (R44, R45). -/
def startEngraving (e : EngReq) (s : State) : State :=
  let p := e.press.val
  let q := e.plate.val
  let r := s.press p
  if r.engraving.isSome then updEng p (fun x => { x with held := false }) s
  else
    let y := r.plate q
    let s := s.updPlate p q fun y =>
      { y with state := if r.refreshTarget.val = q then y.state else .engraving, codes := [], ready := none }
    let s := match s.pressVat p with
      | some v => countExact v 3 (stagedBytes e) s
      | none => s
    let (content, s) := readEngraved e s
    let book := fun (c : Content) => { c with codebook := codebookOf s { codebook := c.codebook } }
    let rec' : EngRec := { plate := e.plate, purpose := e.purpose, cls := e.cls, content := content.map book }
    match e.content with
    | none => s.updPress p fun r => { r with engraving := some { rec' with phase := .pulp } }
    | some _ =>
      countEngraving p q (s.updPress p fun r =>
        { r with engravedOnce := true, engraving := some { rec' with phase := .bites, lines := servingLines y } })

/-- ENGRAVING_START: the plate that waits first by class and age is granted engraving power (R322, R323). -/
def execEngravingStart (s : State) : Out :=
  let s := advanceSwaps s
  let stale := fun (e : EngReq) =>
    decide (e.purpose = .swap) && !((s.press e.press).engraving.any fun x => x.held) &&
      match (s.press e.press).vat, (s.press e.press).logOf e.plate with
      | some v, some n => !plateEligible s e.press v n
      | _, _ => true
  let s := { s with engQueue := s.engQueue.filter fun e => !stale e }
  if engravingLimit s ≤ engravingsActive s then .next s
  else
    match argMin EngReq.cls (s.engQueue.filter (grantable s)) with
    | none => .next s
    | some e => .next (startEngraving e { s with engQueue := s.engQueue.erase e })

/-! ## The phases (R319 to R321) -/

/-- The reset pulses of a pulp are admitted as the governor grants their energy (R319, R417): one on each of 1,056 lines. -/
def payPulses (p : Nat) (e : EngRec) (s : State) : State :=
  let (paid, done, s) := payTowards p 2 20 (1056 * price s p .pulse) e.paid s
  updEng p (fun x => { x with paid := paid, pulsed := done }) s

/-- The cells that the verify of a bite finds outside their windows, from what the comparators see: the distance of each
cell's current from that of its target in units of 0.0005 µS, which the VerifyShift of the trim in force moves; a window
reaches 0.003 µS to each side (R42, R320, R420). -/
def outsideCells (b : Bank) (seen : List (Fin 520 × Int)) : List (Fin 520) :=
  (seen.filter fun e => decide (6 < (e.2 - b.trim.verifyShift).natAbs)).map Prod.fst

/-- BITE: the pulp's pulses until they are all admitted, then those of spares mapped in, then one bite of the first line that
is not done, each as the governor admits it (R37, R417); what the comparators see of the cells at its verify is given. -/
def execBite (p : Press) (seen : List (Fin 520 × Int)) (s : State) : Out :=
  match (s.press p).engraving with
  | none => .next s
  | some e =>
    match e.lines with
    | [] => .next s
    | line :: rest =>
      if e.held ∨ !pressBites s p then .next s
      else if !e.pulsed then .next (payPulses p e s)
      else if 0 < e.pulses then
        .next (if admits s p .pulse 1 then updEng p (fun x => { x with pulses := e.pulses - 1 }) (charge p .pulse 1 s)
          else refuse p 20 .pulse 1 s)
      else if !admits s p .bite 1 then .next (refuse p 20 .bite 1 s)
      else
        let s := charge p .bite 1 s
        let q := e.plate.val
        let bad := cellsOf ((s.press p).plate q) line (outsideCells ((s.press p).bank q) seen)
        let drop := updEng p (fun x => { x with lines := rest, bites := 0 }) s
        if bad = [] then .next (toCheck drop)
        else if e.bites + 1 < s.settings.biteLimit.toNat then .next (updEng p (fun x => { x with bites := e.bites + 1 }) s)
        else .next (toCheck (bad.foldl (fun t row => repairCell p q line (some row) t) drop))
where
  /-- The bites are over when no line is left. -/
  toCheck (s : State) : State :=
    updEng p (fun x => if x.phase = .bites ∧ x.lines = [] then { x with phase := .check } else x) s

/-- The ideal ratios of the active columns to QFS(0) in the two passes of the check: row code +64 on every row, then +64 on
even and -64 on odd rows (R48, R321). -/
def checkRatios (s : State) (c : Content) : List Frac × List Frac :=
  let y : PlateRec := { codes := c.codes, codebook := c.codebook }
  let of := fun (codes : List Int) => (plateCharges s y codes).map fun x => mkFrac x.diff (240 * 127 * 512)
  (of (List.replicate 512 64), of ((List.range 512).map fun r => if r % 2 = 0 then 64 else -64))

/-- A column's converted code differs from its ideal code by more than EngraveCheckLimit (R321, R333). -/
def checkFails (limit : Nat) (x : Frac) (err : Int) : Bool :=
  decide (2048 * limit < ((convert 12 (withError x err)).1 - (convert 12 x).1).natAbs * 10000)

/-- ENGRAVING_CHECK: the two passes of R321, with the errors of the columns' conversions in 0.01 % of QFS(0). They wake the
banks that make them (R96), and no class is charged for them (DESIGN CHOICE; assumption 94). -/
def execEngravingCheck (p : Press) (errs : List (Fin 512 × Int × Int)) (s : State) : Out :=
  match (s.press p).engraving with
  | none => .next s
  | some e =>
    if e.held ∨ e.lines ≠ [] ∨ (e.phase ≠ .check ∧ e.phase ≠ .recheck) ∨ !pressPasses s p then .next s
    else
      let q := e.plate.val
      let s := wakeBank p ((s.press p).upBank q) (wakeBank p q s)
      let y := (s.press p).plate q
      let (x1, x2) := checkRatios s (e.content.getD {})
      let limit := s.settings.engraveCheckLimit.toNat
      let bad := (errs.filter fun d =>
        checkFails limit (lget ⟨0, 1⟩ x1 d.1) d.2.1 || checkFails limit (lget ⟨0, 1⟩ x2 d.1) d.2.2).map fun d => d.1.val
      if bad = [] then .next (updEng p (fun x => { x with phase := .verify }) s)
      else if e.phase = .check then
        .next (countEngraving p q (updEng p (fun x => { x with phase := .recheck, lines := bad.flatMap (columnLines y) }) s))
      else
        .next (bad.foldl (fun t n => repairCell p q (lget 0 (columnLines y n) 0) none t)
          (updEng p (fun x => { x with phase := .verify }) s))

/-! ## Ends of engravings and pulps -/

/-- The verify proof pass of a plate: the spare slice of its bank converts the proof columns, whose codes are the window
centres, and the banks that make it wake (R55, R56, R96, R99, R141, R426). -/
def recordVerify (p q : Nat) (errs : List Int) (s : State) : State :=
  let t := (s.press p).thermal.reading
  let centres := (List.range 8).map fun j => proofCode j (lget 0 errs j)
  let goal := (s.press p).cfg.proofInterval.toNat
  ((wakeBank p ((s.press p).upBank q) (wakeBank p q s)).updBank p q (recordMax 12 512 centres)).updPlate p q fun y =>
    { y with
      centres := centres, verifyTemp := t, driftAge := 0, overdue := false, passes := 0, proofGoal := goal, outside := 0
      limitTripped := false
      columnResult := packResult ((List.range 8).map fun j => if y.proofDisabled.any fun x => decide (x.val = j) then 3 else 0) }

/-- A plate holds a content that it has been engraved to. -/
def setContent (p q : Nat) (c : Content) (s : State) : State :=
  s.updPlate p q fun y =>
    { y with
      codes := c.codes, codebook := c.codebook, fullScaleShift := c.fullScaleShift, couch := c.couch, epoch := c.epoch
      staged := c.staged }

/-- A content of the epoch of a running swap of the press's vat: it becomes LIVE once step 3 of R326 has finished. -/
def awaitsStep3 (s : State) (p : Nat) (epoch : BitVec 16) : Bool :=
  (s.pressVat p).any fun v => (s.vat v).swap.active && decide ((s.vat v).swap.epoch = epoch)

/-- ENGRAVING_DONE: the verify proof pass ends an engraving, with the errors of the proof columns' charges in 0.01 % of
QFS(0) (R56, R62, R65, R326, R329, R440). -/
def execEngravingDone (p : Press) (errs : List Int) (s : State) : Out :=
  match (s.press p).engraving with
  | none => .next s
  | some e =>
    match e.content with
    | none => .next s
    | some c =>
      if e.held ∨ e.lines ≠ [] ∨ e.phase ≠ .verify ∨ !pressPasses s p then .next s
      else
        let q := e.plate.val
        let s := recordVerify p q errs (s.updPress p fun r => { r with engraving := none })
        match e.purpose with
        | .refresh => .next (advanceSwaps ((setContent p q c s).updPress p fun r => { r with handover := true }))
        | .inPlace => .next (advanceSwaps ((setContent p q c s).updPress p fun r => { r with returning := some e.plate }))
        | _ =>
          .next (advanceSwaps
            (if awaitsStep3 s p c.epoch then s.updPlate p q fun y => { y with ready := some c } else goLive p q c s))

/-- A pulped plate is BLANK (R326 step 4, R352); its codebook and shift are the defaults again (R340, R359), and its proof
columns stay as they are (R54). -/
def blankPlate (p q : Nat) (s : State) : State :=
  s.updPlate p q fun y =>
    { y with state := .blank, outOfService := false, priority := false, codebook := [], fullScaleShift := 3 }

/-- The incoming edition leaves plate q of a press BLANK (R326 step 4). -/
def blankInEdition (s : State) (p q : Nat) : Bool :=
  match s.pressVat p, (s.press p).logOf q with
  | some v, some n => (incomingContent s p v n).isNone
  | _, _ => true

/-- PLATE_PULP_DONE: a pulp without an engraving ends (R62 step 3, R326, R352, R356). -/
def execPlatePulpDone (p : Press) (s : State) : Out :=
  match (s.press p).engraving with
  | none => .next s
  | some e =>
    if e.phase ≠ .pulp ∨ e.held ∨ !pressBites s p then .next s
    else
      let s := payPulses p e s
      if !(s.press p).engraving.any fun x => x.pulsed then .next s
      else
        let q := e.plate.val
        let s := s.updPress p fun r => { r with engraving := none }
        let epoch := match (s.press p).vat with
          | some v => if (s.vat v).swap.active then (s.vat v).swap.epoch else ((s.press p).plate q).epoch
          | none => ((s.press p).plate q).epoch
        let mark := fun (t : State) => t.updPlate p q fun y => { y with epoch := epoch }
        match e.purpose with
        | .refresh => .next (advanceSwaps (s.updPress p fun r => { r with handover := true }))
        | .swapTarget => .next (advanceSwaps s)
        | .vatPulp => .next (if (s.press p).refreshTarget = e.plate then s else blankPlate p q s)
        | .resetPulp => .next (if (s.press p).refreshTarget = e.plate then s else blankPlate p q s)
        | _ =>
          let s := mark (blankPlate p q s)
          .next (advanceSwaps (if blankInEdition s p q then plateDone p q s else s))

/-! ## Refresh steps (R62, R65, R425) -/

/-- The content of a LIVE plate, as its refresh engraves it (R62 step 4). -/
def liveContent (r : PressRec) (q : Nat) : Content :=
  let x := r.plate q
  { codes := x.codes, codebook := x.codebook, fullScaleShift := x.fullScaleShift, couch := x.couch, epoch := x.epoch
    sense := (r.bank q).regs.sense, drive := (r.bank (r.upBank q)).regs.drive, staged := x.staged }

/-- A refresh step or an in-place refresh of a press is under way. -/
def refreshing (s : State) (p : Nat) : Bool :=
  let r := s.press p
  let mine := fun (x : Purpose) => decide (x = .refresh ∨ x = .inPlace)
  r.handover || r.returning.isSome || (r.engraving.any fun e => mine e.purpose) ||
    s.engQueue.any fun e => decide (e.press.val = p) && mine e.purpose

/-- The plate that is refreshed in place next: one that awaits priority refresh, else the LIVE plate of the largest
DriftAge (R58, R65, R425). -/
def inPlacePlate (r : PressRec) : Option Nat :=
  let live := (List.range 17).filter fun q => decide ((r.plate q).state = .live ∧ r.refreshTarget.val ≠ q)
  let key := fun q =>
    let y := r.plate q
    if y.priority && y.limitTripped then 0 else if y.priority then 1 else 2
  let best := live.filter fun q => decide (key q = lmin (live.map key))
  argMin (fun q => lmax (live.map fun x => (r.plate x).driftAge) - (r.plate q).driftAge) best
where
  /-- The smallest of a list of numbers. -/
  lmin (l : List Nat) : Nat := l.foldl min 2

/-- RefreshStepInterval in the units of StepAccumulator (R425). -/
def stepGoal (s : State) : Nat := s.settings.refreshStepInterval.toNat * 1000000 * 65536

/-- The vat of a press swaps, pulps or resets: rotation is suspended (R64, R326 step 1), and a press whose rotation R329 or
R105 stops meanwhile refreshes no plate in place either (DESIGN CHOICE; assumption 99). -/
def rotationHeld (s : State) (p : Nat) : Bool :=
  (s.pressVat p).any fun v =>
    (s.vat v).swap.active || decide ((s.vat v).state = .pulping) || decide ((s.vat v).state = .resetting)

/-- REFRESH_STEP_DUE: a due step asks for engraving power (R62 steps 1 to 4, R65, R425). -/
def execRefreshStepDue (p : Press) (s : State) : Out :=
  let r := s.press p
  let due := decide (stepGoal s ≤ r.stepAcc)
  if r.state ≠ .active ∨ refreshing s p ∨ rotationHeld s p then .next s
  else
    match r.rotation with
    | .suspended => .next s
    | .stopped =>
      match inPlacePlate r with
      | none => .next s
      | some q =>
        if due ∨ (r.plate q).priority then
          let qs := fencePlates r q
          let s := s.updPress p fun r =>
            (qs.foldl (fun r x => r.updPlate x fun y => { y with outOfService := true }) r).updPlate q fun y =>
              { y with state := .engraving, inPlace := true }
          .next (askPower { cls := 1, press := p, plate := Fin.ofNat 17 q, purpose := .inPlace, content := some (liveContent r q) } s)
        else .next s
    | m =>
      if due ∨ m = .priority then
        let n := (r.refreshTarget.val + 1) % 17
        let c := if (r.plate n).state = .live then some (liveContent r n) else none
        .next (askPower { cls := refreshClass r, press := p, plate := r.refreshTarget, purpose := .refresh, content := c } s)
      else .next s

/-! ## The endurance ledger (R331) -/

/-- A write of EnduranceLedger: accepted before the press's first engraving after start-up. -/
def writeLedger (p : Nat) (data : List Byte) (s : State) : Byte × State :=
  if (s.press p).engravedOnce then (resState, s)
  else
    (resOk, forN 17 (fun q t => t.updPlate p q fun y =>
      { y with ledger := BitVec.ofNat 32 (leAt data (4 * q) 4), warned := false }) s)

/-! ## Swap requests (R325, R326, R328, R336) -/

/-- Some placed job of a vat names an epoch that another set of tables than the current one serves (R325, R328). -/
def olderTablesUsed (s : State) (v : Nat) : Bool :=
  let r := s.vat v
  s.presses.any fun e => e.2.jobs.any fun k =>
    decide (k.2.desc.vat.toNat = v) && (r.epochs.any fun x => decide (x.1 = k.2.desc.epoch ∧ x.2 ≠ r.tableNow)) &&
      !r.epochs.any fun x => decide (x.1 = k.2.desc.epoch ∧ x.2 = r.tableNow)

/-- The edition-independent sections of a ream: ACTIVATION_TABLE and DECODE_CODEBOOK (R306, R307). -/
def tableSections (x : Ream) : List Section := x.sections.filter fun y => decide (y.type = 7 ∨ y.type = 8)

/-- The tables that a list of such sections with their bytes loads (R307). -/
def loadTables (l : List (Section × List Byte)) : TableSet :=
  l.foldl (fun t e =>
    if e.1.type = 7 then { t with activations := tput [] t.activations e.1.unit e.2 }
    else { t with books := tput [] t.books e.1.unit e.2 }) {}

/-- Step 1 of R326 on a press: a refresh step that has not reached step 7 is abandoned, rotation is suspended, and the
refresh target is pulped. A press whose rotation is STOPPED reads SUSPENDED meanwhile too (R64), and STOPPED again
afterwards (R65, R105; DESIGN CHOICE, assumption 99). -/
def suspendForSwap (p : Nat) (s : State) : State :=
  let r := s.press p
  let refresh := r.engraving.any fun e => decide (e.purpose = Purpose.refresh)
  let s : State := { s with engQueue := s.engQueue.filter fun e => !decide (e.press.val = p ∧ e.purpose = .refresh) }
  let s := s.updPress p fun r =>
    { r with
      engraving := if refresh then none else r.engraving, handover := false, rotation := .suspended }
  if (r.plate r.refreshTarget.val).state = .retired then s
  else askPower { cls := 2, press := Fin.ofNat 68 p, plate := r.refreshTarget, purpose := .swapTarget } s

/-- The presses on which a vat's swap runs: those that serve it and a replacement being prepared (R326, R440). -/
def swapPresses (s : State) (v : Nat) : List Nat :=
  (s.vatPresses v).filter fun p => decide ((s.press p).state = .active ∨ (s.press p).state = .engaging)

/-- A write of SwapRequest (R325, R326, R328, R336). The epoch in force keeps its set of tables. -/
def swapRequest (v : Nat) (w : BitVec 32) (s : State) : Byte × State :=
  let r := s.vat v
  let epoch : BitVec 16 := BitVec.ofNat 16 (field w.toNat 31 16)
  let from' := nbit w.toNat 15
  let edition := field w.toNat 5 0
  let ream := if from' then r.pendingReam else r.active
  let count := (ream.map Ream.editionCount).getD 0
  if r.state ≠ .serving ∨ r.swap.active ∨ (from' ∧ r.load.state ≠ .staged) ∨ ream = none ∨
      (from' ∧ olderTablesUsed s v) then (resState, s)
  else if count ≤ edition ∨ epoch = r.currentEpoch then (resRange, s)
  else
    let ps := swapPresses s v
    let todo := ps.flatMap fun p => (List.range 16).map fun n => (Fin.ofNat 68 p, Fin.ofNat 17 ((s.press p).physOf n))
    let set := if from' then !r.tableNow else r.tableNow
    let (bodies, s) := match (if from' then ream else none) with
      | some x => readSections v x (tableSections x) (countExact v 3 (sectionBytes (tableSections x)) s)
      | none => ([], s)
    let tables := loadTables bodies
    let known := if r.epochs.any fun e => decide (e.1 = r.currentEpoch) then r.epochs
      else (r.currentEpoch, r.tableNow) :: r.epochs
    let s := s.updVat v fun r =>
      { r with
        incomingEpoch := some epoch
        swap := { active := true, epoch := epoch, fromPending := from', edition := edition, todo := todo
                  stippleTodo := ps.flatMap fun p => (([0, 1] : List Macro).filter fun m =>
                    ream.any fun x => hasStipple x edition (s.press p).vatPress m).map fun m => (Fin.ofNat 68 p, m) }
        tableSet0 := if from' ∧ !set then tables else r.tableSet0
        tableSet1 := if from' ∧ set then tables else r.tableSet1
        epochs := (epoch, set) :: known.filter fun e => decide (e.1 ≠ epoch) && (!from' || decide (e.2 ≠ set)) }
    (resOk, advanceSwap v (ps.foldl (fun t p => suspendForSwap p t) s))

end Sys2Proof.Machine
end

