-- ==== Sys2Proof/Machine/Stipple.lean ====
section
/-! DEFINITION. Stipple.lean: stipple jobs, row-group loads, drains and the scrubber (05 R151 to R176, R182 to R184; 07
R228 to R231). -/

namespace Sys2Proof.Machine

/-- The job in slot k of press p while it is RUNNING. -/
def runningSlot (s : State) (p k : Nat) : Option Job := ((s.press p).slot k).filter fun j => decide (j.state = .running)

/-! ## Stipple jobs (R155, R182, R228, R231) -/

/-- The input codes of a token and s_x (R182): as stored, or formed by R114 with α infinite and z 0. -/
def stippleCodes (j : Job) (els : List (BitVec 16)) (stored : BitVec 16) : List Int × BitVec 16 :=
  if j.desc.scaleSource = 0 then
    let fmt := bitOf j.desc.inputBf16
    let sx := tokenScale (quantMax fmt els fun _ => false) 0x7C00 127
    (els.map fun w => quantCode (scaleFrac sx) 0 127 (elemVal fmt w), sx)
  else (els.map fun w => sext (if j.desc.stippleInput16 then 16 else 8) w.toNat, stored)

/-- Bits of an input code (R154). -/
def inputBits (j : Job) : Nat := if j.desc.stippleInput16 then 16 else 8

/-- The element bits that a stipple job reads (R226). -/
def elementBits (j : Job) : Nat := if j.desc.scaleSource = 0 ∨ j.desc.stippleInput16 then 16 else 8

/-- The unit U_c of a stipple job (R165, R182). -/
def macroUnit (x : MacroRec) (sx : BitVec 16) (c : Nat) : FVal := (h16 sx).mul (h16 (tget 0x3C00 x.scale c))

/-- The macros of a job with the number of their first output (R228). -/
def macroOutputs (d : Descriptor) : List (Nat × Nat) :=
  let ms := jobMacros d
  ((List.range ms.length).zip ms).map fun e => (e.2, 64 * e.1)

/-- The preload of the outputs of one macro for a token (R164, R165): 0 beyond N. -/
def lanePreload (j : Job) (x : MacroRec) (sx : BitVec 16) (bias rest : List Byte) (base c : Nat) : Int :=
  if base + c < j.n then preloadValue j.desc.preloadSelect.toNat bias rest (macroUnit x sx c) (base + c) else 0

/-- The input of token t of a stipple job. -/
def readLane (s : State) (p : Nat) (j : Job) (t : Nat) : Except ReadFail LaneIn :=
  match readToken s p j t (elementBits j) with
  | .error e => .error e
  | .ok (els, stored) =>
    match readRanges s p j (preloadRanges j t) with
    | .error e => .error e
    | .ok ls =>
      let (codes, sx) := stippleCodes j els stored
      .ok { codes := codes, sx := sx, bias := ls.getD 0 [], rest := ls.getD 1 [] }

/-- A lane runs in 16-bit mode: its job's mode, unless a wrap repeat runs it (R162, R175). -/
def LaneRun.mode16 (r : LaneRun) (j : Job) : Bool := j.desc.accMode16 && !r.wide

/-- The input bits that the registers of a lane of a macro take, in order of issue: place group x bits + b (R151, R154,
R173). -/
def LaneRun.places (x : MacroRec) (j : Job) (r : LaneRun) : List Nat :=
  r.span.getD (List.range ((issueGroups x j.k (r.mode16 j)).length * inputBits j))

/-- A lane of a macro has issued its last input bit. -/
def LaneRun.done (x : MacroRec) (j : Job) (r : LaneRun) : Bool := decide ((r.places x j).length ≤ r.issued)

/-- The registers of a lane as they take the preload, their first add (R164 to R166, R174). -/
def preloadLane (x : MacroRec) (j : Job) (l : LaneIn) (base : Nat) (r : LaneRun) (atLimit : Bool) : List Acc :=
  (List.range 64).map fun c =>
    let v := rneDiv (lanePreload j x l.sx l.bias l.rest base c) (2 ^ r.shift)
    if r.mode16 j then accAdd16 { shift := r.shift } v else accAdd32 atLimit { shift := r.shift } v

/-- A list of runs with the one of macro number i of the job replaced. -/
def setRun (p : Nat) (k : Slot) (lane i : Nat) (r : LaneRun) (s : State) : State :=
  s.updJob p k fun j => { j with batch := ((List.range j.batch.length).zip j.batch).map fun e =>
    if e.1 = lane then { e.2 with runs := lset e.2.runs i r } else e.2 }

/-- The span of a lane of a macro begins, or begins again: its registers are 0, and its first input bit will bring the
preload with it where that falls in the span (R166, R173). -/
def beginLane (p : Nat) (k : Slot) (lane i m : Nat) (r : LaneRun) (s : State) : State :=
  setRun p k lane i { r with issued := 0, out := none } (s.updMacro p m (clearRegisters lane r.shift))

/-- The registers of a lane have lost what they held: their span is what is still to be issued (R168, R171). -/
def LaneRun.cleared (x : MacroRec) (j : Job) (r : LaneRun) : LaneRun :=
  { r with span := some ((r.places x j).drop r.issued), bare := r.bare || decide (0 < r.issued), issued := 0 }

/-- The run of a lane in 32-bit mode (R175). -/
def LaneRun.widened (x : MacroRec) (j : Job) (r : LaneRun) : LaneRun :=
  { r with wide := true, span := if r.mode16 j then r.span.map (widenSpan x j.k (inputBits j)) else r.span }

/-- The span of a lane is repeated from its inputs, which the press reads again from their sources (R173), after `then'` has
changed the state; s is the state before what led to the repeat, in which all stays while a copy holds the read (R298). -/
def repeatSpan (p : Nat) (k : Slot) (j : Job) (lane i m : Nat) (l : StippleLane) (r : LaneRun) (s then' : State) : State :=
  match readLane s p j l.token with
  | .error .held => s
  | .error e => failRead p k l.token e then'
  | .ok input =>
    let t := (countInput p j l.token then').updJob p k fun j => { j with
      batch := ((List.range j.batch.length).zip j.batch).map fun e => if e.1 = lane then { e.2 with input := input } else e.2 }
    beginLane p k lane i m r t

/-- The tokens of the next batch: up to eight, one in OZ4030-compatible order, within one streamed block (R155, R231,
R276). -/
def batchTokens (s : State) (p : Nat) (j : Job) : List Nat :=
  let per := max 1 (blockTokens (inStride s p j))
  let inBlock := if j.desc.scaleSource = 2 then per - absToken j j.next % per else 8
  (List.range (min (if j.desc.oz4030 then 1 else 8) (min inBlock (j.m - j.next)))).map (j.next + ·)

/-- The inputs of a list of tokens. -/
def readLanes (s : State) (p : Nat) (j : Job) : List Nat → Except ReadFail (List LaneIn)
  | [] => .ok []
  | t :: r =>
    match readLane s p j t with
    | .error e => .error e
    | .ok l =>
      match readLanes s p j r with
      | .error e => .error e
      | .ok ls => .ok (l :: ls)

/-- The macros of a job with their positions and the numbers of their first outputs. -/
def macroPlaces (d : Descriptor) : List (Nat × Nat × Nat) :=
  ((List.range (macroOutputs d).length).zip (macroOutputs d)).map fun e => (e.1, e.2.1, e.2.2)

/-- The outputs of a job on the macro whose first output is number base. -/
def laneWidth (j : Job) (base : Nat) : Nat := min 64 (j.n - base)

/-- The next batch of tokens of a stipple job enters its lanes (R155, R166, R172). -/
def beginBatch (p : Nat) (k : Slot) (j : Job) (s : State) : State :=
  let ts := batchTokens s p j
  match readLanes s p j ts with
  | .error e => failRead p k j.next e s
  | .ok ls =>
    let places := macroPlaces j.desc
    let shifts := fun (t : Nat) => places.map fun e => startShift (s.press p) j t e.2.2 (laneWidth j e.2.2)
    let batch := (ts.zip ls).map fun e => ({ token := e.1, input := e.2, runs := (shifts e.1).map fun sh => { shift := sh } } : StippleLane)
    let s := s.updJob p k fun j => { j with next := j.next + ts.length, batch := batch }
    forL ((List.range batch.length).zip batch) (fun e t =>
      let t := countInput p j e.2.token t
      forL (places.zip e.2.runs) (fun x u =>
        beginLane p k e.1 x.1.1 x.1.2.1 x.2
          (alignFelt p j e.2.token x.1.2.2 (laneWidth j x.1.2.2) x.2.shift u)) t) s

/-- The overflow repeat of a lane (R174, R176): its felt entries are divided and its span is repeated with a larger
AccShift, in 32-bit mode whatever the mode of the run that left the range (DESIGN CHOICE; assumption 84). -/
def repeatLane (p : Nat) (k : Slot) (j : Job) (lane i m base : Nat) (l : StippleLane) (r : LaneRun) (s then' : State) : State :=
  let r' := { r.widened ((s.press p).macro' m) j with shift := r.shift + 1 }
  repeatSpan p k j lane i m l r' s (beginRepeat p k j l.token base (laneWidth j base) r'.shift then')

/-- One input bit of a lane is issued on a macro (R154, R161, R162): its registers take its terms, after the preload with
the first bit of a token (R166), and the last bit of a row group makes a contribution (R171). An add that leaves the range
starts the overflow repeat (R174), or saturates at the limit (R176). -/
def issueBit (p : Nat) (k : Slot) (j : Job) (lane i m base : Nat) (l : StippleLane) (r : LaneRun) (s : State) : State :=
  let x := (s.press p).macro' m
  let bits := inputBits j
  let place := lget 0 (r.places x j) r.issued
  let rows := lget [] (issueGroups x j.k (r.mode16 j)) (place / bits)
  let code := fun (n : Nat) => rneDiv (lget 0 l.input.codes n) (2 ^ r.shift)
  let atLimit := atRepeatLimit s r.shift
  let old := if r.issued = 0 ∧ !r.bare then preloadLane x j l.input base r atLimit else laneRegisters x lane
  let new := addBit (r.mode16 j) atLimit x rows code bits (place % bits) old
  let sats := if !r.mode16 j ∧ atLimit then
      (((List.range 64).zip old).filter fun e => leaves32 e.2 (bitTerm x rows code bits e.1 (place % bits))).length
    else 0
  let t := countExact j.desc.vat.toNat 1 1 (charge p (.bit (r.mode16 j)) 1 s)
  let t := t.updPress p fun q => (busyMacro m false (r.mode16 j) q).updMacro m (setLane lane new)
  let t := accSaturates p k 1 sats (setRun p k lane i { r with issued := r.issued + 1 } t)
  if new.any Acc.ovf then repeatLane p k j lane i m base l r s t else t

/-- The lane whose next input bit a macro issues: the first that has bits left (R155). -/
def nextLane (x : MacroRec) (j : Job) (i : Nat) : Option (Nat × StippleLane × LaneRun) :=
  (((List.range j.batch.length).zip j.batch).find? fun e =>
    let r := lget {} e.2.runs i
    r.out.isNone && !r.done x j).map fun e => (e.1, e.2, lget {} e.2.runs i)

/-- Every lane of a job's batch has issued its input bits on every macro. -/
def bitsDone (r : PressRec) (j : Job) : Bool := (macroPlaces j.desc).all fun e => (nextLane (r.macro' e.2.1) j e.1).isNone

/-- A lane of a macro is drained (R168, R171, R172, R175): a wrapped lane is repeated in 32-bit mode, one whose felt add
left its range with a larger AccShift; the rest leaves its sums, and its registers are 0. Only the registers of the job's N
outputs start the wrap repeat, while an overflow in any of the 64 starts that repeat (DESIGN CHOICE; assumption 98). -/
def drainMacroLane (p : Nat) (k : Slot) (j : Job) (kind : DrainKind) (lane i m base : Nat) (l : StippleLane) (r : LaneRun)
    (s : State) : State :=
  let x := (s.press p).macro' m
  let used := (laneRegisters x lane).take (laneWidth j base)
  let atLimit := atRepeatLimit s r.shift
  let t := countWait p 7 s
  if r.mode16 j ∧ used.any Acc.wraps then
    repeatSpan p k j lane i m l (r.widened x j) s (t.updPress p fun q => { q with wrapRepeats := satInc q.wrapRepeats })
  else
    let ds := ((List.range used.length).zip used).map fun e => drainReg (s.press p) j kind atLimit l.token (base + e.1) e.2
    if !atLimit ∧ ds.any Drained.left then
      repeatLane p k j lane i m base l r s (markOverflow p j l.token base ds t)
    else
      let t := t.updMacro p m (clearRegisters lane r.shift)
      let t := writeFelt p k j l.token base ds (accSaturates p k 1 (ds.filter Drained.left).length t)
      setRun p k lane i (match kind with
        | .spill => r.cleared x j
        | .final => { r with out := some (ds.map Drained.sum) }) t

/-- A lane of a macro spills when its registers have taken SpillInterval contributions since they were last cleared and the
job accumulates in felt (R171). -/
def spillFull (p : Nat) (k : Slot) (lane i m base : Nat) (s : State) : State :=
  match runningJob s p k opStipple with
  | none => s
  | some j =>
    match j.batch[lane]? with
    | none => s
    | some l =>
      let full := (laneRegisters ((s.press p).macro' m) lane).any fun a => decide (s.settings.spillInterval.toNat ≤ a.contrib)
      if usesFelt j ∧ full then drainMacroLane p k j .spill lane i m base l (lget {} l.runs i) s else s

/-- Macro m, number i of the running stipple job in slot k, issues its next input bit once the governor admits it (R38,
R155, R157). -/
def issueMacro (p : Nat) (k : Slot) (i m base : Nat) (s : State) : State :=
  match runningJob s p k opStipple with
  | none => s
  | some j =>
    match nextLane ((s.press p).macro' m) j i with
    | none => s
    | some (lane, l, r) =>
      if admits s p (.bit (r.mode16 j)) 1 then spillFull p k lane i m base (issueBit p k j lane i m base l r s)
      else refuse p (17 + m) (.bit (r.mode16 j)) 1 s

/-- Each macro of the running stipple job in slot k issues its next input bit (R157, R228, R234); with no token on its lanes
the next batch begins. -/
def issueBits (p : Nat) (k : Slot) (s : State) : State :=
  match runningJob s p k opStipple with
  | none => s
  | some j =>
    let ms := jobMacros j.desc
    if ms.any fun m => decide (((s.press p).macro' m).state = .failed) then
      stopJob p k (fun j => { j with internal := true }) s
    else if ms.any (macroWaits s p j) then s
    else if j.batch = [] then
      if j.m ≤ j.next ∨ j.scaleSkew ∨ j.sealFail ∨ (j.desc.claimed ∧ j.chunk = none) ∨
          (j.desc.scaleSource = 2 ∧ !tileReady s p j) then s
      else beginBatch p k j s
    else
      let s := forL (macroPlaces j.desc) (fun e t => issueMacro p k e.1 e.2.1 e.2.2 t) s
      s.updJob p k fun j => { j with draining := decide (j.state = .running) && bitsDone (s.press p) j }

/-- STIPPLE: the job in slot k starts when its waits are over, takes its next batch of tokens, and issues its input bits
(R228, R231, R234). -/
def execStipple (p : Press) (k : Slot) (s : State) : Out :=
  let s := startJob opStipple (fun s p j => !(jobMacros j.desc).any (macroWaits s p j)) p k s
  match runningJob s p k opStipple with
  | none => .next s
  | some j => .next (issueBits p k (if j.desc.scaleSource = 2 ∧ j.batch = [] then readChannels p k s else s))

/-! ## The final drain (R167 to R176, R182) -/

/-- The bytes of a token's outputs from the macro output unit (R182). -/
def stippleOutput (r : PressRec) (j : Job) (sx : BitVec 16) (vs : List Summed) : List Byte × Bool :=
  let d := j.desc
  let mac := fun (n : Nat) => r.macro' (((macroOutputs d).find? fun e => decide (e.2 ≤ n ∧ n < e.2 + 64)).map Prod.fst |>.getD 0)
  let idx := (List.range vs.length).zip vs
  if d.outputFormat = 6 then
    let ws := idx.map fun e => partialOf (e.2.value * (2 ^ e.2.shift : Nat)) e.2.shift e.2.sat
    (ws.flatMap fun w => leBytes 8 w.1.toNat, ws.any Prod.snd)
  else
    (tokenBytes d.outputFormat.toNat (idx.map fun e =>
      rneSat16 ((fInt (e.2.value * (2 ^ e.2.shift : Nat))).mul (macroUnit (mac e.1) sx (e.1 % 64)))), false)

/-- A lane of the batch is drained on each macro where it has not been (R168). A KEEP job's registers spill: its lanes go to
other tokens, or the job ends (R171). -/
def drainBatchLane (p : Nat) (k : Slot) (lane : Nat) (s : State) : State :=
  match (s.press p).slot k with
  | none => s
  | some j =>
    match j.batch[lane]? with
    | none => s
    | some l =>
      forL (macroPlaces j.desc) (fun e t =>
        let r := lget {} l.runs e.1
        if r.out.isSome then t
        else
          match runningSlot t p k with
          | none => t
          | some j => drainMacroLane p k j .final lane e.1 e.2.1 e.2.2 l r t) s

/-- The token of a lane whose registers have been drained on every macro has its outputs written (R182). A token in which
PARTIAL sums saturate counts as one saturated add (DESIGN CHOICE; assumption 98). -/
def writeToken (p : Nat) (k : Slot) (l : StippleLane) (s : State) : State :=
  match (s.press p).slot k with
  | none => s
  | some j =>
    if j.state ≠ .running then s
    else if j.desc.feltMode = 2 then tokenDone p k l.token s
    else
      let (bytes, sat) := stippleOutput (s.press p) j l.input.sx (l.runs.flatMap fun r => r.out.getD [])
      tokenDone p k l.token (writeOut p k (outAddr j l.token) bytes (accSaturates p k 1 (if sat then 1 else 0) s))

/-- The final drain of a batch: its lanes are drained, and when none is repeated its tokens are written and leave the lanes. -/
def drainBatch (p : Nat) (k : Slot) (s : State) : State :=
  match (s.press p).slot k with
  | none => s
  | some j =>
    let s := forN j.batch.length (fun lane t => drainBatchLane p k lane t) s
    match (s.press p).slot k with
    | none => s
    | some j =>
      if j.batch.all fun l => l.runs.all fun r => r.out.isSome then
        forL j.batch (writeToken p k) (s.updJob p k fun j => { j with draining := false, batch := [] })
      else s.updJob p k fun j => { j with draining := false }

/-- DRAIN_REGISTER_READ: an accepted drain reads its registers (R168): the final and spill drains of a PLATE job's lanes and
of a STIPPLE job's batch, or a drain job. -/
def execDrainRegisterRead (p : Press) (k : Slot) (s : State) : Out :=
  match (s.press p).slot k with
  | none => .next s
  | some j =>
    if j.state ≠ .running ∨ !pressCommits s p then .next s
    else if j.desc.opcode = opPlate then .next (drainPlates p k s)
    else if !j.draining then .next s
    else if j.desc.opcode = opStipple then .next (drainBatch p k s)
    else
      let bytes := j.drainWords.flatMap fun w => leBytes 8 w.toNat
      .next (finishJob p k (writeOut p k (daddr j.desc.dstAddress) bytes (s.updJob p k fun j => { j with drainWords := [] })))

/-! ## Drain jobs (R168, R230) -/

/-- The bank whose OutputAcc lanes a drain job names: BO for a couch (R230). -/
def drainBank (r : PressRec) (d : Descriptor) : Nat :=
  let n := d.plateFirst.toNat
  r.physOf (if r.couchOf n = .none then n else n / 2 * 2 + 1)

/-- The words that a drain job reads (R230): AccReg of each named macro, or both lanes of an output stage. -/
def drainTarget (r : PressRec) (d : Descriptor) : List (BitVec 64) :=
  if d.macroSet = 0 then tgetN 0 (r.bank (drainBank r d)).outputAcc 0 1024
  else (jobMacros d).flatMap fun m => tgetN 0 (r.macro' m).acc 0 512

/-- A register that DRAIN_CLEAR has read: 0, under the AccShift of its lane (R168, R174). -/
def clearWord (w : BitVec 64) : BitVec 64 := packAcc { shift := (unpackAcc w).shift }

/-- The jobs of a press whose reductions run on macro m begin their spans again there after what has been read (R168,
R173). -/
def clearSpans (x : MacroRec) (m : Nat) (j : Job) : Job :=
  if j.state ≠ .running ∨ (j.desc.opcode ≠ opPlate ∧ j.desc.opcode ≠ opStipple) then j
  else if j.desc.opcode = opPlate then
    { j with operandRuns := j.operandRuns.map fun r => if r.mac = m ∧ r.started then r.cleared x j else r }
  else
    let places := (macroPlaces j.desc).filter fun e => decide (e.2.1 = m)
    { j with batch := j.batch.map fun l => { l with
        runs := places.foldl (fun rs e =>
          let r := lget {} rs e.1
          if r.out.isSome then rs else lset rs e.1 (r.cleared x j)) l.runs } }

/-- What a drain job read is cleared (R168). -/
def clearTarget (p : Nat) (d : Descriptor) (s : State) : State :=
  if d.macroSet = 0 then
    s.updBank p (drainBank (s.press p) d) fun b => { b with outputAcc := tmap 0 (fun _ w => clearWord w) b.outputAcc }
  else
    forL (jobMacros d) (fun m t =>
      let x := (t.press p).macro' m
      (t.updMacro p m fun x => { x with acc := tmap 0 (fun _ w => clearWord w) x.acc }).updPress p fun r =>
        { r with slots := tmap none (fun _ o => o.map (clearSpans x m)) r.slots }) s

/-- A drain job starts and its drain is accepted; `since` is a - i of R168, so W is 8 - since within 0 to 7. -/
def acceptDrain (op : BitVec 8) (clear : Bool) (p : Press) (k : Slot) (since : Nat) (s : State) : State :=
  let s := startJob op (fun _ _ _ => true) p k s
  match runningJob s p k op with
  | none => s
  | some j =>
    if j.draining then s
    else
      let w := if j.desc.macroSet = 0 then 0 else min 7 (8 - since)
      let s := s.updJob p k fun j => { j with draining := true, drainWait := w, drainWords := drainTarget (s.press p) j.desc }
      let s := countWait p w s
      if clear then clearTarget p j.desc s else s

/-- DRAIN_READ: registers are read and keep their values (R168, R230). -/
def execDrainRead (p : Press) (k : Slot) (since : Nat) (s : State) : Out := .next (acceptDrain opDrainRead false p k since s)

/-- DRAIN_CLEAR: registers are read and cleared (R168, R230). -/
def execDrainClear (p : Press) (k : Slot) (since : Nat) (s : State) : Out := .next (acceptDrain opDrainClear true p k since s)

/-! ## Loads (R153, R229) -/

/-- The sources of the groups that a load names, in ascending order (R229): group, INT4, address. -/
def loadSources (j : Job) : List (Nat × Bool × Nat) :=
  let gs := maskGroups (j.desc.n.toNat % 16)
  ((List.range gs.length).zip gs).map fun e => (e.2, nbit j.desc.n.toNat (4 + e.2), j.desc.srcAddress.toNat + 16384 * e.1)

/-- No job placed earlier uses a named group (R229). -/
def loadMayStart (s : State) (p : Nat) (j : Job) : Bool :=
  (jobMacros j.desc).all fun m =>
    (earlier (s.press p) j).all fun e => !((jobGroups s p e.2 m).any fun g => (jobGroups s p j m).contains g)

/-- MACRO_LOAD: the load in slot k starts and reads its groups (R229); ROW_GROUP_LOAD_DONE ends each. -/
def execMacroLoad (p : Press) (k : Slot) (s : State) : Out :=
  let s := startJob opMacroLoad loadMayStart p k s
  match runningJob s p k opMacroLoad with
  | none => .next s
  | some j =>
    let src := loadSources j
    if j.loading then .next s
    else if src = [] then .next (finishJob p k s)
    else
      match readRanges s p j (src.map fun e => ⟨parseAddr e.2.2, 16384, .input⟩) with
      | .error .held => .next s
      | .error e => .next (finishJob p k (readFailed p k e s))
      | .ok ls =>
        let s := countExact j.desc.vat.toNat 3 (((src.map fun e => pkgBytes (parseAddr e.2.2) 16384)).foldl (· + ·) 0) s
        let m := if j.desc.macroSet = 2 then 1 else 0
        let s := forL (src.zip ls) (fun e t => t.updPress p (startRowLoad m e.1.1
          { vat := j.desc.vat.setWidth 8, format := BitVec.ofNat 8 (bitOf e.1.2.1), source := BitVec.ofNat 64 e.1.2.2 } e.2)) s
        .next (s.updJob p k fun j => { j with loading := true })

/-- The loads of a press whose groups have all been loaded complete (R229). -/
def finishLoads (p : Nat) (s : State) : State :=
  forL (s.press p).jobs (fun e t =>
    let waits := (jobMacros e.2.desc).any fun m =>
      (maskGroups (e.2.desc.n.toNat % 16)).any fun g => nbit ((t.press p).macro' m).loading.toNat g
    if e.2.state = .running ∧ e.2.desc.opcode = opMacroLoad ∧ e.2.loading ∧ !waits then finishJob p e.1 t else t) s

/-- ROW_GROUP_LOAD_DONE: the last cell of a row group has been written (R153, R229, R326 step 3). -/
def execRowGroupLoadDone (p : Press) (m : Macro) (g : Fin 4) (s : State) : Out :=
  if nbit ((s.press p).macro' m).loading.toNat g then
    .next (advanceSwaps (finishLoads p (s.updPress p (endRowLoad m g))))
  else .next s

/-! ## The scrubber (R183, R184) -/

/-- The staged section that is the source of a row group, with its ream. -/
def recordSection (s : State) (p m g : Nat) (rec' : LoadRecord) : Option (Ream × Section) :=
  rec'.staged.bind fun e =>
    ((s.vat rec'.vat.toNat).reams.find? fun x => decide (x.digest = e.1)).bind fun x =>
      (x.find 5 e.2 (s.press p).vatPress (4 * m + g)).map fun y => (x, y)

/-- A page of a row group's source is under copy: the reload waits for it (R298 step 2). -/
def recordHeld (s : State) (p m g : Nat) (rec' : LoadRecord) : Bool :=
  let v := rec'.vat.toNat
  match rec'.staged with
  | some _ => (recordSection s p m g rec').any fun e => sectionHeld s v e.1 e.2
  | none =>
    match parseAddr rec'.source.toNat with
    | .package a => s.copying v a 16384
    | _ => false

/-- The bytes at a row group's source and the bytes of vat traffic that reading them takes, none where they no longer belong
to the vat or a word of them is uncorrectable, and what the read does to the hubs (R184, R283, R284, R296, R297). -/
def readRecord (p m g : Nat) (rec' : LoadRecord) (s : State) : Option (List Byte × Nat) × State :=
  let v := rec'.vat.toNat
  if s.pressVat p ≠ some v then (none, s)
  else
    match rec'.staged with
    | some _ =>
      match recordSection s p m g rec' with
      | none => (none, s)
      | some (x, y) =>
        let read := readSection s v x y
        (if read.lost.isNone && read.bad.isEmpty then some (read.body, 16384) else none, stagedFaults read s)
    | none =>
      match parseAddr rec'.source.toNat with
      | .scratch _ o => (some (tgetN 0 (s.press p).scratch o 16384, 0), s)
      | .package a =>
        if (s.badPage v a 16384).isSome then (none, s)
        else
          match s.badWord v a 16384 with
          | some f => (none, uncorrectableError f s)
          | none => (some (s.pkgRead v a 16384, 16384), s)
      | _ => (none, s)

/-- An uncorrectable word is found in row group g of a macro (R184): it reloads the group. -/
def needReload (g : Nat) (x : MacroRec) : MacroRec :=
  if x.state = .failed ∨ x.reload.contains g then x else { x with state := .reloading, reload := x.reload ++ [g] }

/-- SCRUB_ROW: the scrubber reads one row, eight words, each with what its check bits show (R183, R184). -/
def execScrubRow (p : Press) (m : Macro) (es : List Ecc) (s : State) : Out :=
  let row := ((s.press p).macro' m).scrubRow
  let count := fun (e : Ecc) => ((es.take 8).filter fun x => decide (x = e)).length
  let s := s.updMacro p m fun x => { x with scrubRow := (row + 1) % 1024 }
  let s := s.updPress p fun r =>
    { r with eccCorrected := satAdd r.eccCorrected (count .single), eccUncorrected := satAdd r.eccUncorrected (count .double) }
  let s := forN (count .double) (fun _ t => raise evStippleEcc (some p) (some m) (t.pressVat p) (leBytes 2 row) t) s
  .next (if count .double = 0 then s else s.updMacro p m (needReload (row / 256)))

/-- The tokens of the running stipple jobs that use row group g of macro m and whose spans there are not drained: slot, job,
lane, number of the macro, lane of tokens, its run. -/
def openSpans (s : State) (p m g : Nat) : List (Nat × Job × Nat × Nat × StippleLane × LaneRun) :=
  ((s.press p).jobs.filter fun e => decide (e.2.state = .running ∧ e.2.desc.opcode = opStipple) &&
      (jobGroups s p e.2 m).contains g).flatMap fun e =>
    ((macroPlaces e.2.desc).filter fun x => decide (x.2.1 = m)).flatMap fun x =>
      ((List.range e.2.batch.length).zip e.2.batch).filterMap fun b =>
        let r := lget {} b.2.runs x.1
        if r.out.isSome then none else some (e.1, e.2, b.1, x.1, b.2, r)

/-- Spans on a reloaded row group that are not yet drained are repeated (R173, R184); what has been spilled is outside. -/
def repeatSpans (p m g : Nat) (s : State) : State :=
  let s := forL (openSpans s p m g) (fun (k, j, lane, i, l, r) t =>
    if (runningSlot t p k).isNone then t
    else (repeatSpan p (Fin.ofNat 128 k) j lane i m l r t t).updJob p k fun j => { j with draining := false }) s
  s.updPress p fun q => { q with slots := tmap none (fun _ o => o.map fun j =>
    { j with operandRuns := j.operandRuns.map fun r =>
        let uses := if r.whole then groupBase (q.macro' m) g < r.codes.length else r.group = g
        if r.mac = m ∧ uses ∧ r.started then r.restart else r }) q.slots }

/-- The inputs of a span that a reload of row group g of macro m repeats are under copy (R173, R298 step 2). -/
def spansHeld (s : State) (p m g : Nat) : Bool :=
  (openSpans s p m g).any fun e =>
    match readLane s p e.2.1 e.2.2.2.2.1.token with
    | .error .held => true
    | _ => false

/-- STIPPLE_RELOAD_DONE: the reload of a row group ends (R184): undrained spans are repeated and the next group that needs
it is reloaded, or the macro is FAILED and its press is retired (R438). A row group that no load has filled has no source. A
reload whose source, or a span of which an input, is under copy goes on when the copy has ended (R298). -/
def execStippleReloadDone (p : Press) (m : Macro) (ok : Bool) (s : State) : Out :=
  let x := (s.press p).macro' m
  match x.state, x.reload with
  | .reloading, g :: rest =>
    let rec' := tget {} x.records g
    let reads := ok && nbit x.valid.toNat g
    if reads && (recordHeld s p m g rec' || spansHeld s p m g) then .next s
    else
      let (got, s) := if reads then readRecord p m g rec' s else (none, s)
      match got with
      | some (l, n) =>
        let s := countExact rec'.vat.toNat 3 n s
        let s := s.updMacro p m fun x =>
          { x with state := if rest = [] then .busy else .reloading, reload := rest
                   weights := tputL 0 x.weights (16384 * g) (lpad 0 16384 l) }
        .next ((repeatSpans p m g s).updPress p settleMacros)
      | none =>
        let s := s.updMacro p m fun x => { x with state := .failed, reload := [] }
        .next (retirePress p 3 (raise evMacroFailed (some p) (some m) (s.pressVat p) (leBytes 1 g) s))
  | _, _ => .next s

end Sys2Proof.Machine
end

