-- ==== Sys2Proof/Machine/Avail.lean ====
section
/-! DEFINITION. Avail.lean: press commands and the engagement of a spare press (14 R438 to R446). -/

namespace Sys2Proof.Machine

/-- RESET_DONE is raised (R463). -/
def raiseResetDone (press vat : Option Nat) (kind ms : Nat) (s : State) : State :=
  raise evResetDone press none vat (leBytes 1 kind ++ [0, 0, 0] ++ leBytes 4 ms) s

/-- A PressCommand RESET (R444, R446). -/
def pressReset (p ms : Nat) (s : State) : Byte × State :=
  let r := s.press p
  let busy : Bool := match r.vat with
    | some v => decide ((s.vat v.val).state = .pulping ∨ (s.vat v.val).state = .resetting)
    | none => false
  if r.state ≠ .active ∨ busy ∨ s.dev.state = .deviceReset then (resState, s)
  else
    let s := stopJobs p (fun _ => true) (fun j => { j with internal := true }) s
    let s := claimsOfPress (Fin.ofNat 68 p) s
    let s := s.updPress p fun r => clearPressCounters (zeroData r)
    (resOk, raiseResetDone (some p) (s.pressVat p) 3 ms (countReset 2 (reseed p s)))

/-- A PressCommand RETIRE (R438). -/
def retireCommand (p : Nat) (s : State) : Byte × State :=
  let st := (s.press p).state
  if st = .engaging ∨ st = .retiring ∨ st = .retired then (resState, s) else (resOk, retirePress p 4 s)

/-! ## Engagement (R439 steps 6 to 8, R440) -/

/-- The row groups that were valid on a press are loaded into its replacement from the sources of their LoadRecords; a
group whose source no longer belongs to the vat stays invalid. -/
def loadFromRecords (old new : Nat) (s : State) : State :=
  let r := s.press old
  forN 2 (fun m t =>
    let x := r.macro' m
    let t := t.updMacro new m fun z => { z with scale := x.scale, downScale := x.downScale }
    forN 4 (fun g t =>
      if nbit x.valid.toNat g || nbit x.loading.toNat g then
        let (got, t) := readRecord new m g (tget {} x.records g) t
        match got with
        | some (l, n) =>
          (countExact (tget {} x.records g).vat.toNat 3 n t).updPress new (startRowLoad m g (tget {} x.records g) l)
        | none => t
      else t) t) s

/-- A page of a source that the replacement of a press loads is under copy (R298 step 2). -/
def recordsHeld (s : State) (old new : Nat) : Bool :=
  (List.range 2).any fun m =>
    let x := (s.press old).macro' m
    (List.range 4).any fun g => (nbit x.valid.toNat g || nbit x.loading.toNat g) && recordHeld s new m g (tget {} x.records g)

/-- ENGAGE_CHECK_DONE: the spare's SRAM test and its foreground calibration end, with the slices that failed and the trims
that it set (R100, R439 steps 6 and 7). What it loads from a page under copy waits for the copy (R298). -/
def execEngageCheckDone (p : Press) (c : EngageCheck) (s : State) : Out :=
  let r := s.press p
  match r.engagingFor with
  | none => .next s
  | some old =>
    if r.state ≠ .engaging ∨ r.engageChecked ∨ (c.ok ∧ recordsHeld s old p) then .next s
    else if !c.ok ∨ calFails r c.fails then .next (failEngaging p 5 s)
    else
      let s := failSlices p c.fails (setTrims p c.trims (s.updPress p fun r => { r with engageChecked := true }))
      let s := forL r.engageTodo (fun e t =>
        askPower { cls := 2, press := p, plate := e.1, purpose := .engage, content := some e.2 } t) s
      .next (if (r.vat.any fun v => decide ((s.vat v.val).state = .serving)) then loadFromRecords old p s else s)

/-- A spare has engraved its plates and loaded its macros (R439 step 7). -/
def engageReady (s : State) (p : Nat) : Bool :=
  let r := s.press p
  decide (r.state = .engaging) && r.engageChecked && r.engraving.isNone &&
    (s.engQueue.all fun e => decide (e.press.val ≠ p)) && (List.range 2).all fun m => decide ((r.macro' m).loading = 0)

/-- SPARE_ENGAGEMENT_DONE: the spare takes the retired press's place, and its spare slices shadow (R97, R439 step 8). -/
def execSpareEngagementDone (p : Press) (ms : Nat) (s : State) : Out :=
  let r := s.press p
  match r.engagingFor, r.vat with
  | some old, some v =>
    if !engageReady s p then .next s
    else
      let e := r.vatPress
      let s := s.updVat v.val fun z => { z with pressMap := tput 0xFF z.pressMap e (BitVec.ofNat 8 p.val) }
      let s := s.updPress p fun r =>
        { serviceBanks r with
          state := .active, engagingFor := none, engageChecked := false, engageTodo := []
          rotation := if rotationHeld s p then .suspended else r.rotation }
      let s := s.updPress old fun r =>
        { r with state := .retired, clocked := false, replacement := none, vat := none, vatPress := 0x7F }
      let s := raise evSpareEngaged (some p) none (some v.val) (leBytes 1 old.val ++ leBytes 1 e ++ [0, 0] ++ leBytes 4 ms) s
      .next (advanceSwaps (raiseIfExhausted old (releaseHeld v.val e (debugStats s))))
  | _, _ => .next s

end Sys2Proof.Machine
end

