-- ==== Sys2Proof/Machine/Can.lean ====
section
/-! DEFINITION. Can.lean: frames on the CAN FD bus, the node-ID, NMT, the heartbeat, EMCY and bus-off (12 R372 to R377,
R398), and the closing of management sessions (12 R382). -/

namespace Sys2Proof.Machine

/-! ## Frames (R374) -/

/-- The controller may send: it has joined the bus, is not in restricted operation mode and is not bus-off (R372, R375). -/
def canSends (s : State) : Bool := s.dev.started && !s.mgmt.restricted && !s.mgmt.busOff

/-- A frame leaves the device in CAN FD base format; its identifier is a base plus the node-ID, and its bit rate switches
except in the heartbeat's (R372). -/
def sendFrame (base : Nat) (data : List Byte) (s : State) : State :=
  if canSends s then
    s.updMgmt fun m => { m with
      lastFrame := some { canId := base + m.nodeId.toNat, data := data, brs := decide (base ≠ 0x700) }
      framesSent := m.framesSent + 1 }
  else s

/-- The heartbeat's code of an NMT state (R377). -/
def nmtCode : NmtSt → Byte
  | .initialising => 0x00
  | .preOperational => 0x7F
  | .operational => 0x05
  | .stopped => 0x04

/-- The boot-up message is sent and the node enters PRE-OPERATIONAL (R376). -/
def bootUp (s : State) : State := (sendFrame 0x700 [0x00] s).updMgmt fun m => { m with nmt := .preOperational }

/-- A write of NodeId by the host physical function (R375). -/
def writeNodeId (n : Byte) (s : State) : Byte × State :=
  if !s.otp.hostAssigned ∨ s.mgmt.nodeIdWritten ∨ !s.mgmt.restricted then (resState, s)
  else if n.toNat < 1 ∨ 127 < n.toNat then (resRange, s)
  else (resOk, bootUp (s.updMgmt fun m => { m with nodeId := n, nodeIdWritten := true, restricted := false }))

/-! ## Sessions that end (R382) -/

/-- The ACTIVE session closes with a cause: its key is erased and the event raised. -/
def closeSession (cause : Nat) (s : State) : State :=
  match s.mgmt.active with
  | none => s
  | some x =>
    raise evSessionClosed none none none (leBytes 4 x.id.toNat ++ leBytes 1 cause)
      (s.updMgmt fun m => { m with active := none, failures := 0 })

/-! ## NMT (R376) -/

/-- An NMT command is received: the controller listens to classic base frames also in restricted operation mode, but only
a node that has sent its boot-up message takes commands (R375, R376). -/
def nmtListens (s : State) : Bool := decide (s.mgmt.nmt ≠ .initialising) && !s.mgmt.busOff

/-- NMT_START_REMOTE_NODE. -/
def execNmtStartRemoteNode (s : State) : Out :=
  .next (if nmtListens s then s.updMgmt fun m => { m with nmt := .operational } else s)

/-- NMT_ENTER_PRE_OPERATIONAL. -/
def execNmtEnterPreOperational (s : State) : Out :=
  .next (if nmtListens s then s.updMgmt fun m => { m with nmt := .preOperational } else s)

/-- NMT_STOP_REMOTE_NODE: a USDO transfer in progress ends with the node's answers. -/
def execNmtStopRemoteNode (s : State) : Out :=
  .next (if nmtListens s then s.updMgmt fun m => { m with nmt := .stopped, usdo := none, usdoUp := none } else s)

/-- Reset communication: pending bit timings and node-ID apply, the ACTIVE session ends, boot-up is sent (R373, R376). -/
def resetCommunication (s : State) : State :=
  if nmtListens s then
    let s := s.updMgmt fun m =>
      { m with nominalNow := s.settings.nominalBitTiming, dataNow := s.settings.dataBitTiming, usdo := none, usdoUp := none }
    bootUp (closeSession 6 s)
  else s

/-- NMT_RESET_COMMUNICATION. -/
def execNmtResetCommunication (s : State) : Out := .next (resetCommunication s)

/-- NMT_RESET_NODE acts as reset communication (R376). -/
def execNmtResetNode (s : State) : Out := .next (resetCommunication s)

/-! ## Heartbeat, EMCY and errors of the bus (R372, R377, R398, R399) -/

/-- HEARTBEAT: ProducerHeartbeatTime has passed; a value of 0 stops the heartbeat (R377). -/
def execHeartbeat (s : State) : Out :=
  .next (if s.settings.heartbeatTime = 0 ∨ s.mgmt.nmt = .initialising then s else sendFrame 0x700 [nmtCode s.mgmt.nmt] s)

/-- EMCY_SEND: the oldest queued event leaves as an EMCY frame (R398). -/
def execEmcySend (s : State) : Out :=
  match s.events.emcy with
  | [] => .next s
  | e :: rest =>
    if canSends s ∧ (s.mgmt.nmt = .preOperational ∨ s.mgmt.nmt = .operational) then
      .next ((sendFrame 0x080 (eventBytes e) s).updEvents fun x => { x with emcy := rest })
    else .next s

/-- CAN_BUS_ERROR: the controller's error counters take new values; a transmit counter above 255 is bus-off (R372,
ISO 11898-1). -/
def execCanBusError (tec : BitVec 9) (rec : BitVec 8) (s : State) : Out :=
  .next (s.updMgmt fun m => { m with tec := tec, recv := rec, busOff := m.busOff || decide (256 ≤ tec.toNat) })

/-- BUS_OFF_RECOVERY: 128 sequences of 11 recessive bits have passed (R372, R400). -/
def execBusOffRecovery (s : State) : Out :=
  if s.mgmt.busOff then
    let s := s.updMgmt fun m => { m with busOff := false, tec := 0, recv := 0, recoveries := satInc m.recoveries }
    .next (raise evCanBusOff none none none (leBytes 2 s.mgmt.recoveries.toNat) s)
  else .next s

end Sys2Proof.Machine
end

