-- ==== Sys2Proof/Machine/Vats.lean ====
section
/-! DEFINITION. Vats.lean: configuration, pulping, vat reset and debug (09 R291 to R293, R309; 11 R342 to R359; 14 R445). -/

namespace Sys2Proof.Machine

/-! ## Configuration (R291, R292, R344) -/

/-- The elements of a PressMap before its first 0xFF. -/
def mapPresses (r : VatRec) : List Nat :=
  ((List.range 64).map fun e => (tget 0xFF#8 r.pressMap e).toNat).takeWhile (· ≠ 0xFF)

/-- No number stands twice in a list. -/
def distinct : List Nat → Bool
  | [] => true
  | x :: r => !r.contains x && distinct r

/-- The other vats. -/
def otherVats (v : Nat) : List Nat := (List.range 8).filter (· ≠ v)

/-- The condition of R344 on PressMap: distinct active presses that no other vat names, then 0xFF to the end. -/
def pressMapOk (s : State) (v : Nat) : Bool :=
  let r := s.vat v
  let ps := mapPresses r
  decide (1 ≤ ps.length) && distinct ps &&
    ((List.range 64).all fun e => decide (e < ps.length) || decide (tget 0xFF#8 r.pressMap e = 0xFF)) &&
    ps.all fun p => decide (p < 68) && decide ((s.press p).state = .active) &&
      (otherVats v).all fun u => (List.range 64).all fun e => decide ((tget 0xFF#8 (s.vat u).pressMap e).toNat ≠ p)

/-- The ranges of this vat and of every vat that is not OFF hold frame f. -/
def rangeOf (r : VatRec) (f : Nat) : Bool := decide (r.quotaBase.toNat ≤ f ∧ f < r.quotaBase.toNat + r.quotaPages.toNat)

/-- Page frames that a set of disjoint ranges leaves outside. -/
def outsideFrames (rs : List VatRec) : Nat := 16711680 - (rs.map fun r => r.quotaPages.toNat).foldl (· + ·) 0

/-- The conditions of R291 on a vat's quota; the frame that a running copy fills is not free (R298). -/
def quotaOk (s : State) (v : Nat) : Bool :=
  let r := s.vat v
  let b := r.quotaBase.toNat
  let n := r.quotaPages.toNat
  let used := ((otherVats v).map s.vat).filter fun u => decide (u.state ≠ .off)
  decide (n = 0 ∨ (65536 ≤ b ∧ b + n ≤ 16777216)) &&
    (used.all fun u => decide (n = 0 ∨ u.quotaPages.toNat = 0 ∨ b + n ≤ u.quotaBase.toNat ∨
      u.quotaBase.toNat + u.quotaPages.toNat ≤ b)) &&
    decide (s.settings.replacementReserve.toNat ≤ outsideFrames (r :: used)) &&
    (s.hubs.map.all fun e => !rangeOf r e.1 || decide (e.2.state = .free ∨ e.2.state = .retired)) &&
    (s.hubs.copies.all fun c => !rangeOf r c.target) &&
    decide (r.stagingPages.toNat ≤ n)

/-- The condition of R344 on the stream range. -/
def streamRangeOk (s : State) (v : Nat) : Bool :=
  let r := s.vat v
  let b := r.streamBase.toNat
  let n := r.streamCount.toNat
  decide (1 ≤ n ∧ b + n ≤ 4096) && (otherVats v).all fun u =>
    let x := s.vat u
    decide (x.streamCount.toNat = 0 ∨ b + n ≤ x.streamBase.toNat ∨ x.streamBase.toNat + x.streamCount.toNat ≤ b)

/-- Numbers, counts and names of vat-relative presses given to the presses of a vat. -/
def takePresses (v : Nat) : List Nat → Nat → State → State
  | [], _, s => s
  | p :: r, e, s =>
    takePresses v r (e + 1) (s.updPress p fun x => { x with vat := some (Fin.ofNat 8 v), vatPress := e, clocked := true })

/-- A write of CONFIGURE (R291, R344). -/
def configureVat (v : Nat) (s : State) : Byte × State :=
  if (s.vat v).state ≠ .off ∨ s.dev.state = .deviceReset then (resState, s)
  else if !(pressMapOk s v && quotaOk s v && streamRangeOk s v) || decide ((s.vat v).tenantKey = 0) then (resRange, s)
  else
    let s := takePresses v (mapPresses (s.vat v)) 0 s
    (resOk, (s.updVat v fun r =>
      { r with state := .allocating, exact := [0, 0, 0, 0, 0], shown := [0, 0, 0, 0, 0], busy := [], powerTrace := []
               powerSum := 0 }).updHubs fun h => { h with everConfigured := true })

/-- The Use of a vat page (R292, R309). -/
def useOfPage (r : VatRec) (page : Nat) : PageUse :=
  if r.quotaPages.toNat ≤ page + r.stagingPages.toNat then .staging else .data

/-- Debug entry ends (R358 steps 4 and 5). -/
def enterDebug (v : Nat) (s : State) : State :=
  let s := debugStats (s.updVat v fun r => { r with debug := .active, debugCount := satInc r.debugCount })
  raise evDebugEntered none none (some v) (leBytes 2 (s.vat v).debugCount.toNat) s

/-- The plates of a vat's presses count as BLANK with the epoch 0x0000 (R344, R356). -/
def blankEpochs (v : Nat) (s : State) : State :=
  forL (s.vatPresses v) (fun p t => forN 17 (fun q u => u.updPlate p q fun y => { y with epoch := 0 }) t) s

/-- ALLOCATION_DONE: the quota is allocated and the vat serves (R292, R344); a debug entry that waited ends (R358). -/
def execAllocationDone (v : Vat) (s : State) : Out :=
  if (s.vat v).state ≠ .allocating then .next s
  else
    let s := blankEpochs v (allocateQuota v s)
    let s := s.updVat v fun r =>
      { r with
        state := .serving, currentEpoch := 0, incomingEpoch := none, active := none, pendingReam := none, epochs := []
        tableSet0 := {}, tableSet1 := {}, tableNow := false, pulpForDebug := false, pulpForReset := false }
    let s := forL (s.vatPresses v) (fun p t => t.updPress p resumeRotation) s
    let r := s.vat v
    let s := raise evVatConfigured none none (some v.val)
      (leBytes 1 (s.vatPresses v).length ++ [0, 0, 0] ++ leBytes 4 r.quotaPages.toNat) s
    .next (if r.debug = .entering then enterDebug v s else s)

/-! ## What pulping and vat reset share (R352, R356) -/

/-- The staging pages that the pending ream of a vat holds are written with zeros and are free again (R317, R318). -/
def freePending (v : Nat) (s : State) : State :=
  (forL (stagingFrames s v (((s.vat v).pendingReam.map Ream.held).getD [])) zeroFrame s).updVat v fun r =>
    { r with pendingReam := none }

/-- The load of a vat ends as ABORTED, and its content key is erased (R318, R352 step 3). -/
def abortLoad (v : Nat) (s : State) : State :=
  (freePending v s).updVat v fun r =>
    { r with
      load := if r.load.state = .fetching ∨ r.load.state = .staged then { state := .aborted, stream := r.load.stream } else r.load }

/-- Everything that a vat holds of reams is void: swap, epochs, reams and tables (R352 step 7, R356, R445 step 1). -/
def dropReams (v : Nat) (s : State) : State :=
  let old := s.vat v
  (abortLoad v s).updVat v fun r =>
    { r with
      currentEpoch := 0, incomingEpoch := none, active := none, swap := {}, epochs := [], tableSet0 := {}, tableSet1 := {}
      tableNow := false
      voidActive := (old.active.map Ream.digest).getD 0, voidPending := (old.pendingReam.map Ream.digest).getD 0 }

/-- A press stops engraving for its vat and pulps all of its plates in class 2 of R323 (R352 step 4, R356, R440). Its rotation
is SUSPENDED meanwhile also where it was STOPPED (R64; DESIGN CHOICE, assumption 99). That a plate had tripped ProofLimit
is forgotten with the content that did (DESIGN CHOICE; assumption 89). -/
def pulpPlates (p : Nat) (purpose : Purpose) (s : State) : State :=
  let s := s.updPress p fun r =>
    { r with
      engraving := none, handover := false, returning := none, engageTodo := []
      rotation := .suspended
      plates := tmap {} (fun _ y => { y with ready := none, limitTripped := false, inPlace := false }) r.plates }
  let s : State := { s with engQueue := s.engQueue.filter fun e => decide (e.press.val ≠ p) }
  forN 17 (fun q t => askPower { cls := 2, press := Fin.ofNat 68 p, plate := Fin.ofNat 17 q, purpose := purpose } t) s

/-- The presses that serve a vat or are prepared to. -/
def servingPresses (s : State) (v : Nat) : List Nat := swapPresses s v

/-- Jobs of a vat stop with an outcome, its presses are scrubbed and pulped, and its work counters cleared
(R352 steps 2, 4 and 6; R445). -/
def scrubVat (v : Nat) (purpose : Purpose) (outcome : Job → Job) (scrub : PressRec → PressRec) (s : State) : State :=
  let ps := servingPresses s v
  let s := forL ps (fun p t => stopJobs p (fun _ => true) outcome t) s
  let s := forL ps (fun p t => pulpPlates p purpose (t.updPress p scrub)) s
  clearCounters v s

/-- Pulping of a vat begins (R352 steps 1 to 7). -/
def beginPulp (v : Nat) (forDebug forReset : Bool) (s : State) : State :=
  let s := s.updVat v fun r =>
    { r with
      state := .pulping, pulpForDebug := forDebug, pulpForReset := forReset, padWatts := BitVec.ofNat 16 (vatPower r), padHold := 0
      platesTotal := 17 * (servingPresses s v).length, pagesTotal := (vatFrames s v .owned).length }
  let s := if forReset then s else
    raise evVatPulpStarted none none (some v) (leBytes 1 (if forDebug then 2 else 1)) s
  let s := dropReams v (markWaiting v (fun j => { j with vatPulping := true }) s)
  let s := scrubVat v .vatPulp (fun j => { j with vatPulping := true }) scrubPress s
  (startPagePulp v s).updVat v fun r => { r with publisherKey := 0 }

/-- A write of PULP (R352). -/
def pulpVat (v : Nat) (s : State) : Byte × State :=
  if (s.vat v).state = .serving then (resOk, beginPulp v false false s) else (resState, s)

/-- Every stream of a vat that is not FREE is closed; one under reset becomes FREE at its end (R261, R352 step 8). -/
def closeVatStreams (v : Nat) (s : State) : State :=
  forN (s.vat v).streamCount.toNat (fun i t =>
    let st : StreamId := Fin.ofNat 4096 ((s.vat v).streamBase.toNat + i)
    if (t.stream st).state = .resetting then t.updStream st fun r => { r with resetFromClosing := true }
    else closeStream st t) s

/-- The streams of a vat are FREE. -/
def streamsFree (s : State) (v : Nat) : Bool :=
  (List.range (s.vat v).streamCount.toNat).all fun i => decide ((s.stream ((s.vat v).streamBase.toNat + i)).state = .free)

/-- How many plates of the vat's presses wait for a pulp of a purpose or are pulped for it. -/
def platesPulped (s : State) (v : Nat) (purpose : Purpose) : Nat :=
  let ps := s.vatPresses v
  (s.engQueue.filter fun e => decide (e.purpose = purpose) && ps.contains e.press.val &&
      !((s.press e.press).engraving.any fun x => x.held && decide (x.plate = e.plate))).length +
    (ps.filter fun p => (s.press p).engraving.any fun e => decide (e.purpose = purpose)).length

/-- The jobs of a vat's presses have posted, and none of its presses is being replaced (R352 step 2, R444). -/
def vatDrained (s : State) (v : Nat) : Bool :=
  (s.vatPresses v).all fun p =>
    (s.press p).jobs.isEmpty && decide ((s.press p).state ≠ .engaging ∧ (s.press p).state ≠ .retiring)

/-- A vat's presses are free again: they keep PressMap's numbers no longer (R342, R343). -/
def leavePresses (v : Nat) (s : State) : State :=
  forL (s.vatPresses v) (fun p t => t.updPress p fun r => { r with vat := none, vatPress := 0x7F }) s

/-- PULPING_END: steps 2 to 7 of R352 are done; PULP closes the vat's streams and, once they are FREE, the vat is OFF;
debug entry goes on with ALLOCATING. -/
def execPulpingEnd (v : Vat) (s : State) : Out :=
  let r := s.vat v
  if r.state ≠ .pulping ∨ platesPulped s v .vatPulp ≠ 0 ∨ vatFrames s v .pulping ≠ [] ∨ vatFrames s v .owned ≠ [] ∨
      !vatDrained s v then .next s
  else
    let done := fun (st : VatSt) (t : State) =>
      let t := forL (t.vatPresses v) (fun p u => u.updPress p resumeRotation) t
      let t := (clearCounters v t).updVat v fun z => { z with state := st, padHold := 2, voidActive := 0, voidPending := 0 }
      if r.pulpForReset then t else raise evVatPulpDone none none (some v.val) (leBytes 1 (if r.pulpForDebug then 2 else 1)) t
    if r.pulpForDebug then .next (done .allocating s)
    else
      let s := closeVatStreams v s
      if streamsFree s v then .next (leavePresses v (done .off s)) else .next s

/-- PulpProgress (R354). -/
def pulpProgress (s : State) (v : Nat) : Nat :=
  let r := s.vat v
  if r.state ≠ .pulping then 0
  else
    let part := fun (left total : Nat) => if total = 0 then 8 else 8 * (total - left) / total
    part (platesPulped s v .vatPulp) r.platesTotal + part (vatFrames s v .pulping).length r.pagesTotal

/-! ## Vat reset (R356, R445) -/

/-- What vat reset clears on a press: its arrays and the counters that carry T rights. -/
def resetPressData (r : PressRec) : PressRec := clearTenantCounters (clearMacros (zeroData r))

/-- A write of RESET to VatCommand (R356, R445). -/
def resetVat (v : Nat) (s : State) : Byte × State :=
  if (s.vat v).state ≠ .serving then (resState, s)
  else
    let s := markWaiting v (fun j => { j with vatResetting := true }) s
    let s := dropReams v (countReset 1 (s.updVat v fun r => { r with state := .resetting }))
    let s := scrubVat v .resetPulp (fun j => { j with vatResetting := true }) resetPressData s
    let s := forL (servingPresses s v) (fun p t => reseed p t) s
    let staging := (s.hubs.map.filter fun e => decide (e.2.state = .owned ∧ e.2.vat = v ∧ e.2.use = .staging)).map Prod.fst
    (resOk, staging.foldl (fun t f => zeroFrame f t) s)

/-- VAT_RESET_END: the plates are pulped; the vat returns to SERVING (R356, R445). -/
def execVatResetEnd (v : Vat) (ms : Nat) (s : State) : Out :=
  if (s.vat v).state ≠ .resetting ∨ platesPulped s v .resetPulp ≠ 0 ∨ !vatDrained s v then .next s
  else
    let s := blankEpochs v (clearCounters v s)
    let s := forL (s.vatPresses v) (fun p t => t.updPress p resumeRotation) s
    .next (raiseResetDone none (some v.val) 2 ms (s.updVat v fun r =>
      { r with state := .serving, voidActive := 0, voidPending := 0 }))

/-! ## Debug (R357 to R359) -/

/-- A vat holds a protected ream (R308). -/
def holdsProtected (r : VatRec) : Bool :=
  (r.active.any fun x => x.isProtected) || (r.pendingReam.any fun x => x.isProtected)

/-- A write of DebugRequest (R358). -/
def debugRequest (v : Nat) (on : Bool) (s : State) : Byte × State :=
  let r := s.vat v
  if on then
    if r.state ≠ .serving then (resState, s)
    else
      let s := s.updVat v fun r => { r with debug := .entering }
      let s := if (s.vat v).swap.active && (s.vat v).swap.fromPending then s else abortLoad v s
      (resOk, if holdsProtected (s.vat v) then beginPulp v true false s else enterDebug v s)
  else
    (resOk, raise evDebugLeft none none (some v) (leBytes 2 r.debugCount.toNat)
      (debugStats (s.updVat v fun r => { r with debug := .off })))

/-! ## Staging pages (R309) -/

/-- A write of StagingPages: pages that change use are moved and written with zeros. -/
def writeStaging (v : Nat) (n : BitVec 32) (s : State) : Byte × State :=
  let r := s.vat v
  if r.active.isSome ∨ r.pendingReam.isSome ∨ r.load.state = .fetching ∨ r.load.state = .staged then (resState, s)
  else if r.state ≠ .off ∧ r.quotaPages.toNat < n.toNat then (resRange, s)
  else
    let s := s.updVat v fun r => { r with stagingPages := n }
    let new := s.vat v
    let moved := (vatFrames s v .owned).filter fun f =>
      decide ((s.pageEntry f).use ≠ useOfPage new (s.pageEntry f).vatPage)
    (resOk, moved.foldl (fun t f =>
      zeroFrame f (t.updEntry f fun e => { e with use := useOfPage new e.vatPage })) s)

end Sys2Proof.Machine
end

