-- ==== Sys2Proof/Machine/Control.lean ====
section
/-! DEFINITION. Control.lean: writes of ImageChunk, ImageCommand and DeviceCommand (14 R448, R456, R457), the status
words of device control (14 R459 to R462), and the boundary-scan instruction (15 R466). -/

namespace Sys2Proof.Machine

/-- DeviceState (R459). -/
def devCode : DevState → Nat
  | .starting => 0
  | .awaitingImage => 1
  | .service => 2
  | .activating => 3
  | .deviceReset => 4
  | .failed => 5

/-- ImageStatus.State (R460). -/
def imageCode : ImgState → Nat
  | .none => 0
  | .receiving => 1
  | .verifying => 2
  | .pending => 3
  | .activating => 4
  | .rejected => 5

/-- ImageStatus (R460). -/
def imageStatusWord (s : State) : Nat :=
  s.dev.bytesReceived.toNat * 2 ^ 32 + (if s.dev.image = .rejected then s.dev.rejectCause.toNat else 0) * 2 ^ 8 +
    imageCode s.dev.image

/-- PersonalityState (R364). -/
def personalityState (s : State) : Nat :=
  if s.dev.image = .pending ∨ s.dev.image = .activating then 2 else bitOf s.dev.activeImage.isSome

/-- Press states (R436). -/
def pressCode : PressSt → Nat
  | .testing => 0
  | .spare => 1
  | .active => 2
  | .engaging => 3
  | .retiring => 4
  | .retired => 5

/-- PressState (R462). -/
def pressStateWord (r : PressRec) : Nat :=
  (r.replaces.map Fin.val).getD 0xFF * 2 ^ 24 + r.retireCause % 16 * 2 ^ 16 + r.vatPress % 128 * 2 ^ 8 +
    (r.vat.map Fin.val).getD 0xF * 2 ^ 4 + pressCode r.state

/-- ClockLock (R459): bit 6 is every CCLK of an ACTIVE or ENGAGING press, and 0 where there is no such press. -/
def clockLockWord (s : State) : Nat :=
  let used := allPresses.filter fun p => decide ((s.press p).state = .active ∨ (s.press p).state = .engaging)
  s.dev.clockLock.toNat + 64 * bitOf (!used.isEmpty && used.all (tget false s.dev.cclkLock))

/-- Nine bytes with one bit for each press (R459, R461). -/
def pressBits (f : Nat → Bool) : List Byte := leBytes 9 (bitsNat (allPresses.map f))

/-! ## Images (R456, R457) -/

/-- A write of ImageChunk (R456). -/
def imageChunk (data : List Byte) (s : State) : Byte × State :=
  let d := s.dev
  let off := leAt data 0 4
  let len := leAt data 4 4
  let part := data.drop 8
  if d.image = .pending ∨ d.image = .activating ∨ d.image = .verifying ∨ d.state = .failed then (resState, s)
  else if len < off + part.length ∨
      (off ≠ 0 ∧ (d.image ≠ .receiving ∨ off ≠ d.bytesReceived.toNat ∨ len ≠ d.imageLength.toNat)) then (resRange, s)
  else
    let bytes := (if off = 0 then [] else d.imageBytes) ++ part
    (resOk, s.updDev fun d =>
      { d with
        image := if bytes.length = len then .verifying else .receiving
        imageBytes := bytes, bytesReceived := BitVec.ofNat 32 bytes.length, imageLength := BitVec.ofNat 32 len })

/-- The image in hand is dropped. -/
def dropImage (st : ImgState) (s : State) : State :=
  s.updDev fun d => { d with image := st, imageBytes := [], bytesReceived := 0, imageLength := 0 }

/-- A write of DISCARD to ImageCommand (R456). -/
def discardImage (s : State) : Byte × State :=
  if s.dev.image = .pending then (resOk, dropImage .none s) else (resState, s)

/-- A write of ACTIVATE to ImageCommand (R457 steps 1 and 2). -/
def activateImage (s : State) : Byte × State :=
  let vats := (List.range 8).map s.vat
  if s.dev.state ≠ .service ∨ s.dev.image ≠ .pending ∨
      (vats.any fun r => decide (r.state = .pulping ∨ r.state = .resetting) || r.swap.active) ∨
      (allPresses.any fun p => decide ((s.press p).state = .engaging ∨ (s.press p).state = .retiring)) then (resState, s)
  else (resOk, s.updDev fun d => { d with state := .activating, image := .activating })

/-! ## Device reset (R448) -/

/-- A write of DEVICE_RESET to DeviceCommand (R448 steps 1 and 2). A vat that is already being pulped goes on, and ends
OFF. -/
def deviceReset (s : State) : Byte × State :=
  if s.dev.state ≠ .service then (resState, s)
  else
    let s := countReset 0 (s.updDev fun d => { d with state := .deviceReset, serviceReady := false })
    (resOk, forN 8 (fun v t =>
      if (t.vat v).state = .off then t
      else
        if (t.vat v).state = .pulping then
          t.updVat v fun r => { r with pulpForReset := r.pulpForReset || r.pulpForDebug, pulpForDebug := false }
        else beginPulp v false true t) s)

/-! ## Boundary scan (R466) -/

/-- IDCODE: Version 1, PartNumber 0x7120, the maker's JEP106 code and the marker. -/
def idcode : BitVec 32 := BitVec.ofNat 32 (2 ^ 28 + 0x7120 * 2 ^ 12 + Config.jep106.toNat * 2 + 1)

/-- The instructions that drive balls. -/
def scanDrives (i : ScanInstr) : Bool := decide (i = .extest ∨ i = .clamp ∨ i = .highz)

/-- What a boundary-scan instruction selects: while PERST# is high, one that drives balls selects BYPASS. -/
def scanSelects (s : State) (i : ScanInstr) : ScanInstr := if s.dev.perstHigh && scanDrives i then .bypass else i

/-- The boundary-scan instruction in effect: one that drives balls takes effect only while PERST# is low, also when it was
loaded before PERST# rose. -/
def scanInForce (s : State) : ScanInstr := scanSelects s s.dev.scan

/-- BOUNDARY_SCAN_INSTRUCTION_LOAD. -/
def execBoundaryScanInstructionLoad (i : ScanInstr) (s : State) : Out :=
  .next (s.updDev fun d => { d with scan := scanSelects s i })

end Sys2Proof.Machine
end

