-- ==== Sys2Proof/WellFormed.lean ====
section
/-! DEFINITION. WellFormed.lean: what the operands of a command must be for it to stand for something that can happen on
the device: lists of the length that the hardware has, and host addresses of 64 bits. The meanings answer for every
operand; a statement that needs one of these facts takes it from here. -/

namespace Sys2Proof

/-- Host memory is addressed with 64 bits (R251). -/
def HostWrites.wf (w : HostWrites) : Bool := w.mem.all fun e => decide (e.1 < 2 ^ 64)

/-- A memory access stays inside one page, which is what one translation covers (R294). -/
def MemOp.wf (a : BitVec 46) : MemOp → Bool
  | .read n => decide (1 ≤ n ∧ a.toNat % 2048 + n ≤ 2048)
  | .write d => decide (1 ≤ d.length ∧ a.toNat % 2048 + d.length ≤ 2048)

/-- A put or a get moves at least one byte (R27). -/
def RemoteKind.wf : RemoteKind → Bool
  | .put d => decide (1 ≤ d.length)
  | .get n => decide (1 ≤ n)
  | _ => true

/-- The number of MSI-X vectors of a function (R278). -/
def vectorsOf (f : Fn) : Nat := if f = 0 then 32 else 28

/-- A command is well formed. -/
def Instr.wf : Instr → Bool
  | .streamStart _ _ hw => hw.wf
  | .doorbell _ _ hw => hw.wf
  | .blockPost _ _ _ hw => hw.wf
  | .reamLoad _ _ _ hw => hw.wf
  | .quirePost _ _ _ hw => hw.wf
  | .memoryAccess _ a op _ _ => op.wf a
  | .remoteOperation op => op.kind.wf
  | .msixUnmask a v => decide (v.val < vectorsOf a.fn)
  | .dictGo _ _ hw => hw.wf
  | .proofPass _ _ d => decide (d.length = 8)
  | .spareSelfCheck _ _ e => decide (e.length = 5)
  | .fallbackCheckDone _ e => decide (e.length = 5)
  | .engravingDone _ c => decide (c.length = 8)
  | _ => true

end Sys2Proof
end

