-- ==== Sys2Proof/Machine/Bar.lean ====
section
/-! DEFINITION. Bar.lean: configuration space (R245, R248), what a read of BAR0 gives (R251 to R260, R274, R278, R392) and
the writes of registers that have no row of their own (R245, R252, R256, R278, R392). -/

namespace Sys2Proof.Machine

/-! ## Configuration space (R245, R248) -/

/-- Vendor ID (R248). -/
def pciVendorId : BitVec 16 := 0x1F71
/-- Device ID of the physical function, VF Device ID of the others (R248). -/
def pciDeviceId (f : Fn) : BitVec 16 := if f = 0 then 0x7120 else 0x7121
/-- Class code: processing accelerator (R245). -/
def pciClassCode : BitVec 24 := 0x120000
/-- InitialVFs and TotalVFs (R248). -/
def sriovTotalVfs : Nat := 8
/-- First VF Offset and VF Stride (R248). -/
def sriovOffset : Nat := 1
/-- Function Dependency Link (R248). -/
def sriovDependencyLink : Nat := 0
/-- Supported Page Sizes: 4 KiB (R248). -/
def sriovPageSizes : BitVec 32 := 1
/-- VF Migration Capable (R248). -/
def sriovMigration : Bool := false
/-- Bytes of BAR n of a function, 0 when it is not implemented (R248). -/
def pciBarBytes (n : Nat) : Nat := if n = 0 then 64 * 2 ^ 20 else 0
/-- The type bits [3:0] of BAR n: BAR0 and VF BAR0 are memory, 64-bit and non-prefetchable (R248; the places of the bits, 0 for
memory in [0], 10 for 64 bits in [2:1], 0 for non-prefetchable in [3], PRESUMED from PCI Express: assumption 73). -/
def pciBarType (n : Nat) : BitVec 4 := if n = 0 then 0b0100 else 0
/-- The function number of virtual function n (R248). -/
def vfNumber (n : Nat) : Nat := sriovOffset + (n - 1) * sriovOffset
/-- Bytes of Max Payload Size or Max Read Request Size for their code (R245). -/
def pciSizeBytes (code : BitVec 3) : Nat := 128 * 2 ^ code.toNat

/-- A write of configuration space that has no row of its own (R245, assumption 73): sizes outside the limits of R245
change nothing. -/
def configWrite (w : ConfigWrite) (s : State) : State :=
  match w with
  | .maxPayload f c => if pciSizeBytes c ≤ 512 then s.updFn f.val fun r => { r with maxPayload := c } else s
  | .maxReadRequest f c => if pciSizeBytes c ≤ 4096 then s.updFn f.val fun r => { r with maxReadRequest := c } else s
  | .ecrc g c => s.updBridge fun b => { b with ecrcGeneration := g, ecrcChecking := c }
  | .aerClear bits => s.updBridge fun b =>
      { b with
        aerStatus := b.aerStatus &&& ~~~bits
        aer := if b.aer.any fun n => (b.aerStatus &&& ~~~bits).getLsbD n.toNat then b.aer else none }

/-! ## The layout of BAR0 (R251, R257, R274, R278, R392) -/

/-- Where a BAR0 offset lies: in the window of a stream, an entry of its mailboxes, the dictionary mailbox, the MSI-X
table, the pending bits or the global region, with the offset there; none outside the layout. -/
inductive BarPlace
  | global (o : Nat)
  | window (st : StreamId) (o : Nat)
  | mailbox (st : StreamId) (e : Fin 4) (o : Nat)
  | dictionary (o : Nat)
  | vector (n : Nat) (o : Nat)
  | pendingBits (o : Nat)
  | none
  deriving DecidableEq, Repr

/-- The place of a BAR0 offset (R251). -/
def barPlace (off : Nat) : BarPlace :=
  if off < 0x10000 then .global off
  else if off < 0x100000 then .none
  else if off < 0x200000 then .window (Fin.ofNat 4096 ((off - 0x100000) / 256)) (off % 256)
  else if off < 0x300000 then .mailbox (Fin.ofNat 4096 ((off - 0x200000) / 256)) (Fin.ofNat 4 (off % 256 / 64)) (off % 64)
  else if off < 0x310000 then .dictionary (off - 0x300000)
  else if off < 0x311000 then .vector ((off - 0x310000) / 16) (off % 16)
  else if off < 0x312000 then .pendingBits (off - 0x311000)
  else .none

/-- A place belongs to a 64-bit register, or to one wider than that, read by 4 or 8 bytes (R252; assumption 74). -/
def BarPlace.wide : BarPlace → Bool
  | .window _ o => decide ((8 ≤ o ∧ o < 0x20) ∨ (0x60 ≤ o ∧ o < 0x78))
  | .mailbox _ _ _ => true
  | .dictionary o => decide (0x1000 ≤ o)
  | .vector _ o => decide (o < 8)
  | .pendingBits _ => true
  | _ => false

/-- Word i, of 4 bytes, of a number. -/
def wordOf (v i : Nat) : Nat := v / 2 ^ (32 * i) % 2 ^ 32

/-- A 4-byte word of the window of a stream that is not FREE (R257). -/
def windowWord (s : State) (st : StreamId) (o : Nat) : Nat :=
  let r := s.stream st.val
  match o with
  | 0x04 => streamStateWord r
  | 0x08 => wordOf r.cfg.sqBase.toNat 0
  | 0x0C => wordOf r.cfg.sqBase.toNat 1
  | 0x10 => wordOf r.cfg.cqBase.toNat 0
  | 0x14 => wordOf r.cfg.cqBase.toNat 1
  | 0x18 => wordOf r.cfg.bounceBase.toNat 0
  | 0x1C => wordOf r.cfg.bounceBase.toNat 1
  | 0x20 => r.cfg.ringConfig.toNat
  | 0x24 => r.cfg.bounceBlocks.toNat
  | 0x28 => r.cfg.irqConfig.toNat
  | 0x30 => r.sqTail.toNat
  | 0x34 => r.sqHead.toNat
  | 0x38 => r.cqHead.toNat
  | 0x3C => r.cqTail.toNat
  | 0x40 => r.dataPosted.toNat
  | 0x44 => r.scalePosted.toNat
  | 0x48 => r.submitted.toNat
  | 0x4C => r.fetched.toNat
  | 0x50 => r.dropped.toNat
  | 0x54 => r.returned.toNat
  | 0x58 => r.doorbellRejects.toNat
  | 0x5C => r.sealFailures.toNat
  | 0x60 => wordOf r.inbound.toNat 0
  | 0x64 => wordOf r.inbound.toNat 1
  | 0x68 => wordOf r.outbound.toNat 0
  | 0x6C => wordOf r.outbound.toNat 1
  | 0x70 => wordOf (jobQueryWord s st) 0
  | 0x74 => wordOf (jobQueryWord s st) 1
  | _ => 0

/-- The bytes 0x08 to 0x3F of a mailbox entry: its record (R274). -/
def mailboxRecord (m : Mailbox) : List Byte := leBytes 8 m.counter.toNat ++ lpad 0 32 m.ciphertext ++ tagBytes m.tag

/-- FunctionInfo (R253). -/
def functionInfo (s : State) (f : Fn) : Nat :=
  256 * bitsNat ((List.range 8).map fun v => serves s f.val v) + bitOf (decide (f ≠ 0))

/-- StreamsOpen of a function (R253). -/
def streamsOpen (s : State) (f : Fn) : Nat :=
  (s.streams.filter fun e => decide (e.2.state ≠ .free) && decide (s.streamFn e.1 = some f.val)).length

/-- DictStatus (R392). -/
def dictStatusWord (r : FnRec) : Nat :=
  r.response.length % 2 ^ 16 * 2 ^ 16 + r.result.toNat * 2 ^ 8 + bitOf r.done * 2 + bitOf r.busy

/-- Bit by vector of the MSI-X pending bits, or of the mask of vector n, as words (R278; assumption 74). -/
def pendingWord (r : FnRec) (i : Nat) : Nat := bitsNat ((List.range 32).map fun b => tget false r.pendingBits (32 * i + b))

/-- What a read of 4 bytes at an aligned BAR0 offset gives, apart from the effect of the RC registers, which are the
commands STREAM_OPEN and MAILBOX_HEAD_READ (R251 to R258, R260, R274, R278, R392). -/
def barWord (s : State) (f : Fn) (off : Nat) : Nat :=
  if !fnDecodes s f.val then 0
  else
    match barPlace off with
    | .global o =>
      if o = 0 then functionInfo s f else if o = 4 then bitOf s.dev.serviceReady
      else if o = 0x40 then streamsOpen s f else 0
    | .window st o => if windowOpen s f.val st.val then windowWord s st o else 0
    | .mailbox st e o =>
      if windowServed s f.val st.val ∧ 8 ≤ o then
        leAt (mailboxRecord (tget {} (s.stream st.val).mailboxes e.val)) (o - 8) 4
      else 0
    | .dictionary o =>
      let r := s.fn f.val
      if o = 4 then dictStatusWord r else if o = 8 then r.requestLength.toNat
      else if 0x1000 ≤ o ∧ o < 0x1440 then leAt r.request (o - 0x1000) 4
      else if 0x2000 ≤ o ∧ o < 0x2440 then leAt r.response (o - 0x2000) 4
      else 0
    | .vector n o =>
      let r := s.fn f.val
      if vectorsOf f ≤ n then 0
      else if o = 0 ∨ o = 4 then wordOf (tget 0 r.msgAddress n).toNat (o / 4)
      else if o = 8 then (tget 0 r.msgData n).toNat
      else if o = 12 then bitOf (!tget false r.unmasked n)
      else 0
    | .pendingBits o => if o < 8 then pendingWord (s.fn f.val) (o / 4) else 0
    | .none => 0

/-- What a read at a BAR0 offset gives: an access of a wrong size or alignment reads 0 (R252). -/
def barRead (s : State) (a : BarAccess) (off : Nat) : Nat :=
  match a.size with
  | .four => if off % 4 = 0 then barWord s a.fn off else 0
  | .eight =>
    if off % 8 = 0 ∧ (barPlace off).wide then barWord s a.fn off + 2 ^ 32 * barWord s a.fn (off + 4) else 0
  | .twoFours =>
    if off % 8 = 0 ∧ (barPlace off).wide then barWord s a.fn off + 2 ^ 32 * barWord s a.fn (off + 4) else 0
  | .other => 0

/-! ## Writes of registers that only store (R252, R256, R257, R278, R392, R393) -/

/-- One half of a 64-bit register replaced (R252). -/
def setHalf (v : BitVec 64) (high : Bool) (w : BitVec 32) : BitVec 64 :=
  if high then BitVec.ofNat 64 (v.toNat % 2 ^ 32 + w.toNat * 2 ^ 32)
  else BitVec.ofNat 64 (v.toNat / 2 ^ 32 * 2 ^ 32 + w.toNat)

/-- The configuration registers of a stream after 4 bytes are written at an offset of its window; reserved bits are
ignored and read 0 (R10, R257, R259). -/
def StreamCfg.write (c : StreamCfg) (o : Nat) (w : BitVec 32) : StreamCfg :=
  match o with
  | 0x08 => { c with sqBase := setHalf c.sqBase false w }
  | 0x0C => { c with sqBase := setHalf c.sqBase true w }
  | 0x10 => { c with cqBase := setHalf c.cqBase false w }
  | 0x14 => { c with cqBase := setHalf c.cqBase true w }
  | 0x18 => { c with bounceBase := setHalf c.bounceBase false w }
  | 0x1C => { c with bounceBase := setHalf c.bounceBase true w }
  | 0x20 => { c with ringConfig := w &&& 0x3FFF1FFF#32 }
  | 0x24 => { c with bounceBlocks := w &&& 0x000FFFFF#32 }
  | 0x28 => { c with irqConfig := w &&& 0x00001FFF#32 }
  | _ => c

/-- The mask of a vector is written: cleared, a pending message sends once (R278). -/
def setVectorMask (f vec : Nat) (masked : Bool) (s : State) : State :=
  s.updFn f fun r =>
    if masked then { r with unmasked := tput false r.unmasked vec false }
    else if tget false r.pendingBits vec then
      { r with
        unmasked := tput false r.unmasked vec true, pendingBits := tput false r.pendingBits vec false
        sent := tmod 0 r.sent vec (· + 1) }
    else { r with unmasked := tput false r.unmasked vec true }

/-- 4 bytes written at an aligned offset of a function's BAR0, to a register that only stores what is written. -/
def storeWord (f : Fn) (off : Nat) (w : BitVec 32) (s : State) : State :=
  if !fnDecodes s f.val then s
  else
    match barPlace off with
    | .window st o =>
      if s.streamFn st.val = some f.val ∧ (s.stream st.val).state = .allocated then
        s.updStream st.val fun r => { r with cfg := r.cfg.write o w }
      else s
    | .dictionary o =>
      if (s.fn f.val).busy then s
      else if o = 8 then s.updFn f.val fun r => { r with requestLength := w.setWidth 12 }
      else if 0x1000 ≤ o ∧ o < 0x1440 then
        s.updFn f.val fun r =>
          { r with request := slice r.request 0 (o - 0x1000) ++ leBytes 4 w.toNat ++ slice r.request (o - 0xFFC) (0x143C - o) }
      else s
    | .vector n o =>
      if vectorsOf f ≤ n then s
      else
        match o with
        | 0 => s.updFn f.val fun r =>
            { r with msgAddress := tmod 0 r.msgAddress n fun v => setHalf v false (w &&& 0xFFFFFFFC#32) }
        | 4 => s.updFn f.val fun r => { r with msgAddress := tmod 0 r.msgAddress n fun v => setHalf v true w }
        | 8 => s.updFn f.val fun r => { r with msgData := tput 0 r.msgData n w }
        | 12 => setVectorMask f.val n (w.getLsbD 0) s
        | _ => s
    | _ => s

/-- The bytes of a run of accesses, cut into accesses of n bytes; what is left over is no access. -/
def accessWords (n : Nat) (l : List Byte) : List (Nat × List Byte) :=
  (List.range (l.length / n)).map fun i => (n * i, (l.drop (n * i)).take n)

/-- A run of accesses of one size from a BAR0 offset, each under the rule of R252. -/
def regWrite (w : RegWrite) (s : State) : State :=
  let four := fun (o : Nat) (l : List Byte) (t : State) => storeWord w.fn o (BitVec.ofNat 32 (leNat l)) t
  match w.size with
  | .other => s
  | .eight =>
    if w.off % 8 ≠ 0 then s
    else
      forL (accessWords 8 w.data) (fun e t =>
        let o := w.off + e.1
        if (barPlace o).wide then four (o + 4) (e.2.drop 4) (four o (e.2.take 4) t) else t) s
  | _ => if w.off % 4 ≠ 0 then s else forL (accessWords 4 w.data) (fun e t => four (w.off + e.1) e.2 t) s

/-- What host software has written before a command: configuration space, registers of BAR0, host memory. -/
def State.hostWrites (s : State) (w : HostWrites) : State :=
  (forL w.regs regWrite (forL w.config configWrite s)).hostBytes w.mem

end Sys2Proof.Machine
end

