-- ==== Sys2Proof/Machine/Dict.lean ====
section
/-! DEFINITION. Dict.lean: what an entry of the object dictionary is: its type, its rights and their owner, and the checks
before an access (00 R14; 11 R357; 12 R379, R385, R386, R389, R391). The tables of entries follow in the DictXxx files. -/

namespace Sys2Proof.Machine

/-! ## Rights (R14, R357, R379, R386) -/

/-- Who a Rights column names. -/
inductive Who | any | m | h | v | t | d
  deriving DecidableEq, Repr

/-- What an entry belongs to: the device, a vat, or a press and through it the press's vat. -/
inductive Owner
  | device
  | vat (v : Nat)
  | press (p : Nat)
  deriving DecidableEq, Repr

/-- The vat that an entry belongs to. -/
def ownerVat (s : State) : Owner → Option Nat
  | .device => none
  | .vat v => some v
  | .press p => s.pressVat p

/-- A virtual function holds V rights for an entry of vat f - 1, and for the device-wide entries that list V (R249, R386);
the physical function holds those of every vat that it serves. -/
def holdsV (s : State) (f : Nat) (o : Owner) : Bool :=
  match ownerVat s o with
  | some v => serves s f v
  | none => decide (o = .device) && (List.range 8).any fun v => serves s f v

/-- D rights hold now for an entry (R357). -/
def debugOpen (s : State) (o : Owner) : Bool :=
  match o with
  | .device => (List.range 8).any fun v => decide ((s.vat v).debug = .active)
  | .vat v => decide ((s.vat v).debug = .active)
  | .press p =>
    match s.pressVat p with
    | none => true
    | some v => decide ((s.vat v).debug = .active)

/-- A principal holds a right that a Rights column lists. -/
def holds (s : State) (pr : Principal) (o : Owner) : Who → Bool
  | .any => true
  | .m => decide (pr = .M)
  | .h => decide (pr = .H)
  | .v =>
    match pr with
    | .H => holdsV s 0 o
    | .V f => holdsV s f.val o
    | _ => false
  | .t =>
    match pr with
    | .T v => decide (o = .device) || decide (ownerVat s o = some v.val)
    | _ => false
  | .d => (decide (pr = .M) || decide (pr = .H)) && debugOpen s o

/-- The Result of the rights check: OK, DEBUG for a D right outside R357, or RIGHTS (R391). -/
def rightsResult (s : State) (pr : Principal) (o : Owner) (l : List Who) : Byte :=
  if l.any (holds s pr o) then resOk
  else if l.contains .d && (decide (pr = .M) || decide (pr = .H)) then resDebug else resRights

/-! ## Entries (R385) -/

/-- The type of an entry: BOOLEAN, a number of n bytes, a string of n bytes, or a DOMAIN that is written with lo to hi
bytes. -/
inductive Ty
  | bool
  | num (n : Nat)
  | str (n : Nat)
  | dom (lo hi : Nat)
  deriving DecidableEq, Repr

/-- An entry. A write is refused with STATE while `busy`, then with RANGE when `range` (the value alone) or `rel` (its
relation to other settings) fails; `put` does the rest. `held` is false for a command, which keeps no value. -/
structure Obj where
  ty : Ty
  r : List Who := []
  w : List Who := []
  owner : Owner := .device
  get : State → Principal → List Byte := fun _ _ => []
  busy : State → Bool := fun _ => false
  range : List Byte → Bool := fun _ => true
  rel : State → List Byte → Bool := fun _ _ => true
  held : Bool := true
  put : Principal → Nat → List Byte → State → Byte × State := fun _ _ _ s => (resOk, s)

/-- The entry with another owner. -/
def Obj.ownedBy (o : Owner) (e : Obj) : Obj := { e with owner := o }

/-- A number of n bytes that is only read. -/
def roNum (n : Nat) (r : List Who) (get : State → Nat) : Obj := { ty := .num n, r := r, get := fun s _ => leBytes n (get s) }

/-- A DOMAIN that is only read. -/
def roDom (r : List Who) (get : State → List Byte) : Obj := { ty := .dom 0 0, r := r, get := fun s _ => get s }

/-- A number of n bytes from lo to hi that is read and written as a plain value. -/
def rwNum (n lo hi : Nat) (r w : List Who) (get : State → Nat) (set : Nat → State → State) : Obj :=
  { ty := .num n, r := r, w := w, get := fun s _ => leBytes n (get s)
    range := fun d => decide (lo ≤ leNat d ∧ leNat d ≤ hi)
    put := fun _ _ d s => (resOk, set (leNat d) s) }

/-- A device-wide setting with rights "M rw, H r". -/
def setNum (n lo hi : Nat) (get : Settings → Nat) (set : Nat → Settings → Settings) : Obj :=
  rwNum n lo hi [.m, .h] [.m] (fun s => get s.settings) (fun x s => s.updSettings (set x))

/-- A device-wide BOOLEAN setting with rights "M rw, H r". -/
def setBool (get : Settings → Bool) (set : Bool → Settings → Settings) : Obj :=
  { ty := .bool, r := [.m, .h], w := [.m], get := fun s _ => leBytes 1 (bitOf (get s.settings))
    put := fun _ _ d s => (resOk, s.updSettings (set (decide (leNat d = 1)))) }

/-- A command entry of n bytes: it answers by its own rule. -/
def command (ty : Ty) (w : List Who) (put : Principal → Nat → List Byte → State → Byte × State) : Obj :=
  { ty := ty, w := w, held := false, put := put }

/-- n words of k bytes from a list of numbers. -/
def words (k : Nat) (l : List Nat) : List Byte := l.flatMap (leBytes k)

/-- The entry at position i of a list, if there. -/
def pick (l : List Obj) (i : Nat) : Option Obj := l[i]?

/-! ## Checks (R385, R389, R391, R476) -/

/-- The value of a write has a size, and for RetireAtStart an Offset, that its entry takes (R385, R389). -/
def sizeOk (pieces : Bool) (ty : Ty) (off : Nat) (data : List Byte) : Bool :=
  match ty with
  | .bool => decide (off = 0 ∧ data.length = 1)
  | .num n => decide (off = 0 ∧ data.length = n)
  | .str n => decide (off = 0 ∧ data.length = n)
  | .dom lo hi =>
    if pieces then decide (off % 4 = 0 ∧ data.length % 4 = 0 ∧ lo ≤ data.length ∧ off + data.length ≤ hi)
    else decide (off = 0 ∧ lo ≤ data.length ∧ data.length ≤ hi)

/-- The value of a write is one that its type and Range/units allow (R385, R391). -/
def valueOk (e : Obj) (data : List Byte) : Bool :=
  (match e.ty with
    | .bool => decide (leNat data ≤ 1)
    | _ => true) && e.range data

/-- The checks of a write up to the entry's own rule. -/
def writeCheck (s : State) (pr : Principal) (pieces : Bool) (e : Obj) (off : Nat) (data : List Byte) : Byte :=
  if e.w = [] then resReadOnly
  else
    let r := rightsResult s pr e.owner e.w
    if r ≠ resOk then r
    else if !sizeOk pieces e.ty off data then resLength
    else if e.busy s then resState
    else if !(valueOk e data && e.rel s data) then resRange
    else resOk

/-- A read: its Result and the bytes (R389). -/
def readResult (s : State) (pr : Principal) (rights : Byte) (e : Obj) (off len : Nat) : Byte × List Byte :=
  if e.r = [] then (resWriteOnly, [])
  else if rights ≠ resOk then (rights, [])
  else
    let v := e.get s pr
    let fits := match e.ty with
      | .dom _ _ => decide (off + len ≤ v.length)
      | _ => decide (off = 0 ∧ len = v.length)
    if fits then (resOk, (v.drop off).take len) else (resLength, [])

end Sys2Proof.Machine
end

