-- ==== Sys2Proof/Machine/Reports.lean ====
section
/-! DEFINITION. Reports.lean: watermark reports (11 R362 to R367). -/

namespace Sys2Proof.Machine

/-- Vat states (R343). -/
def vatCode : VatSt → Nat
  | .off => 0
  | .allocating => 1
  | .serving => 2
  | .pulping => 3
  | .resetting => 4

/-- Bytes 16 to 24 of a VatRecord: the physical presses that belong to the vat (R365). -/
def pressMask (s : State) (v : Nat) : List Byte := pressBits fun p => decide (s.pressVat p = some v)

/-- The 256-bit digest of a ream, 0 for none. -/
def reamDigest (x : Option Ream) : BitVec 256 := (x.map Ream.digest).getD 0

/-- A VatRecord (R365). -/
def vatRecord (s : State) (v : Nat) : List Byte :=
  let r := s.vat v
  let off := decide (r.state = .off)
  let voided := decide (r.state = .pulping ∨ r.state = .resetting)
  let flags := bitOf (holdsProtected r) + 2 * bitOf voided + 4 * bitOf (decide (r.debug = .entering)) +
    8 * bitOf (decide (r.debug = .active))
  let digests := if voided then bytes256 r.voidActive ++ bytes256 r.voidPending
    else bytes256 (reamDigest r.active) ++ bytes256 (reamDigest r.pendingReam)
  leBytes 1 (vatCode r.state) ++ leBytes 1 (if off then 0 else flags) ++ leBytes 2 r.debugCount.toNat ++
    leBytes 2 (if off then 0 else r.currentEpoch.toNat) ++ leBytes 2 (if off then 0 else (r.incomingEpoch.getD 0).toNat) ++
    leBytes 4 r.quotaPages.toNat ++ leBytes 2 r.streamBase.toNat ++ leBytes 2 r.streamCount.toNat ++
    (if off then List.replicate 9 0 else pressMask s v) ++ List.replicate 7 0 ++
    (if off then List.replicate 64 0 else digests) ++ bytes256 r.tenantKey

/-- A TrimEntry as its 6 bytes (R420). -/
def trimBytes (e : TrimEntry) : List Byte :=
  leInt 1 e.verifyShift ++ leInt 1 e.proofShift ++ leInt 1 e.senseGain ++ leInt 1 e.senseOffset ++ leInt 2 e.readGain

/-- One factory trim set: 68 x 17 entries, press by press (R420). -/
def trimSetBytes (s : State) (set : Nat) : List Byte :=
  (List.range (68 * 17)).flatMap fun i => trimBytes (tget {} s.otp.trims (set * 68 * 17 + i))

/-- Number of presses in some of the given states. -/
def pressesIn (s : State) (f : PressSt → Bool) : Nat := (allPresses.filter fun p => f (s.press p).state).length

/-- The grade's code (R364). -/
def gradeCode : Grade → Nat
  | .aq => 0
  | .iq => 1

/-- Bytes 0 to 1,267 + C of a report: everything but the signature (R363, R364). -/
def snapshot (s : State) (slot who : Nat) (nonce : List Byte) : List Byte :=
  let st := personalityState s
  [0x4F, 0x5A, 0x57, 0x52, 1, 0, 0, 0] ++ leBytes 4 s.dev.reportSequence.toNat ++
    [BitVec.ofNat 8 slot, BitVec.ofNat 8 who, 0, 0] ++ slice nonce 0 32 ++ slice s.otp.serial 0 16 ++
    bytes256 s.otp.maskRomDigest ++
    (match s.dev.activeImage with
      | some img => bytes256 (Config.sm3 img)
      | none => List.replicate 32 0) ++
    (if st = 2 then bytes256 (Config.sm3 s.dev.imageBytes) else List.replicate 32 0) ++
    [BitVec.ofNat 8 st, BitVec.ofNat 8 (gradeCode s.otp.grade),
      BitVec.ofNat 8 (pressesIn s fun x => decide (x = .active)), BitVec.ofNat 8 (pressesIn s fun x => decide (x = .retired))] ++
    leBytes 4 (fuseState s).toNat ++ bytes256 (Config.sm3 ((List.range 5).flatMap (trimSetBytes s))) ++
    bytes256 s.otp.ownerDigest ++ List.replicate 8 0 ++ (List.range 8).flatMap (vatRecord s) ++
    leBytes 2 s.otp.chain.length ++ [0, 0] ++ s.otp.chain

/-- A write of ReportNonce: the snapshot is taken and the report queued (R362, R363). -/
def requestReport (who i : Nat) (nonce : List Byte) (s : State) : Byte × State :=
  if (s.report i).status = .building then (resState, s)
  else
    let s := s.updDev fun d => { d with reportSequence := d.reportSequence + 1 }
    let body := snapshot s i who nonce
    let s := s.updReport i fun _ => { status := .building, snapshot := body, report := [] }
    (resOk, { s with reportQueue := s.reportQueue ++ [Fin.ofNat 10 i] })

/-- REPORT_BUILT: the oldest report is signed with d_A and its slot becomes READY (R362, R364). -/
def execReportBuilt (s : State) : Out :=
  match s.reportQueue with
  | [] => .next s
  | i :: rest =>
    let (k, s) := drawRandom { s with reportQueue := rest }
    let key := s.dev.attestKey.getD 0
    .next (s.updReport i fun r =>
      { status := .ready, snapshot := [], report := r.snapshot ++ bytes512 (Config.sm2Sign key r.snapshot k) })

end Sys2Proof.Machine
end

