-- ==== Sys2Proof/Machine/DictPress.lean ====
section
/-! DEFINITION. DictPress.lean: the entries of a press (02 R75 to R78; 03 R107 to R109; 04 R148, R149; 05 R186 to R189;
10 R338; 13 R429, R430, R434; 14 R461). -/

namespace Sys2Proof.Machine

/-- M, H and V. -/
def mhv : List Who := [.m, .h, .v]
/-- M and H. -/
def mh : List Who := [.m, .h]
/-- T and D. -/
def td : List Who := [.t, .d]

/-- A number that a press holds. -/
def pressNum (p n : Nat) (r : List Who) (get : PressRec → Nat) : Obj := (roNum n r fun s => get (s.press p)).ownedBy (.press p)
/-- A DOMAIN that a press holds. -/
def pressDom (p : Nat) (r : List Who) (get : PressRec → List Byte) : Obj := (roDom r fun s => get (s.press p)).ownedBy (.press p)
/-- A setting of a press with rights "M rw, H r". -/
def pressSet (p n lo hi : Nat) (get : PressCfg → Nat) (set : Nat → PressCfg → PressCfg) : Obj :=
  (rwNum n lo hi mh [.m] (fun s => get (s.press p).cfg)
    (fun x s => s.updPress p fun r => { r with cfg := set x r.cfg })).ownedBy (.press p)

/-! ## 0x2300 + P (R461) -/

/-- A write of PressCommand (R444, R446); the time that the reset takes, at most 1 ms, is not stated: it is free. -/
def pressCommand (p : Nat) (pr : Principal) (_off : Nat) (data : List Byte) (s : State) : Byte × State :=
  if leNat data = 1 then pressReset p ((Config.freeByte s.free).toNat % 2) s.draw.2
  else if leNat data = 2 then (if pr = .M then retireCommand p s else (resRights, s))
  else (resRange, s)

/-- Entries 1 to 4 of 0x2300 + P. -/
def presses2300 (p sub : Nat) : Option Obj :=
  match sub with
  | 1 => some (pressNum p 4 mhv pressStateWord)
  | 2 => some ((command (.num 1) mh (pressCommand p)).ownedBy (.press p))
  | 3 => some (pressNum p 1 mhv fun r => r.jobs.length)
  | 4 => some (pressNum p 2 mhv fun r => r.jobsReissued.toNat)
  | _ => none

/-! ## 0x2400 + P (R75 to R78) -/

/-- Rotation states (R75). -/
def rotationCode : Rotation → Nat
  | .running => 0
  | .suspended => 1
  | .priority => 2
  | .stopped => 3
/-- Couch modes (R75). -/
def couchCode : Couch → Nat
  | .none => 0
  | .tall => 1
  | .deep => 2
/-- Plate states (R76). -/
def plateCode : PlateSt → Nat
  | .blank => 0
  | .engraving => 1
  | .live => 2
  | .refreshTarget => 3
  | .retired => 4

/-- State of physical plate q: the blank plate in the refresh target's place reads REFRESH_TARGET (R60, R76). -/
def plateStateCode (r : PressRec) (q : Nat) : Nat :=
  if (r.plate q).state = .blank ∧ r.refreshTarget.val = q then plateCode .refreshTarget else plateCode (r.plate q).state

/-- PlateState of physical plate q (R76). -/
def plateStateWord (r : PressRec) (q : Nat) : Nat :=
  let y := r.plate q
  usedSpares y.colMap 16 * 2 ^ 20 + usedSpares y.rowMap 8 * 2 ^ 16 + y.proofDisabled.length * 2 ^ 12 + bitOf y.priority * 2 ^ 10 +
    bitOf (decide (r.couchOfPhys q ≠ .none)) * 2 ^ 9 + r.logField q * 2 ^ 4 + plateStateCode r q

/-- Field f of physical plate q. -/
def plateField (p q f : Nat) : Option Obj :=
  match f with
  | 0 => some (pressNum p 4 mhv fun r => plateStateWord r q)
  | 1 => some ((roDom td fun s => codebookOf s ((s.press p).plate q)).ownedBy (.press p))
  | 2 => some (pressNum p 1 [.m, .v, .t] fun r => (r.plate q).fullScaleShift)
  | 3 => some (pressDom p mh fun r => words 2 ((tgetN 0 (r.plate q).rowMap 0 8).map BitVec.toNat))
  | 4 => some (pressDom p mh fun r => words 2 ((tgetN 0 (r.plate q).colMap 0 16).map BitVec.toNat))
  | 5 => some (pressNum p 4 mh fun r => (r.plate q).outside.toNat * 2 ^ 16 + (r.plate q).columnResult.toNat)
  | 6 => some (pressNum p 4 td fun r => (r.plate q).cmTripCount.toNat)
  | 7 => some (pressNum p 2 mh fun r => (r.plate q).proofTrips.toNat)
  | _ => none

/-- ProofBand: refused where ProofLimit would fall below twice the new value (R75). -/
def proofBandEntry (p : Nat) : Obj :=
  { pressSet p 2 25 400 (fun c => c.proofBand.toNat) (fun x c => { c with proofBand := BitVec.ofNat 16 x }) with
    rel := fun s d => decide (2 * leNat d ≤ (s.press p).cfg.proofLimit.toNat) }

/-- ProofLimit: refused below twice the ProofBand in force (R75). -/
def proofLimitEntry (p : Nat) : Obj :=
  { pressSet p 2 0 1000 (fun c => c.proofLimit.toNat) (fun x c => { c with proofLimit := BitVec.ofNat 16 x }) with
    rel := fun s d => decide (2 * (s.press p).cfg.proofBand.toNat ≤ leNat d) }

/-- The entries of 0x2400 + P. -/
def plates2400 (p sub : Nat) : Option Obj :=
  if 0x10 ≤ sub ∧ sub ≤ 0x97 then plateField p ((sub - 0x10) / 8) ((sub - 0x10) % 8)
  else if 8 ≤ sub ∧ sub ≤ 0x0F then some (pressNum p 1 mhv fun r => couchCode (tget .none r.couchMode (sub - 8)))
  else
    match sub with
    | 1 => some (pressNum p 1 mhv fun r => r.refreshTarget.val)
    | 2 => some (pressNum p 1 mhv fun r => r.logicalBase.val)
    | 3 => some (pressNum p 1 mhv fun r => rotationCode r.rotation)
    | 4 => some (pressSet p 4 4096 1048576 (fun c => c.proofInterval.toNat)
        (fun x c => { c with proofInterval := BitVec.ofNat 32 x }))
    | 5 => some (proofBandEntry p)
    | 6 => some (proofLimitEntry p)
    | _ => none

/-! ## 0x2500 + P (R107 to R109) -/

/-- Bank states (R108). -/
def bankCode : BankSt → Nat
  | .working => 0
  | .degraded => 1
  | .fallback => 2
  | .parked => 3
  | .lost => 4
/-- States of the fallback converter (R107). -/
def fallbackCode : FallbackSt → Nat
  | .standby => 0
  | .active => 1
  | .failed => 2

/-- BankState (R108). -/
def bankStateWord (b : Bank) : Nat :=
  b.substituted.toNat * 2 ^ 16 + failedCount b * 2 ^ 8 + bitOf b.shadowActive * 2 ^ 5 + bitOf b.spareFailed * 2 ^ 4 +
    bitOf b.poweredDown * 2 ^ 3 + bankCode b.state

/-- Field f of physical bank b; f = 7 is not present. -/
def bankField (p b f : Nat) : Option Obj :=
  match f with
  | 0 => some (pressNum p 4 mhv fun r => bankStateWord (r.bank b))
  | 1 => some (pressDom p mh fun r => words 2 ((tgetN 0 (r.bank b).sliceTrim 0 129).map BitVec.toNat))
  | 2 => some (pressDom p mh fun r => leBytes 17 (bitsNat (tgetN false (r.bank b).sliceFailed 0 129)))
  | 3 => some (pressNum p 4 mh fun r => (r.bank b).rounds.toNat)
  | 4 => some (pressNum p 2 mh fun r => if (r.bank b).shadowActive then (r.bank b).shadowColumn.toNat else 0xFFFF)
  | 5 => some (pressDom p [.d] fun r => words 2 ((tgetN 0 (r.bank b).lastCodes 0 512).map BitVec.toNat))
  | 6 => some (pressNum p 2 mh fun r => (r.bank b).sliceFailures.toNat)
  | _ => none

/-- The entries of 0x2500 + P. -/
def banks2500 (p sub : Nat) : Option Obj :=
  if 0x10 ≤ sub ∧ sub ≤ 0x96 then bankField p ((sub - 0x10) / 8) ((sub - 0x10) % 8)
  else
    match sub with
    | 1 => some (pressNum p 1 mhv fun r => fallbackCode r.fallback)
    | 2 => some (pressNum p 1 mhv fun r => (r.fallbackBank.map Fin.val).getD 0xFF)
    | 3 => some (pressSet p 2 16 4096 (fun c => c.shadowDwell.toNat) (fun x c => { c with shadowDwell := BitVec.ofNat 16 x }))
    | 4 => some (pressSet p 2 50 1000 (fun c => c.sliceFailLimit.toNat)
        (fun x c => { c with sliceFailLimit := BitVec.ofNat 16 x }))
    | 5 => some (pressSet p 1 2 64 (fun c => c.sliceFailCount.toNat) (fun x c => { c with sliceFailCount := BitVec.ofNat 8 x }))
    | 6 => some (pressSet p 2 256 65535 (fun c => c.spareCheckInterval.toNat)
        (fun x c => { c with spareCheckInterval := BitVec.ofNat 16 x }))
    | 7 => some { pressSet p 1 0 1 (fun c => bitOf c.powerDownEnable)
        (fun x c => { c with powerDownEnable := decide (x = 1) }) with ty := .bool }
    | _ => none

/-! ## 0x2620 + P (R148) -/

/-- A DOMAIN of n words of k bytes of a bank's output-stage registers, which only T and D read. -/
def regsDom (p b k n : Nat) (get : State → Bank → Nat → Nat) : Obj :=
  (roDom td fun s => words k ((List.range n).map (get s ((s.press p).bank b)))).ownedBy (.press p)

/-- The entries of 0x2620 + P. -/
def output2620 (p sub : Nat) : Option Obj :=
  if 0x10 ≤ sub ∧ sub ≤ 0x96 then
    let b := (sub - 0x10) / 8
    match (sub - 0x10) % 8 with
    | 0 => some ((roNum 4 td fun s => layerControl s ((s.press p).bank b)).ownedBy (.press p))
    | 1 => some ((roNum 2 td fun s => (driveRegs s ((s.press p).bank b)).alpha.toNat).ownedBy (.press p))
    | 2 => some (regsDom p b 2 512 fun s x n => ((senseRegs s x).scale n).toNat)
    | 3 => some (regsDom p b 2 512 fun s x n => ((senseRegs s x).join n).toNat)
    | 4 => some (regsDom p b 4 512 fun s x n => toBits 32 ((senseRegs s x).offset n))
    | 5 => some (regsDom p b 2 512 fun s x n => toBits 16 ((senseRegs s x).coef n))
    | 6 => some (regsDom p b 2 32 fun s x n => (lget 0 (driveRegs s x).outliers n).toNat)
    | _ => none
  else none

/-! ## 0x2690 + P (R186 to R189) -/

/-- Macro states (R187). -/
def macroCode : MacroSt → Nat
  | .idle => 0
  | .busy => 1
  | .reloading => 2
  | .failed => 3

/-- MacroState (R187). -/
def macroStateWord (m : MacroRec) : Nat :=
  m.valid.toNat * 2 ^ 16 + m.loading.toNat * 2 ^ 12 + m.int4.toNat * 2 ^ 8 + bitOf m.segmented * 2 ^ 4 + bitOf m.mode16 * 2 ^ 3 +
    macroCode m.state

/-- The 10 bytes of one macro's LoadRecord (R186). -/
def loadRecordBytes (l : LoadRecord) : List Byte := [l.vat, l.format] ++ leBytes 8 l.source.toNat

/-- Valid felt entries (R186). -/
def feltValid (r : PressRec) : Nat := (r.felt.filter fun e => nbit e.2.toNat 63).length

/-- The entries of 0x2690 + P. -/
def stipple2690 (p sub : Nat) : Option Obj :=
  if 0x30 ≤ sub ∧ sub ≤ 0x33 then
    some (pressDom p [.m, .d] fun r => (List.range 2).flatMap fun m => loadRecordBytes (tget {} (r.macro' m).records (sub - 0x30)))
  else
    match sub with
    | 0x01 => some (pressNum p 4 mhv fun r => macroStateWord (r.macro' 0))
    | 0x02 => some (pressNum p 4 mhv fun r => macroStateWord (r.macro' 1))
    | 0x03 => some (pressNum p 4 td fun r => r.wrapRepeats.toNat)
    | 0x04 => some (pressNum p 4 td fun r => r.overflowRepeats.toNat)
    | 0x05 => some (pressNum p 4 td fun r => r.accSaturations.toNat)
    | 0x06 => some (pressNum p 1 mh fun r => r.drainWaitMax.toNat)
    | 0x07 => some (pressNum p 4 mh fun r => r.eccCorrected.toNat)
    | 0x08 => some (pressNum p 2 mh fun r => r.eccUncorrected.toNat)
    | 0x09 => some (pressNum p 2 [.v, .t, .d] feltValid)
    | 0x10 => some (pressDom p td fun r => words 2 ((tgetN 0x3C00 (r.macro' 0).scale 0 64).map BitVec.toNat))
    | 0x11 => some (pressDom p td fun r => words 2 ((tgetN 0x3C00 (r.macro' 1).scale 0 64).map BitVec.toNat))
    | 0x12 => some (pressNum p 2 td fun r => (r.macro' 0).downScale.toNat)
    | 0x13 => some (pressNum p 2 td fun r => (r.macro' 1).downScale.toNat)
    | 0x20 => some (pressDom p [.d] fun r => words 8 ((tgetN 0 (r.macro' 0).acc 0 512).map BitVec.toNat))
    | 0x21 => some (pressDom p [.d] fun r => words 8 ((tgetN 0 (r.macro' 1).acc 0 512).map BitVec.toNat))
    | 0x22 => some (pressDom p [.d] fun r => words 8 ((tgetN 0 r.felt 0 8192).map BitVec.toNat))
    | 0x23 => some (pressDom p [.d] fun r => (List.range 17).flatMap fun b =>
        words 8 ((tgetN 0 (r.bank b).outputAcc 0 1024).map BitVec.toNat))
    | _ => none

/-! ## 0x2710 + P (R429, R430) -/

/-- Level states (R430). -/
def levelCode : Level → Nat
  | .normal => 0
  | .warn => 1
  | .half => 2
  | .quarter => 3
  | .hold => 4
/-- Survey classes (R430). -/
def classCode : SurveyClass → Nat
  | .slow => 0
  | .medium => 1
  | .fast => 2

/-- PressThermal (R430). -/
def thermalWord (t : Thermal) : Nat :=
  bitOf t.diodeFailed * 2 ^ 19 + (if t.level = .quarter then t.skip else 0) * 2 ^ 16 + bitOf t.rise * 2 ^ 15 +
    levelCode t.level * 2 ^ 12 + classCode t.cls * 2 ^ 10

/-- The entries of 0x2710 + P. -/
def thermal2710 (p sub : Nat) : Option Obj :=
  match sub with
  | 1 => some (pressNum p 2 mhv fun r => toBits 16 r.thermal.reading)
  | 2 => some (pressNum p 4 mhv fun r => thermalWord r.thermal)
  | 3 => some (pressNum p 2 mh fun r => toBits 16 r.thermal.rate)
  | 4 => some (pressNum p 2 mh fun r => toBits 16 r.thermal.peak)
  | _ => none

/-! ## 0x2810 + P (R434) -/

/-- Whole seconds of a drift-equivalent time, in at most 32 bits. -/
def driftSeconds (n : Nat) : Nat := min (n / (1000000 * 65536)) (2 ^ 32 - 1)

/-- The entries of 0x2810 + P. -/
def trim2810 (p sub : Nat) : Option Obj :=
  if 0x10 ≤ sub ∧ sub ≤ 0x14 then
    some ((roDom mh fun s => (List.range 17).flatMap fun q => trimBytes (trimSet s (sub - 0x10) p q)).ownedBy (.press p))
  else
    match sub with
    | 1 => some (pressNum p 2 mh fun r => toBits 16 r.trimTemp)
    | 2 => some (pressNum p 4 mh fun r => bitsNat ((List.range 17).map (waitsFence r)))
    | 3 => some (pressNum p 4 mh fun r => r.fencesForced.toNat)
    | 4 => some (pressNum p 4 mh fun r => driftSeconds r.stepAcc)
    | 5 => some (pressDom p mh fun r => words 4 ((List.range 17).map fun q => driftSeconds (r.plate q).driftAge))
    | _ => none

/-! ## 0x2A80 + P (R338) -/

/-- The largest count of a press (R338). -/
def ledgerMax (r : PressRec) : Nat := lmax ((List.range 17).map fun q => (r.plate q).ledger.toNat)

/-- The entries of 0x2A80 + P. -/
def ledger2A80 (p sub : Nat) : Option Obj :=
  match sub with
  | 1 => some
      { ty := .dom 68 68, r := mh, w := [.m], owner := .press p
        get := fun s _ => words 4 ((List.range 17).map fun q => ((s.press p).plate q).ledger.toNat)
        put := fun _ _ d s => writeLedger p d s }
  | 2 => some (pressNum p 4 mh ledgerMax)
  | _ => none

/-! ## 0x2B10 + P (R149) -/

/-- The entries of 0x2B10 + P. StatsMode reads MAXABS while a bank of the press is in that mode. -/
def stats2B10 (p sub : Nat) : Option Obj :=
  if 0x10 ≤ sub ∧ sub ≤ 0x97 then
    let b := (sub - 0x10) / 8
    match (sub - 0x10) % 8 with
    | 0 => some (pressNum p 4 td fun r => (r.bank b).convMse.toNat)
    | 1 => some (pressNum p 4 td fun r => (r.bank b).convSignal.toNat)
    | 2 => some (pressNum p 4 td fun r => (r.bank b).clipCount.toNat)
    | 3 => some (pressNum p 2 mh fun r => (r.bank b).satDriftWindows.toNat)
    | 4 => some (pressNum p 4 td fun r => (r.bank b).cmRepeats.toNat * 2 ^ 16 + (r.bank b).clipRepeats.toNat)
    | 5 => some (pressNum p 4 td fun r => (r.bank b).saturatedPasses.toNat)
    | 6 => some (pressNum p 2 mh fun r => (r.bank b).coarseRounds.toNat)
    | _ => some (pressDom p [.m, .d] fun r => words 2 ((tgetN 0 (r.bank b).maxAbs 0 520).map BitVec.toNat))
  else
    match sub with
    | 1 => some (pressNum p 1 mh fun r => bitOf ((List.range 17).any fun b => (r.bank b).maxAbsMode))
    | _ => none

end Sys2Proof.Machine
end

