-- ==== Sys2Proof/Machine/Reams.lean ====
section
/-! DEFINITION. Reams.lean: manifests, quires, sections and the load of a ream (10 R303 to R318, R335). -/

namespace Sys2Proof.Machine

/-! FailCause (R335). -/

/-- MANIFEST_SIGNATURE. -/
def fcManifestSignature : BitVec 8 := 1
/-- PUBLISHER_KEY. -/
def fcPublisherKey : BitVec 8 := 2
/-- DEVICE_NOT_LISTED. -/
def fcNotListed : BitVec 8 := 3
/-- KEY_UNWRAP. -/
def fcUnwrap : BitVec 8 := 4
/-- STAGING_SPACE. -/
def fcSpace : BitVec 8 := 5
/-- QUIRE_DIGEST. -/
def fcDigest : BitVec 8 := 6
/-- QUIRE_SIGNATURE. -/
def fcSignature : BitVec 8 := 7
/-- QUIRE_HEADER. -/
def fcHeader : BitVec 8 := 8
/-- QUIRE_TAG. -/
def fcTag : BitVec 8 := 9
/-- FORMAT. -/
def fcFormat : BitVec 8 := 10
/-- TARGET. -/
def fcTarget : BitVec 8 := 11
/-- RANGE. -/
def fcRange : BitVec 8 := 12
/-- TIMEOUT. -/
def fcTimeout : BitVec 8 := 13

/-! ## Manifests (R303, R304) -/

/-- A QuireRecord. -/
structure QuireRec where
  number : Nat
  device : Nat
  length : Nat
  digest : BitVec 256
  deriving DecidableEq, Repr

/-- DeviceRecord i of a manifest. -/
def deviceRecord (l : List Byte) (i : Nat) : List Byte := slice l (96 + 160 * i) 160

/-- The bytes of QuireRecord i of a manifest for d devices. -/
def quireBytes (l : List Byte) (d i : Nat) : List Byte := slice l (96 + 160 * d + 48 * i) 48

/-- QuireRecord i of a manifest for d devices. -/
def quireRecord (l : List Byte) (d i : Nat) : QuireRec :=
  let x := quireBytes l d i
  { number := leAt x 0 4, device := leAt x 4 1, length := leAt x 8 8, digest := ofBytes 256 (slice x 16 32) }

/-- The QuireRecords of a manifest. -/
def quireRecords (l : List Byte) : List QuireRec :=
  (List.range (leAt l 20 4)).map (quireRecord l (leAt l 18 2))

/-- Numbers rise strictly. -/
def rising : List Nat → Bool
  | x :: y :: r => decide (x < y) && rising (y :: r)
  | _ => true

/-- The format of R303 and R304. Reserved bytes of a DeviceRecord and a QuireRecord must be 0, as those of the header must
(DESIGN CHOICE; assumption 53). -/
def manifestFormat (l : List Byte) : Bool :=
  let d := leAt l 18 2
  let q := leAt l 20 4
  decide (l.take 4 = [0x4F, 0x5A, 0x52, 0x4D] ∧ leAt l 4 2 = 1 ∧ leAt l 6 2 < 2 ∧ 1 ≤ leAt l 16 2 ∧ leAt l 16 2 ≤ 64 ∧
    1 ≤ d ∧ d ≤ 8 ∧ 1 ≤ q ∧ q ≤ 4096 ∧ leAt l 24 8 = 0 ∧ l.length = 160 + 160 * d + 48 * q) &&
    ((List.range d).all fun i =>
      allZero (slice (deviceRecord l i) 24 8) && allZero (slice (deviceRecord l i) 144 16)) &&
    ((List.range q).all fun i => allZero (slice (quireBytes l d i) 5 3)) &&
    ((quireRecords l).all fun x => decide (x.number ≤ 4095 ∧ x.device < d)) &&
    rising ((quireRecords l).map QuireRec.number)

/-- The DeviceRecords that carry this device's serial. -/
def ownRecords (s : State) (l : List Byte) : List Nat :=
  (List.range (leAt l 18 2)).filter fun i => decide (slice (deviceRecord l i) 0 16 = s.otp.serial)

/-- Staging pages that the active ream does not hold (R311). -/
def freeStaging (r : VatRec) : Nat := r.stagingPages.toNat - (r.active.map Ream.pages).getD 0

/-- The checks of step 3 and step 4 of R314 on a manifest: the cause of a failure, or the manifest and content key. -/
def checkManifest (s : State) (v : Nat) (l : List Byte) : Except (BitVec 8) (Manifest × BitVec 128) :=
  let r := s.vat v
  let key : BitVec 512 := ofBytes 512 (slice l 32 64)
  let digest := Config.sm3 (slice l 32 64)
  let isProtected := nbit (leAt l 6 2) 0
  let body := l.length - 64
  if !manifestFormat l then .error fcFormat
  else if digest ≠ r.publisherKey ∨ (isProtected ∧ r.publisherKey ≠ r.tenantKey) then .error fcPublisherKey
  else if !Config.sm2Verify key (l.take body) (ofBytes 512 (slice l body 64)) then .error fcManifestSignature
  else
    match ownRecords s l with
    | [i] =>
      let rec' := deviceRecord l i
      match Config.sm2Unwrap (s.dev.identityKey.getD 0) (slice rec' 32 112) with
      | none => .error fcUnwrap
      | some content =>
        let mine := (quireRecords l).filter fun x => decide (x.device = i)
        if freeStaging r < leAt rec' 16 8 then .error fcSpace
        else if mine.isEmpty then .error fcFormat
        else
          .ok ({ reamId := BitVec.ofNat 64 (leAt l 8 8), publisherKey := key, digest := Config.sm3 l
                 isProtected := isProtected, editionCount := leAt l 16 2, stagedPages := leAt rec' 16 8
                 own := mine.map fun x => (x.number, x.length, x.digest)
                 foreign := ((quireRecords l).filter fun x => decide (x.device ≠ i)).map QuireRec.number }, content)
    | _ => .error fcNotListed

/-! ## Sections (R306, R307, R315) -/

/-- Body length and highest unit of a section type, and how many of its parameters it uses (R307). -/
def sectionShape (ty : Nat) : Option (Nat × Nat × Nat) :=
  match ty with
  | 1 => some (131072, 15, 2)
  | 2 => some (32, 15, 0)
  | 3 => some (5124, 15, 0)
  | 4 => some (72, 15, 0)
  | 5 => some (16384, 7, 1)
  | 6 => some (130, 1, 0)
  | 7 => some (260, 7, 0)
  | 8 => some (512, 15, 0)
  | _ => none

/-- The layout of a section header: types, lengths, units, reserved fields (R306, R307, R315). -/
def headerFormat (h : List Byte) : Bool :=
  match sectionShape (leAt h 0 1) with
  | none => false
  | some (len, top, used) =>
    decide (leAt h 4 4 = len ∧ leAt h 3 1 ≤ top ∧ leAt h 10 6 = 0) && (decide (leAt h 8 1 = 0) || decide (1 ≤ used)) &&
      (decide (leAt h 9 1 = 0) || decide (2 ≤ used))

/-- The sections of a decrypted payload, or a failure of its layout. -/
def parseSections : Nat → List Byte → Option (List Section)
  | _, [] => some []
  | 0, _ => none
  | n + 1, l =>
    let h := slice l 0 16
    let len := leAt h 4 4
    let padded := (len + 15) / 16 * 16
    if l.length < 16 + padded ∨ !headerFormat h ∨ !allZero (slice l (16 + len) (padded - len)) then none
    else
      (parseSections n (l.drop (16 + padded))).map fun rest =>
        { type := leAt h 0 1, edition := leAt h 1 1, press := leAt h 2 1, unit := leAt h 3 1, param0 := leAt h 8 1
          param1 := leAt h 9 1, body := slice l 16 len } :: rest

/-- The values of a section are in their ranges: R44, R49, R67, R114, R120, R127. -/
def sectionRange (x : Section) : Bool :=
  match x.type with
  | 1 => decide (x.param0 ≤ 6 ∧ x.param1 ≤ 2)
  | 2 => x.body.all fun b => decide (b.toNat ≤ 240)
  | 3 =>
    let c := leAt x.body 0 4
    let sel := field c 15 12
    decide (field c 9 0 = 0 ∧ field c 11 10 ≠ 3) && decide (sel < 2 ∨ 8 ≤ sel)
  | 4 =>
    let c := leAt x.body 0 4
    let z := (sext 8 (field c 31 24)).natAbs
    let a := leAt x.body 4 2
    decide (field c 9 0 = 0 ∧ field c 23 18 ≤ 32 ∧ leAt x.body 6 2 = 0 ∧ z ≤ (if nbit c 16 then 7 else 127)) &&
      decide (0 < a ∧ a ≤ 0x7C00)
  | 5 => decide (x.param0 ≤ 1)
  | 7 => decide (-4 ≤ sext 16 (leAt x.body 0 2) ∧ sext 16 (leAt x.body 0 2) ≤ 15 ∧ leAt x.body 2 2 = 0)
  | _ => true

/-- The edition and the press of a section are those of its type and of the ream (R307, R315). -/
def sectionTarget (s : State) (v editions : Nat) (x : Section) : Option (BitVec 8) :=
  if x.type = 7 ∨ x.type = 8 then
    if x.edition = 0xFF ∧ x.press = 0xFF then none else some fcFormat
  else if editions ≤ x.edition then some fcFormat
  else if (s.physPress v x.press).isNone then some fcTarget
  else none

/-- Pages that sections take in the staging area (R310). -/
def stagedPages (l : List Section) : Nat :=
  (l.map fun x => ceilDiv x.body.length 2048).foldl (· + ·) 0 + ceilDiv l.length 256

/-- The same place in a ream (R315). -/
def sameSection (x y : Section) : Bool :=
  decide (x.type = y.type ∧ x.edition = y.edition ∧ x.press = y.press ∧ x.unit = y.unit)

/-- The checks of R315 on sections that come after those already staged, one by one. -/
def checkSections (s : State) (v editions pages : Nat) : List Section → List Section → Except (BitVec 8) (List Section)
  | staged, [] => .ok staged
  | staged, x :: r =>
    match sectionTarget s v editions x with
    | some c => .error c
    | none =>
      if staged.any (sameSection x) then .error fcFormat
      else if !sectionRange x then .error fcRange
      else if pages < stagedPages (staged ++ [x]) then .error fcSpace
      else checkSections s v editions pages (staged ++ [x]) r

/-- The plates of a pair agree in CouchMode; once every quire is staged, a couched plate also has a partner (R315). -/
def couchesAgree (l : List Section) (all : Bool) : Bool :=
  l.all fun x =>
    decide (x.type ≠ 1) ||
      match l.find? fun y => decide (y.type = 1 ∧ y.edition = x.edition ∧ y.press = x.press ∧
          y.unit = (if x.unit % 2 = 0 then x.unit + 1 else x.unit - 1)) with
      | some y => decide (y.param1 = x.param1)
      | none => decide (x.param1 = 0) || !all

/-! ## The load (R312 to R318) -/

/-- The state with f applied to the load of a vat. -/
def State.updLoad (s : State) (v : Nat) (f : Load → Load) : State := s.updVat v fun r => { r with load := f r.load }

/-- A load fails (R317): its key and its sections go, the staging pages that it had written are written with zeros, and
REAM_FAILED is raised. -/
def failLoad (v : Nat) (result cause : BitVec 8) (quire : Nat) (s : State) : State :=
  let s := (freePending v s).updVat v fun r =>
    { r with
      load := { r.load with
        state := .failed, manifest := none, contentKey := none, reading := [], result := result, failCause := cause
        failedQuire := BitVec.ofNat 16 quire } }
  raise evReamFailed none none (some v) (leBytes 1 result.toNat ++ leBytes 1 cause.toNat ++ leBytes 2 quire) s

/-- A write of ReamLoad (R312). -/
def loadReam (v : Nat) (data : List Byte) (s : State) : Byte × State :=
  let r := s.vat v
  let st := field (leAt data 0 2) 11 0
  let len := leAt data 4 4
  let off := leAt data 8 8
  let x := s.stream st
  if r.load.state = .fetching ∨ r.load.state = .staged ∨ r.state = .pulping ∨ r.state = .resetting ∨ r.debug ≠ .off ∨
      x.state = .free ∨ x.state = .closing ∨ x.state = .resetting then (resState, s)
  else if s.streamVat st ≠ some v ∨ x.bounceBytes < off + len then (resRange, s)
  else
    (resOk, s.updVat v fun r =>
      { r with
        pendingReam := none
        load := { state := .fetching, stream := Fin.ofNat 4096 st, offset := off, length := len } })

/-- What becomes of a post of a quire once the manifest has been read (R316). -/
def judgePost (v q off : Nat) (s : State) : State :=
  let l := (s.vat v).load
  match l.manifest with
  | none => s
  | some m =>
    if m.foreign.contains q then s.updVat v fun r => { r with foreignPosts := satInc r.foreignPosts }
    else
      match m.own.find? fun x => decide (x.1 = q) with
      | none => s
      | some (_, len, _) =>
        if l.verified.contains q ∨ l.reading.any (fun e => decide (e.1 = q)) ∨ (s.stream l.stream).bounceBytes < off + len then s
        else s.updLoad v fun l => { l with reading := l.reading ++ [(q, off)] }

/-- A write of QuirePost (R316). A post that comes before the manifest has been checked waits for it. -/
def postQuire (v : Nat) (w : BitVec 64) (s : State) : Byte × State :=
  let l := (s.vat v).load
  let q := field w.toNat 63 48
  let off := field w.toNat 47 0
  if l.state ≠ .fetching then (resState, s)
  else if l.manifest.isNone then (resOk, s.updLoad v fun l => { l with reading := l.reading ++ [(q, off)] })
  else (resOk, judgePost v q off s)

/-- A write of ReamCancel (R318). -/
def cancelReam (v : Nat) (on : Bool) (s : State) : Byte × State :=
  let r := s.vat v
  if !on then (resOk, s)
  else if (r.load.state ≠ .fetching ∧ r.load.state ≠ .staged) ∨ (r.swap.active ∧ r.swap.fromPending) then (resState, s)
  else (resOk, abortLoad v s)

/-- MANIFEST_READ_DONE: a read of the manifest ends; one that fails is made again (R314 steps 2 to 4). -/
def execManifestReadDone (v : Vat) (readOk : Bool) (s : State) : Out :=
  let l := (s.vat v).load
  let x := s.stream l.stream
  if l.state ≠ .fetching ∨ l.manifest.isSome ∨ !readOk ∨ x.bounceBytes < l.offset + l.length then .next s
  else
    match checkManifest s v (s.hostRead (x.cfg.bounceBase.toNat + l.offset) l.length) with
    | .error c => .next (failLoad v stQuireBad c 0xFFFF s)
    | .ok (m, key) =>
      let s := s.updVat v fun r =>
        { r with
          pendingReam := some { digest := m.digest, isProtected := m.isProtected, editionCount := m.editionCount }
          load := { r.load with manifest := some m, contentKey := some key, expected := m.own.length, reading := [] } }
      .next (l.reading.foldl (fun t e => judgePost v e.1 e.2 t) s)

/-- The checks of step 5 of R314 on the bytes of a quire: the cause of a failure, or its plain payload. -/
def openQuire (s : State) (m : Manifest) (key : BitVec 128) (q : Nat) (digest : BitVec 256) (l : List Byte) :
    Except (BitVec 8) (List Byte) :=
  let len := leAt l 20 4
  let ct := l.drop 128
  if Config.sm3 l ≠ digest then .error fcDigest
  else if !Config.sm2Verify m.publisherKey (l.take 64 ++ ct) (ofBytes 512 (slice l 64 64)) then .error fcSignature
  else if l.take 4 ≠ [0x4F, 0x5A, 0x52, 0x51] ∨ leAt l 4 2 ≠ 1 ∨ leAt l 6 2 ≠ 0 ∨ leAt l 8 8 ≠ m.reamId.toNat ∨
      leAt l 16 4 ≠ q ∨ slice l 24 16 ≠ s.otp.serial ∨ leAt l 56 8 ≠ 0 ∨ len % 16 ≠ 0 ∨ 268435456 < len ∨
      l.length ≠ 128 + len then .error fcHeader
  else
    match gcmOpen key (BitVec.ofNat 96 (m.reamId.toNat * 2 ^ 32 + q)) (l.take 40) ct (tagOf (slice l 40 16)) with
    | none => .error fcTag
    | some plain => .ok plain

/-- The sections of a quire checked and staged after those of the quires before it (R314 step 5, R315). -/
def stageQuire (s : State) (v : Nat) (m : Manifest) (old : List Section) (last : Bool) (plain : List Byte) :
    Except (BitVec 8) (List Section) :=
  match parseSections plain.length plain with
  | none => .error fcFormat
  | some new =>
    match checkSections s v m.editionCount m.stagedPages old new with
    | .error c => .error c
    | .ok l => if couchesAgree l last then .ok l else .error fcFormat

/-- Pages of a vat's staging area that the sections of a load take beside those that it has: the lowest that no ream holds
(R310, R311; assumption 96). -/
def takePages (r : VatRec) (old : List Nat) (secs : List Section) : List Nat :=
  let kept := ((r.active.map Ream.held).getD []) ++ old
  ((List.range r.stagingPages.toNat).filter fun i => !kept.contains i).take
    ((secs.map Section.pages).foldl (· + ·) 0 - old.length)

/-- The sections of a verified quire are written to the staging area, with those before them (R310, R314 step 5). -/
def stageSections (v : Nat) (secs : List Section) (s : State) : State :=
  let old := ((s.vat v).pendingReam.map Ream.held).getD []
  let new := takePages (s.vat v) old secs
  (forL (stagingFrames s v new) zeroFrame s).updVat v fun r =>
    { r with pendingReam := r.pendingReam.map fun y => { y with sections := secs, pages := stagedPages secs, held := old ++ new } }

/-- QUIRE_READ_DONE: the read of a quire ends; it is checked, decrypted and staged (R314 steps 5 and 6). -/
def execQuireReadDone (v : Vat) (s : State) : Out :=
  let r := s.vat v
  let l := r.load
  match l.manifest, l.contentKey, l.reading with
  | some m, some key, (q, off) :: rest =>
    let x := s.stream l.stream
    let rec' := (m.own.find? fun e => decide (e.1 = q)).getD (q, 0, 0)
    if l.state ≠ .fetching ∨ x.bounceBytes < off + rec'.2.1 then .next s
    else
      let bytes := s.hostRead (x.cfg.bounceBase.toNat + off) rec'.2.1
      let old := ((r.pendingReam.map Ream.sections).getD [])
      let last := decide (l.verified.length + 1 = l.expected)
      match (openQuire s m key q rec'.2.2 bytes).bind (stageQuire s v m old last) with
      | .error c => .next (failLoad v stQuireBad c q s)
      | .ok secs =>
        let s := (stageSections v secs (countExact v 3 (sectionBytes secs - sectionBytes old) s)).updVat v fun r =>
          { r with load := { r.load with verified := q :: r.load.verified, reading := rest } }
        if last then
          let s := s.updLoad v fun l => { l with state := .staged, manifest := none, contentKey := none, reading := [] }
          .next (raise evReamStaged none none (some v.val) (leBytes 2 l.expected) s)
        else .next s
  | _, _, _ => .next s

/-- QUIRE_TIMEOUT: the fetch timer reaches QuireTimeout (R317). -/
def execQuireTimeout (v : Vat) (s : State) : Out :=
  let l := (s.vat v).load
  if l.state ≠ .fetching then .next s
  else
    let missing := match l.manifest with
      | none => 0xFFFF
      | some m => ((m.own.map Prod.fst).filter fun q => !l.verified.contains q).head?.getD 0xFFFF
    .next (failLoad v stQuireMissing fcTimeout missing s)

end Sys2Proof.Machine
end

