-- ==== Sys2Proof/Machine/Survey.lean ====
section
/-! DEFINITION. Survey.lean: survey converters, thermal supervision, the power governor and the activity entries (11 R355,
R360, R361; 13 R401 to R426; 14 R459). -/

namespace Sys2Proof.Machine

/-! ## Scans and conversions (R401 to R407) -/

/-- The press of a converter's diode channel (R401). -/
def diodePress (c ch : Nat) : Nat := 34 * c + ch

/-- Scans between two conversions of a channel (R403); 0 for channels that no scan converts. -/
def channelEvery (s : State) (c ch : Nat) : Nat :=
  if ch < 34 then
    match (s.press (diodePress c ch)).thermal.cls with
    | .fast => 1
    | .medium => 10
    | .slow => 100
  else if ch < 38 then 10
  else if ch < 46 then 1
  else 0

/-- A calibration begins. -/
def beginCal (r : Survey) : Survey := { r with calPending := false, calWaits := 0, calibrating := true, new46 := none }

/-- A calibration is requested: it waits for the conversion in progress and for the injected conversions pending (R406). -/
def requestCal (r : Survey) : Survey :=
  if r.calPending ∨ r.calibrating then r
  else
    let regular := r.current.any fun x => x.2.isNone
    let mask := bitsNat ((List.range 4).map fun k => tget false r.injPending k) + 16 * bitOf regular
    if mask = 0 then beginCal r else { r with calPending := true, calWaits := mask }

/-- The channel that a slot converts. -/
def slotChannel (s : State) (c k : Nat) : Nat :=
  if k = 3 then (s.survey c).slot3Channel else (tget 0 s.settings.injectedChannel (3 * c + k)).toNat

/-- The next conversion of a converter: its channel, and its slot when it is injected (R405, R406). -/
def nextConversion (s : State) (c : Nat) : Option (Nat × Option Nat) :=
  let r := s.survey c
  if r.calibrating then some (if r.new46.isNone then 46 else 47, none)
  else
    match [3, 0, 1, 2].find? fun k => tget false r.injPending k with
    | some k => some (slotChannel s c k, some k)
    | none =>
      match r.due with
      | ch :: _ => if r.regular then some (ch, none) else none
      | [] => none

/-- At a conversion boundary the next conversion of a converter starts (R405). -/
def startConversion (c : Nat) (s : State) : State :=
  if (s.survey c).current.isSome then s
  else
    let x := nextConversion s c
    s.updSurvey c fun r => { r with current := x }

/-- SURVEY_SCAN: a scan period begins; the channels that are due are converted in ascending order (R403). -/
def execSurveyScan (c : Conv) (s : State) : Out :=
  let r := s.survey c
  if !r.regular ∨ r.due ≠ [] then .next s
  else
    let due := (List.range 46).filter fun ch =>
      let n := channelEvery s c ch
      decide (n ≠ 0 ∧ r.scans % n = 0)
    .next (startConversion c (s.updSurvey c fun r => { r with due := due, scans := r.scans + 1 }))

/-- The Window of a result (R407, R409). -/
def windowOf (s : State) (c ch code : Nat) : Nat :=
  let w := (tget 0x0FFF0000#32 s.settings.channelWindow (64 * c + ch)).toNat
  if code < field w 11 0 then 1 else if field w 27 16 < code then 2 else 0

/-- A SurveyResult (R407). -/
def surveyResult (s : State) (c ch : Nat) (slot : Option Nat) (code : Nat) : BitVec 32 :=
  BitVec.ofNat 32 (c * 2 ^ 31 + bitOf slot.isSome * 2 ^ 30 + slot.getD 0 * 2 ^ 28 + windowOf s c ch code * 2 ^ 26 +
    (s.survey c).calGeneration.toNat % 4 * 2 ^ 24 + ch % 64 * 2 ^ 18 + code)

/-- What a latched calibration waits for has ended: bit k of what is left falls, and the calibration begins with the last
(R406 step 2). -/
def settleCal (k : Nat) (r : Survey) : Survey :=
  if !r.calPending then r
  else
    let left := if nbit r.calWaits k then r.calWaits - 2 ^ k else r.calWaits
    if left = 0 then beginCal r else { r with calWaits := left }

/-- What a conversion leaves pending. -/
def afterConversion (ch : Nat) (slot : Option Nat) (code : BitVec 12) (r : Survey) : Survey :=
  let differs := match r.ref46 with
    | some v => decide (ch = 46 ∧ 4 < absDiff v.toNat code.toNat)
    | none => false
  match slot with
  | some k =>
    let r := settleCal k { r with injPending := tput false r.injPending k false }
    if differs then requestCal r else r
  | none =>
    if r.calibrating then (if ch = 46 then { r with new46 := some code } else r)
    else settleCal 4 { r with due := r.due.tail }

/-- CONVERSION_DONE: a conversion ends and writes one SurveyResult; a full queue holds the converter back (R405 to R408). -/
def execConversionDone (c : Conv) (code : BitVec 12) (s : State) : Out :=
  if 256 ≤ (s.survey c).queue.length then .next s
  else
    match (s.survey c).current.orElse fun _ => nextConversion s c with
    | none => .next s
    | some (ch, slot) =>
      let w := surveyResult s c ch slot code.toNat
      .next (startConversion c (s.updSurvey c fun r =>
        afterConversion ch slot code { r with queue := r.queue ++ [w], current := none }))

/-- Requests of injected slots by a mask; a slot that is pending keeps its request (R404, R405). -/
def requestInjected (mask : Nat) (r : Survey) : Survey :=
  { r with injPending := (List.range 3).foldl (fun m k => if nbit mask k then tput false m k true else m) r.injPending }

/-- CAL_INTERVAL_EXPIRY: CalInterval has elapsed (R406). -/
def execCalIntervalExpiry (c : Conv) (s : State) : Out := .next (startConversion c (s.updSurvey c requestCal))

/-- CALIBRATION_DONE: a calibration ends (R406 step 4). -/
def execCalibrationDone (c : Conv) (s : State) : Out :=
  let r := s.survey c
  if r.calibrating then
    .next (startConversion c (s.updSurvey c fun r =>
      { r with
        calibrating := false, calGeneration := r.calGeneration + 1, new46 := none, current := none
        ref46 := match r.new46 with
          | some v => some v
          | none => r.ref46 }))
  else .next s

/-- A write of SurveyControl (R404, R406, R432); a principal other than M leaves RegularStart as it is. -/
def writeSurveyControl (manager : Bool) (c : Nat) (w : BitVec 32) (s : State) : Byte × State :=
  let on := nbit w.toNat 0
  if manager ∧ !on ∧ s.presses.any (fun e => decide (e.2.state = .active)) then (resState, s)
  else
    (resOk, startConversion c (s.updSurvey c fun r =>
      let r := if manager then { r with regular := on } else r
      let r := requestInjected (field w.toNat 6 4) r
      if nbit w.toNat 1 then requestCal r else r))

/-! ## Thermal supervision (R410 to R416) -/

/-- The temperature that a diode code spells, in 1/8 °C (R410). -/
def diodeTemp (d : DiodeCal) (code : Nat) : Int :=
  let den : Int := (d.code1 : Int) - d.code0
  let num := ((code : Int) - d.code0) * (d.temp1 - d.temp0)
  clampI (-32768) 32767 (d.temp0 + (if den < 0 then rneDiv (-num) den.natAbs else rneDiv num den.natAbs))

/-- The presses at the fabric stops next to a press's stop (R24, R410). -/
def neighbours (p : Nat) : List Nat := allPresses.filter fun q => decide (hops p q = 1)

/-- The highest reading of the neighbouring presses plus 5 °C (R410). -/
def failedReading (s : State) (p : Nat) : Int :=
  match (neighbours p).map fun q => (s.press q).thermal.reading with
  | [] => 40
  | x :: r => clampI (-32768) 32767 (r.foldl max x + 40)

/-- The thresholds in 1/8 °C, WARN first (R412). -/
def thresholds (s : State) : List Int :=
  [8 * s.settings.warnThreshold.toInt, 8 * s.settings.halfThreshold.toInt, 8 * s.settings.quarterThreshold.toInt
  , 8 * s.settings.holdThreshold.toInt]

/-- Number of a level. -/
def levelNo : Level → Nat
  | .normal => 0
  | .warn => 1
  | .half => 2
  | .quarter => 3
  | .hold => 4

/-- Level of a number. -/
def levelOf (n : Nat) : Level :=
  match n with
  | 0 => .normal
  | 1 => .warn
  | 2 => .half
  | 3 => .quarter
  | _ => .hold

/-- The level whose threshold a reading has reached (R413). -/
def levelFor (s : State) (t : Int) : Nat := ((thresholds s).filter fun x => decide (x ≤ t)).length

/-- The release point of a level other than NORMAL (R412). -/
def releasePoint (s : State) (n : Nat) : Int := lget 0 (thresholds s) (n - 1) - 8 * (s.settings.thermHysteresis.toNat : Int)

/-- SkipEighths in QUARTER (R413). -/
def skipOf (s : State) (t : Int) : Nat :=
  let q := s.settings.quarterThreshold.toInt
  let h := s.settings.holdThreshold.toInt
  (clampI 0 7 (1 + (t - 8 * q) / (h - q))).toNat

/-- The divider of PCLK (R415). -/
def dividerOf (level : Nat) (rise : Bool) : Nat :=
  if level = 3 then 4 else if level = 2 ∨ (rise ∧ level ≤ 1) then 2 else 1

/-- The survey class after a reading (R411); the rate of rise is given as the difference over 100 ms in 1/8 °C. -/
def classOf (s : State) (level : Nat) (t d : Int) : SurveyClass :=
  let up := if level < 4 then [(lget 0 (thresholds s) level - t).natAbs] else []
  let down := if level = 0 then [] else [(t - releasePoint s level).natAbs]
  let dist := (up ++ down).foldl min 100000
  if dist ≤ 24 ∨ (s.settings.riseLimit.toNat : Int) < 25 * d then .fast else if dist ≤ 80 then .medium else .slow

/-- The reading of a history nearest to 100 ms ago (R414). -/
def readingThen (h : List (Nat × Int)) (now : Int) : Int :=
  ((argMin (fun (e : Nat × Int) => absDiff e.1 100000) h).map Prod.snd).getD now

/-- A thermal event: the press stands in its detail (R400, R435). -/
def raiseTherm (code : BitVec 16) (p : Nat) (detail : List Byte) (s : State) : State :=
  raise code none none (s.pressVat p) (leBytes 1 p ++ detail) s

/-- An upward move of a press's level (R412, R413, R415). -/
def levelUp (p new : Nat) (s : State) : State :=
  let th := (s.press p).thermal
  let old := levelNo th.level
  let skip := if new = 3 then skipOf s th.reading else 0
  let s := s.updThermal p fun x => { x with level := levelOf new, skip := skip, belowFor := 0 }
  let s := if old = 0 then raiseTherm evThermWarn p ([0] ++ leInt 2 th.reading ++ leBytes 1 (bitOf th.diodeFailed)) s else s
  if new = 4 then raiseTherm evThermHold p ([0] ++ leInt 2 th.reading) s
  else if dividerOf new th.rise ≠ dividerOf old th.rise then
    raiseTherm evThermThrottle p (leBytes 1 new ++ leBytes 1 skip ++ [0] ++ leInt 2 th.reading) s
  else s

/-- A downward move by one level (R413). -/
def levelDown (p : Nat) (s : State) : State :=
  let th := (s.press p).thermal
  let old := levelNo th.level
  let below := decide (2 ≤ old) && decide (th.reading < releasePoint s (old - 1))
  let skip := if old - 1 = 3 then skipOf s th.reading else 0
  raiseTherm evThermClear p (leBytes 1 old ++ leInt 2 th.reading)
    (s.updThermal p fun x => { x with level := levelOf (old - 1), skip := skip, belowFor := bitOf below })

/-- Time for which a condition has held, plus 1 (R413, R414). -/
def heldFor (holds : Bool) (before us : Nat) : Nat := if holds then (if before = 0 then 1 else before + us) else 0

/-- The supervisor asks for a confirming conversion in slot 3 of its converter (R404, R413, R414). -/
def askConfirm (p : Nat) (s : State) : State :=
  let c := p / 34
  if tget false (s.survey c).injPending 3 then s
  else
    (startConversion c (s.updSurvey c fun r =>
      { r with injPending := tput false r.injPending 3 true, slot3Channel := p % 34 })).updThermal p
      fun x => { x with confirming := true }

/-- The level and RiseThrottle follow a reading (R413, R414); d is the difference to the reading 100 ms ago. -/
def supervise (p : Nat) (us : Nat) (d : Int) (confirm : Bool) (s : State) : State :=
  let th := (s.press p).thermal
  let limit : Int := s.settings.riseLimit.toNat
  let level := levelNo th.level
  let target := levelFor s th.reading
  let steep := decide (2 * limit < 25 * d) && !th.rise
  let s :=
    if confirm then
      let s := s.updThermal p fun x => { x with confirming := false }
      let s := if level < target then levelUp p target s else s
      if steep then
        raiseTherm evThermRise p ([0] ++ leInt 2 th.reading ++ leInt 2 (rneDiv (25 * d) 2))
          (s.updThermal p fun x => { x with rise := true, calmFor := 0 })
      else s
    else if level < target ∨ steep then askConfirm p s
    else s
  let s :=
    if level = 0 ∨ levelNo (s.press p).thermal.level ≠ level then s
    else
      let held := heldFor (decide (th.reading < releasePoint s level)) th.belowFor us
      let s := s.updThermal p fun x => { x with belowFor := held }
      if 100001 ≤ held then levelDown p s else s
  if th.rise then
    let calm := heldFor (decide (25 * d ≤ limit)) th.calmFor us
    if 100001 ≤ calm then
      raiseTherm evThermClear p ([5] ++ leInt 2 th.reading) (s.updThermal p fun x => { x with rise := false, calmFor := 0 })
    else s.updThermal p fun x => { x with calmFor := calm }
  else s

/-! ## Drift (R425, R426) -/

/-- The largest x below 2^n that is not above the root: x^80 ≤ b. -/
def root80 (b : Nat) : Nat → Nat → Nat
  | 0, x => x
  | n + 1, x => root80 b n (if (x + 2 ^ n) ^ 80 ≤ b then x + 2 ^ n else x)

/-- F(T) of R425 in units of 2^-16: 2^((T - 85) / 10) from 1/4 to 4; where that is no multiple of the unit, rounded as the
implementation does. -/
def driftFactor (t : Int) : Nat :=
  let k := clampI (-160) 160 (t - 680)
  let b := 2 ^ (1280 + k).toNat
  let x := root80 b 19 0
  if x ^ 80 = b then x else x + min 1 (Config.driftRounding t)

/-- Drift-equivalent time is added to a press and its plates; a LIVE plate past its schedule raises REFRESH_OVERDUE once
(R425, R426). -/
def addDrift (p us : Nat) (s : State) : State :=
  let f := us * driftFactor (s.press p).thermal.reading
  let s := s.updPress p fun r => { r with stepAcc := r.stepAcc + f }
  let limit := s.settings.refreshOverdueSteps.toNat * stepGoal s
  forN 17 (fun q t =>
    let t := t.updPlate p q fun y => { y with driftAge := y.driftAge + f }
    let y := (t.press p).plate q
    if y.state = .live ∧ limit < y.driftAge ∧ !y.overdue then
      raise evRefreshOverdue (some p) (some q) (t.pressVat p)
        (leBytes 1 ((t.press p).eventLog q) ++ [0, 0, 0] ++ leBytes 4 (y.driftAge / 65536000000))
        (t.updPlate p q fun y => { y with overdue := true })
    else t) s

/-! ## The reader (R408 to R410) -/

/-- A reading of a press's diode; us is the time since its previous reading. -/
def diodeReading (p : Nat) (code us : Nat) (confirm : Bool) (s : State) : State :=
  let th := (s.press p).thermal
  let bad := decide (code = 0 ∨ code = 4095)
  let failed := th.diodeFailed || (bad && th.badCode)
  let t := if failed then failedReading s p else diodeTemp (tget {} s.otp.diodes p) code
  let aged := th.history.map fun e => (e.1 + us, e.2)
  let recent := aged.filter fun e => decide (e.1 ≤ 200000)
  let past := recent ++ (aged.drop recent.length).take 1
  let d := t - readingThen past t
  let s := s.updThermal p fun x =>
    { x with
      reading := t, badCode := bad, diodeFailed := failed, history := (0, t) :: past
      rate := clampI (-32768) 32767 (rneDiv (25 * d) 2), peak := if x.seen then max x.peak t else t, seen := true }
  let s := if failed ∧ !th.diodeFailed then raiseTherm evThermWarn p ([0] ++ leInt 2 t ++ [1]) s else s
  let s := supervise p us d (confirm && th.confirming) s
  let s := s.updThermal p fun x =>
    { x with cls := classOf s (levelNo x.level) t d, skip := if x.level = .quarter then skipOf s t else 0 }
  formTrims p (holdHot p (addDrift p us s))

/-- SURVEY_READER: the survey reader takes the oldest result of a converter: diode readings go to the thermal supervisor,
supply readings to the governor (R408, R409). -/
def execSurveyReader (c : Conv) (us : Nat) (s : State) : Out :=
  match (s.survey c).queue with
  | [] => .next s
  | w :: rest =>
    let x := w.toNat
    let ch := field x 23 18
    let code := field x 11 0
    let win := field x 27 26
    let injected := nbit x 30
    let slot := field x 29 28
    let was := tget false (s.survey c).outside ch
    let s := s.updSurvey c fun r =>
      { r with
        queue := rest, last := tput 0 r.last ch w
        injResult := if injected then tput 0 r.injResult slot w else r.injResult
        outside := if 34 ≤ ch then tput false r.outside ch (decide (win ≠ 0)) else r.outside }
    let s := if 38 ≤ ch ∧ ch < 46 then
        s.updGov fun g => { g with supply := tput 0 g.supply (8 * c.val + (ch - 38)) (BitVec.ofNat 12 code) }
      else s
    if ch < 34 then .next (diodeReading (diodePress c ch) code us (injected && decide (slot = 3)) s)
    else if win ≠ 0 ∧ !was then
      .next (raise evSurveyWindow none none none (leBytes 1 c.val ++ leBytes 1 ch ++ leBytes 2 code ++ leBytes 1 win) s)
    else .next s

/-- THERMTRIP: a diode's comparator trips; THERMTRIP_N latches low until cold reset (R416). -/
def execThermtrip (_p : Press) (s : State) : Out := .next (s.updDev fun d => { d with thermtripLow := true })

/-! ## The governor (R417 to R419, R361, R355) -/

/-- f of R418 in 1/256. -/
def governorFactor (plan : List (BitVec 16)) (history : List Nat) : Nat :=
  let budget := (lget 0 plan 0).toNat * 1000000
  let shares := ((lget 0 plan 1).toNat + (lget 0 plan 2).toNat + (lget 0 plan 3).toNat) * 1000
  let used := (history.take 999).foldl (· + ·) 0 + 34000
  min 256 (max 128 ((budget - used) * 256 / shares))

/-- Grants of a window in microjoules from allowances and demands, analogue, digital and engraving; and what each class may
be charged in it: its allowance less what it lends, with what it borrows (R38, R417, R428). -/
def grantClasses (order : Nat) (aA aD aE dA dD dE : Nat) : List Nat × List Nat :=
  let gA := min aA dA
  let gD := min aD dD
  let gE := min aE dE
  let rest := aE - gE
  let toA := if order = 0 then min rest (dA - gA) else min (rest - min rest (dD - gD)) (dA - gA)
  let toD := min (rest - toA) (dD - gD)
  let crossA := min (aD - gD) (dA - gA - toA)
  let crossD := min (aA - gA) (dD - gD - toD)
  ([gA + toA + crossA, gD + toD + crossD, gE]
  , [aA + toA + crossA - crossD, aD + toD + crossD - crossA, aE - toA - toD])

/-- Energy in watts over 1 s, to the nearest 1 W (R361). -/
def secondWatts (e : Nat) : Nat := (e + 500000) / 1000000

/-- POWER_LIMITED of class i after a window (R419): demand and grant are averages of the 1,000 windows that made it (R361). -/
def limitClass (i demand grant : Nat) (s : State) : State :=
  let over' := decide (grant < demand)
  let g := s.gov
  let n := if over' then min 1000 (lget 0 g.limitedFor i + 1) else 0
  let c := lget 0 g.clearFor i
  let c' := if over' then (if c = 1000 then 1000 else 0) else min 1000 (c + 1)
  let fire := decide (n = 1000 ∧ c' = 1000)
  let sum := fun (l : List Nat) (x : Nat) => if !over' then 0 else if lget 0 g.limitedFor i = 1000 then lget 0 l i else lget 0 l i + x
  let s := s.updGov fun g =>
    { g with limitedFor := lset g.limitedFor i n, clearFor := lset g.clearFor i (if fire then 0 else c')
             limited := lset g.limited i (decide (n = 1000)), limitDemand := lset g.limitDemand i (sum g.limitDemand demand)
             limitGrant := lset g.limitGrant i (sum g.limitGrant grant) }
  if fire then
    raise evPowerLimited none none none
      (leBytes 1 i ++ [0] ++ leBytes 2 (secondWatts (lget 0 s.gov.limitDemand i)) ++
        leBytes 2 (secondWatts (lget 0 s.gov.limitGrant i))) s
  else s

/-- The base part of a vat in one window in microjoules: 24 W in proportion to its presses (R361). -/
def vatBase (s : State) (v : Nat) : Nat :=
  let active := (allPresses.filter fun p => decide ((s.press p).state = .active)).length
  24000 * (s.vatPresses v).length / max 1 active

/-- The energy in microjoules that class i had admitted for the work of a vat in the window that ends; 8 is no vat (R361). -/
def admittedFor (s : State) (i v : Nat) : Nat := tget 0 s.gov.admitted (9 * i + v) / 1000000

/-- The energy admitted for a class in the window that ends. -/
def admittedOf (s : State) (i : Nat) : Nat := ((List.range 9).map (admittedFor s i)).foldl (· + ·) 0

/-- The energy of a vat in the window that ends: its part of the base and what was admitted for its work (R361). -/
def vatEnergy (s : State) (v : Nat) : Nat :=
  vatBase s v + admittedFor s 0 v + admittedFor s 1 v + admittedFor s 2 v

/-- What the last reading of a supply channel of a converter stands for, in millivolts or milliamperes (R401, R408). -/
def supplyReading (s : State) (c ch : Nat) : Nat := Config.supplyScale c ch (tget 0 s.gov.supply (8 * c + (ch - 38)))

/-- The package energy of a window in microjoules: voltage times current over the four supplies of each converter, times 1 ms
(R401, R418). -/
def measuredEnergy (s : State) : Nat :=
  ((List.range 8).map fun k => supplyReading s (k / 4) (38 + k % 4) * supplyReading s (k / 4) (42 + k % 4)).foldl (· + ·) 0 / 1000

/-- The demand of class i in microjoules in the window that ends: the work that was admitted and the work that was ready and
not admitted (R417), with the work x of the class that the pieces tried do not show (assumption 57). -/
def demandOf (s : State) (i x : Nat) : Nat := admittedOf s i + (refusedOf s i + 999999) / 1000000 + x

/-- A vat's power in one window enters its trace and its 1 s sum (R361, R370). -/
def countVatPower (n v : Nat) (s : State) : State :=
  if (s.vat v).state = .off then s
  else
    s.updVat v fun r =>
      { r with
        powerSum := r.powerSum + n
        powerTrace := (r.powerTrace.drop (r.powerTrace.length - 1023)) ++ [BitVec.ofNat 16 (min n 65535)] }

/-- The 1 s window ends: readings are averaged to the nearest watt, and holds of R355 run down. -/
def endSecond (s : State) : State :=
  let w := fun (e : Nat) => BitVec.ofNat 16 (secondWatts e)
  let x := s.gov.sums
  let t := lget 0 x 0
  let a := lget 0 x 1
  let d := lget 0 x 2
  let e := lget 0 x 3
  let s := s.updGov fun g =>
    { g with packagePower := w t, classPower := [w (t - (a + d + e)), w a, w d, w e], sums := [0, 0, 0, 0], windows := 0 }
  forN 8 (fun v t => t.updVat v fun r =>
    { r with power := w r.powerSum, powerSum := 0, padHold := r.padHold - 1
             padWatts := if r.state ≠ .pulping ∧ r.padHold ≤ 1 then 0 else r.padWatts }) s

/-- Cycles with a running job are added to the vats' busy counts (R370). -/
def countBusy (e : Press × Nat) (s : State) : State :=
  match (s.press e.1).vat with
  | some v => s.updVat v fun r => { r with busy := tmod 0 r.busy (s.press e.1).vatPress (· + e.2) }
  | none => s

/-- GOVERNOR_WINDOW: a window of 1 ms ends, with what was measured, admitted and demanded in it; by these demands the classes
lend and borrow in the window that begins, under the energy table then active (R417 to R419, R457 step 3). Plates beyond the
new engraving grant stop (R322). -/
def execGovernorWindow (m : GovMeasure) (s : State) : Out :=
  let plan := s.settings.budgetPlan
  let energy := measuredEnergy s
  let history := (energy :: s.gov.history).take 999
  let halvings := if s.settings.packageMax.toNat * 1000 < energy then s.gov.halvings + 1 else 0
  let f := governorFactor plan history
  let allow := fun (i : Nat) => (lget 0 plan i).toNat * 1000 * f / 256 / 2 ^ halvings
  let demands := [demandOf s 0 m.demandA, demandOf s 1 m.demandD, demandOf s 2 m.demandE]
  let (grants, limits) :=
    grantClasses s.settings.lendOrder.toNat (allow 1) (allow 2) (allow 3) (lget 0 demands 0) (lget 0 demands 1) (lget 0 demands 2)
  let held := (List.range 8).filter fun v => padded (s.vat v)
  let total := fun (x : Nat → Nat) => (held.map x).foldl (· + ·) 0
  let pad := total fun v => (s.vat v).padWatts.toNat * 1000
  let out := fun (i : Nat) (x : Nat) => lget 0 s.gov.sums i + x
  let vats := (List.range 8).map (vatEnergy s)
  let s := s.updGov fun g =>
    { g with
      plan := plan, factor := f, grants := grants, history := history, halvings := halvings, windows := g.windows + 1
      credits := some (limits.map (· * 1000000)), admitted := [], refused := [], table := s.dev.activeImage
      sums := [out 0 (energy - total (vatEnergy s) + pad)
        , out 1 (admittedOf s 0 - total (admittedFor s 0) + pad)
        , out 2 (admittedOf s 1 - total (admittedFor s 1))
        , out 3 (admittedOf s 2 - total (admittedFor s 2))] }
  let s := forN 3 (fun i t => limitClass i (lget 0 demands i) (lget 0 grants i) t) s
  let s := forN 8 (fun v t => countVatPower (lget 0 vats v) v t) s
  let s := forL m.busy countBusy s
  .next (shedEngravings (if 1000 ≤ s.gov.windows then endSecond s else s))

/-- A write of BudgetPlan (R428). -/
def writeBudget (data : List Byte) (s : State) : Byte × State :=
  let v := fun (i : Nat) => leAt data (2 * i) 2
  if v 0 = 24 + v 1 + v 2 + v 3 ∧ 40 ≤ v 0 ∧ v 0 ≤ 90 ∧ 8 ≤ v 1 ∧ 4 ≤ v 2 ∧ 1 ≤ v 3 ∧ v 3 ≤ 16 then
    (resOk, s.updSettings fun t => { t with budgetPlan := (List.range 4).map fun i => BitVec.ofNat 16 (v i) })
  else (resRange, s)

/-! ## Activity entries and clocks (R360, R459) -/

/-- The units of the activity entries in powers of two (R360). -/
def activityUnits : List Nat := [20, 20, 30, 20, 8]

/-- ACTIVITY_REFRESH: the activity entries of every vat that is not PULPING are refreshed together (R355, R360). -/
def execActivityRefresh (s : State) : Out :=
  .next (forN 8 (fun v t =>
    if (t.vat v).state = .pulping then t
    else
      t.updVat v fun r =>
        { r with shown := (List.range 5).map fun i =>
            BitVec.ofNat 32 (min (lget 0 r.exact i / 2 ^ lget 0 activityUnits i) (2 ^ 32 - 1)) }) s)

/-- CLOCK_LOCK_LOSS: a PLL loses lock (R459). -/
def execClockLockLoss (c : Clock) (s : State) : Out :=
  let drop := fun (i : Nat) (t : State) => t.updDev fun d => { d with clockLock := d.clockLock &&& ~~~ BitVec.ofNat 6 (2 ^ i) }
  match c with
  | .pclk => .next (drop 0 s)
  | .fclk => .next (drop 1 s)
  | .hclk => .next (drop 2 s)
  | .mclk => .next (drop 3 s)
  | .sclk => .next (drop 4 s)
  | .vclk => .next (drop 5 s)
  | .cclk p => .next (s.updDev fun d => { d with cclkLock := tput false d.cclkLock p.val false })

end Sys2Proof.Machine
end

