-- ==== Sys2Proof/Machine/DictVat.lean ====
section
/-! DEFINITION. DictVat.lean: the entries of a vat (04 R147; 10 R334 to R337; 11 R368 to R370). -/

namespace Sys2Proof.Machine

/-- M, H, V and T. -/
def mhvt : List Who := [.m, .h, .v, .t]
/-- V and T. -/
def vt : List Who := [.v, .t]

/-- A number that a vat holds. -/
def vatNum (v n : Nat) (r : List Who) (get : VatRec → Nat) : Obj := (roNum n r fun s => get (s.vat v)).ownedBy (.vat v)
/-- A DOMAIN that a vat holds. -/
def vatDom (v : Nat) (r : List Who) (get : VatRec → List Byte) : Obj := (roDom r fun s => get (s.vat v)).ownedBy (.vat v)
/-- A number of a vat's configuration: written by M while the vat is OFF (R476). -/
def vatSet (v n lo hi : Nat) (r : List Who) (get : VatRec → Nat) (set : Nat → VatRec → VatRec) : Obj :=
  { (rwNum n lo hi r [.m] (fun s => get (s.vat v)) (fun x s => s.updVat v (set x))).ownedBy (.vat v) with
    busy := fun s => decide ((s.vat v).state ≠ .off) }

/-! ## 0x2100 + v (R368) -/

/-- A write of VatCommand (R344, R352, R356). -/
def vatCommand (v : Nat) (pr : Principal) (_off : Nat) (data : List Byte) (s : State) : Byte × State :=
  if leNat data = 1 then (if pr = .M then configureVat v s else (resRights, s))
  else if leNat data = 2 then pulpVat v s
  else if leNat data = 3 then resetVat v s
  else (resRange, s)

/-- Debug states (R368). -/
def debugCode : DebugSt → Nat
  | .off => 0
  | .entering => 1
  | .active => 2

/-- PressMap (R368). -/
def pressMapEntry (v : Nat) : Obj :=
  { ty := .dom 64 64, r := mhv, w := [.m], owner := .vat v
    get := fun s _ => tgetN 0xFF#8 (s.vat v).pressMap 0 64
    busy := fun s => decide ((s.vat v).state ≠ .off)
    range := fun d => d.all fun b => decide (b.toNat < 68 ∨ b = 0xFF)
    put := fun _ _ d s => (resOk, s.updVat v fun r => { r with pressMap := tputL 0xFF [] 0 d }) }

/-- TenantKeyDigest (R368). -/
def tenantKeyEntry (v : Nat) : Obj :=
  { ty := .dom 32 32, r := mhvt, w := [.m], owner := .vat v
    get := fun s _ => bytes256 (s.vat v).tenantKey
    busy := fun s => decide ((s.vat v).state ≠ .off)
    put := fun _ _ d s => (resOk, s.updVat v fun r => { r with tenantKey := ofBytes 256 d }) }

/-- The entries of 0x2100 + v. -/
def vats2100 (v sub : Nat) : Option Obj :=
  match sub with
  | 0x01 => some (vatNum v 1 mhvt fun r => vatCode r.state)
  | 0x02 => some ((command (.num 1) mh (vatCommand v)).ownedBy (.vat v))
  | 0x03 => some (pressMapEntry v)
  | 0x04 => some (vatSet v 4 0 (2 ^ 32 - 1) mh (fun r => r.quotaBase.toNat) (fun x r => { r with quotaBase := BitVec.ofNat 32 x }))
  | 0x05 => some (vatSet v 4 0 (2 ^ 32 - 1) mhv (fun r => r.quotaPages.toNat)
      (fun x r => { r with quotaPages := BitVec.ofNat 32 x }))
  | 0x06 => some (vatSet v 2 0 4095 mhv (fun r => r.streamBase.toNat) (fun x r => { r with streamBase := BitVec.ofNat 16 x }))
  | 0x07 => some (vatSet v 2 0 4096 mhv (fun r => r.streamCount.toNat)
      (fun x r => { r with streamCount := BitVec.ofNat 16 x }))
  | 0x08 => some (tenantKeyEntry v)
  | 0x09 => some ((roNum 1 mhv fun s => pulpProgress s v).ownedBy (.vat v))
  | 0x0A => some (vatNum v 1 mhvt fun r => debugCode r.debug)
  | 0x0B => some (vatNum v 2 mhvt fun r => r.debugCount.toNat)
  | 0x0C => some ((command .bool mh fun _ _ d s => debugRequest v (decide (leNat d = 1)) s).ownedBy (.vat v))
  | 0x0D => some (vatNum v 2 mhvt vatPower)
  | 0x0E => some (vatNum v 4 mhvt fun r => (lget 0 r.shown 0).toNat)
  | 0x0F => some (vatNum v 4 mhvt fun r => (lget 0 r.shown 1).toNat)
  | 0x10 => some (vatNum v 4 mhvt fun r => (lget 0 r.shown 2).toNat)
  | 0x11 => some (vatNum v 4 mhvt fun r => (lget 0 r.shown 3).toNat)
  | 0x12 => some (vatNum v 4 mhvt fun r => (lget 0 r.shown 4).toNat)
  | 0x13 => some (vatNum v 2 mhv fun r => if padded r then r.padWatts.toNat else 0)
  | _ => none

/-! ## 0x2610 + v (R147) -/

/-- The tables of a vat's current epoch. -/
def tablesNow (r : VatRec) : TableSet := if r.tableNow then r.tableSet1 else r.tableSet0

/-- The entries of 0x2610 + v. -/
def tables2610 (v sub : Nat) : Option Obj :=
  if 1 ≤ sub ∧ sub ≤ 8 then
    some ((roDom [.v, .t, .d] fun s => activationTable s (tablesNow (s.vat v)) (sub - 1)).ownedBy (.vat v))
  else if 9 ≤ sub ∧ sub ≤ 0x18 then
    some ((roDom [.v, .t, .d] fun s =>
      words 2 ((List.range 256).map (bookEntry s (tablesNow (s.vat v)) (sub - 9)))).ownedBy (.vat v))
  else none

/-! ## 0x2A10 + v (R334 to R337) -/

/-- Load states (R335). -/
def loadCode : LoadSt → Nat
  | .idle => 0
  | .fetching => 1
  | .staged => 2
  | .failed => 3
  | .aborted => 4

/-- ReamStatus (R335). -/
def reamStatusWord (l : Load) : Nat :=
  (if l.state = .failed then l.result.toNat * 2 ^ 56 + l.failCause.toNat * 2 ^ 48 else 0) + l.failedQuire.toNat * 2 ^ 32 +
    l.verified.length % 8192 * 2 ^ 19 + l.expected % 8192 * 2 ^ 6 + loadCode l.state

/-- The plates of a vat not yet engraved or pulped for its swap; an engraved plate that waits for step 3 of R326 is done
(R337). -/
def platesRemaining (s : State) (w : Swap) : Nat :=
  (w.todo.filter fun e => ((s.press e.1).plate e.2).ready.isNone).length

/-- SwapStatus (R337). -/
def swapStatusWord (s : State) (w : Swap) : Nat :=
  platesRemaining s w % 65536 * 2 ^ 32 + (if w.active then w.epoch.toNat * 2 ^ 16 else 0) + bitOf w.fromPending * 2 ^ 15 +
    w.edition % 128 * 2 ^ 8 + bitOf w.active

/-- The entries of 0x2A10 + v. -/
def reams2A10 (v sub : Nat) : Option Obj :=
  match sub with
  | 0x01 => some
      { ty := .dom 32 32, r := [.m, .t, .v], w := [.m, .t], owner := .vat v
        get := fun s _ => bytes256 (s.vat v).publisherKey
        busy := fun s => decide ((s.vat v).load.state = .fetching)
        put := fun _ _ d s => (resOk, s.updVat v fun r => { r with publisherKey := ofBytes 256 d }) }
  | 0x02 => some
      { ty := .num 4, r := mhv, w := [.m], owner := .vat v
        get := fun s _ => leBytes 4 (s.vat v).stagingPages.toNat
        put := fun _ _ d s => writeStaging v (BitVec.ofNat 32 (leNat d)) s }
  | 0x03 => some ((command (.dom 16 16) vt fun _ _ d s => loadReam v d s).ownedBy (.vat v))
  | 0x04 => some ((command .bool vt fun _ _ d s => cancelReam v (decide (leNat d = 1)) s).ownedBy (.vat v))
  | 0x05 => some ((command (.num 8) vt fun _ _ d s => postQuire v (BitVec.ofNat 64 (leNat d)) s).ownedBy (.vat v))
  | 0x06 => some (vatNum v 8 mhvt fun r => reamStatusWord r.load)
  | 0x07 => some ((command (.num 4) vt fun _ _ d s => swapRequest v (BitVec.ofNat 32 (leNat d)) s).ownedBy (.vat v))
  | 0x08 => some ((roNum 8 mhvt fun s => swapStatusWord s (s.vat v).swap).ownedBy (.vat v))
  | 0x09 => some (vatNum v 2 mhvt fun r => r.currentEpoch.toNat)
  | 0x0A => some (vatDom v mhvt fun r => bytes256 (reamDigest r.active))
  | 0x0B => some (vatDom v mhvt fun r => bytes256 (reamDigest r.pendingReam))
  | 0x0C => some (vatNum v 2 vt fun r => r.foreignPosts.toNat)
  | _ => none

/-! ## 0x2C10 + i and 0x2F10 + v (R362, R369, R370) -/

/-- RequesterPrincipal (R364): a function that writes a vat's slot does so with V rights. -/
def requester (i : Nat) (pr : Principal) : Nat :=
  match pr with
  | .M => 0
  | .T _ => 3
  | .H => if i = 1 then 1 else 2
  | _ => 2

/-- The rights and the owner of report slot i (R369). -/
def slotRights (i : Nat) : List Who × Owner :=
  if i = 0 then ([.m], .device) else if i = 1 then ([.h], .device) else (vt, .vat (i - 2))

/-- Report states (R369). -/
def reportCode : ReportSt → Nat
  | .empty => 0
  | .building => 1
  | .ready => 2

/-- The entries of 0x2C10 + i. -/
def reports2C10 (i sub : Nat) : Option Obj :=
  let (who, o) := slotRights i
  match sub with
  | 1 => some ((command (.dom 32 32) who fun pr _ d s => requestReport (requester i pr) i d s).ownedBy o)
  | 2 => some ((roNum 1 who fun s => reportCode (s.report i).status).ownedBy o)
  | 3 => some ((roDom who fun s => (s.report i).report).ownedBy o)
  | _ => none

/-- The entries of 0x2F10 + v. -/
def debug2F10 (v sub : Nat) : Option Obj :=
  match sub with
  | 1 => some (vatDom v [.d] fun r => words 8 ((List.range 5).map fun i => lget 0 r.exact i))
  | 2 => some (vatDom v [.d] fun r => words 8 (tgetN 0 r.busy 0 64))
  | 3 => some (vatDom v [.d] fun r =>
      words 2 (List.replicate (1024 - r.powerTrace.length) 0 ++ r.powerTrace.map BitVec.toNat))
  | _ => none

end Sys2Proof.Machine
end

