-- ==== Sys2Proof/Machine/Hubs.lean ====
section
/-! DEFINITION. Hubs.lean: accesses to package memory, patrol, live copies, pulping writes and retirement (09 R284 to
R300). -/

namespace Sys2Proof.Machine

/-- A word of a frame is uncorrectable and stays so until it is written (R284). -/
def markWord (f off : Nat) (s : State) : State :=
  if f < 65536 then s else s.updHubs fun h => { h with poison := tput false h.poison (256 * f + off / 8) true }

/-- What the hub answers to a read (R284, R296). -/
def respond (bytes : List Byte) (error : Bool) (s : State) : State :=
  s.updHubs fun h => { h with lastRead := bytes, lastError := error }

/-- An access fails for a job, or for a requester without one (R284, R296). -/
def accessFailed (job : Option (Press × Slot)) (v : Nat) (fail : ReadFail) (s : State) : State :=
  match job with
  | some (p, k) =>
    match (s.press p).slot k with
    | some _ => readFailed p k fail s
    | none => alone s
  | none => alone s
where
  /-- Without a job only the hub's own record is made. -/
  alone (s : State) : State :=
    match fail with
    | .notOwned pg => raiseNotOwned v pg s
    | .uncorrectable f => uncorrectableError f s
    | .seal => s
    | .held => s

/-- One access of a vat, translated and served (R284, R294, R296). -/
def serveAccess (v a : Nat) (op : MemOp) (e : Ecc) (job : Option (Press × Slot)) (s : State) : State :=
  let n := match op with
    | .read len => len
    | .write data => data.length
  let s := countExact v 3 n s
  match s.badPage v a n with
  | some pg =>
    let s := match op with
      | .read len => respond (s.pkgRead v a len) false s
      | .write data => s.pkgWrite v a data
    accessFailed job v (.notOwned pg) s
  | none =>
    match op with
    | .write data => s.pkgWrite v a data
    | .read len =>
      let frame := (s.vatFrame v (a / 2048)).getD 0
      match e with
      | .double => accessFailed job v (.uncorrectable frame) (respond [] true (markWord frame (a % 2048) s))
      | _ =>
        match s.badWord v a len with
        | some f => accessFailed job v (.uncorrectable f) (respond [] true s)
        | none =>
          let s := respond (s.pkgRead v a len) false s
          if e = .single then correctedError frame s else s

/-- An access takes effect, or waits at a page under copy in its order of arrival (R298); an address beyond the quota is
no page of the vat (R294). -/
def arriveAccess (v : Nat) (a : BitVec 46) (op : MemOp) (e : Ecc) (job : Option (Press × Slot)) (s : State) : State :=
  let n := match op with
    | .read len => len
    | .write data => data.length
  if s.copying v a.toNat n then holdRequest v a.toNat n (.access a op e job) s else serveAccess v a.toNat op e job s

/-- MEMORY_ACCESS: a read or a write of a vat's package memory. -/
def execMemoryAccess (v : Vat) (a : BitVec 46) (op : MemOp) (e : Ecc) (job : Option (Press × Slot)) (s : State) : Out :=
  .next (arriveAccess v.val a op e job s)

/-- PATROL_READ: the hub patrol reads one word of a frame (R284, R285, R297, R300). -/
def execPatrolRead (f : BitVec 24) (word : Fin 256) (e : Ecc) (s : State) : Out :=
  let f := f.toNat
  if e = .double ∨ s.poisoned f (8 * word.val) then .next (uncorrectableError f (markWord f (8 * word.val) s))
  else if e = .single then .next (correctedError f s)
  else .next s

/-- A request that a copy held is released (R298 step 7). -/
def releaseAccess (v : Nat) (h : HeldAccess) (s : State) : State :=
  match h with
  | .access a op e job => arriveAccess v a op e job s
  | .remote op => arriveRemote op s
  | .part g a n => if s.copying v a n then holdRequest v a n h s else gatherPart g a n s

/-- PAGE_COPY_DONE: a live copy ends with what the SECDED code found in the words it read, the held requests are served in
their order of arrival, and a swap whose sections waited goes on (R284, R298, R326). A copy whose page has left OWNED moves
nothing. -/
def execPageCopyDone (e : CopyEnd) (s : State) : Out :=
  match s.hubs.copies.find? fun c => decide (c.frame = e.frame.toNat) with
  | none => .next s
  | some c =>
    let s :=
      if (s.pageEntry c.frame).state = .owned then finishCopy c (copyReads c.frame e.found s)
      else s.updHubs fun h => { h with copies := h.copies.filter fun x => decide (x.frame ≠ c.frame) }
    .next (advanceSwaps (settleSignals (forL c.held (fun h t => releaseAccess c.vat.val h t) s)))

/-- PAGE_PULP_WRITE_DONE: the lowest PULPING frame of a stack has been written with zeros (R293). -/
def execPagePulpWriteDone (stack : Fin 4) (s : State) : Out :=
  match s.hubs.map.find? fun e => decide (65536 ≤ e.1 ∧ e.1 % 4 = stack.val ∧ e.2.state = .pulping) with
  | none => .next s
  | some e => .next (pulpPage e.1 s)

/-- A write of RetireAtStart: the frames that the data names are retired at once (R300, R301, R389). -/
def retireAtStart (off : Nat) (data : List Byte) (s : State) : Byte × State :=
  let frames := (List.range (data.length / 4)).map fun i => leAt data (4 * i) 4
  if s.hubs.everConfigured then (resState, s)
  else if off % 4 ≠ 0 ∨ data.length % 4 ≠ 0 ∨ 4096 < off + data.length then (resLength, s)
  else if frames.any fun f => decide (f < 65536 ∨ 16777216 ≤ f) then (resRange, s)
  else (resOk, forL frames (fun f t => retirePage f 3 t) s)

end Sys2Proof.Machine
end

