-- ==== Sys2Proof/Machine/DictDevice.lean ====
section
/-! DEFINITION. DictDevice.lean: the device-wide entries and those of the survey converters (04 R146, R149; 05 R185;
08 R279; 09 R301; 10 R333; 11 R369, R370; 12 R373, R375, R396, R397; 13 R427, R428, R431 to R434; 14 R459 to R461). -/

namespace Sys2Proof.Machine

/-! ## 0x1000 to 0x1FFF (R396) -/

/-- A constant or a value that every principal reads. -/
def anyNum (n : Nat) (get : State → Nat) : Obj := roNum n [.any] get

/-- The standard communication entries. -/
def standard1000 (idx sub : Nat) : Option Obj :=
  match idx, sub with
  | 0x1000, 0 => some (anyNum 4 fun _ => 0)
  | 0x1001, 0 => some (anyNum 1 fun s => (errorRegister s).toNat)
  | 0x1008, 0 => some { ty := .str 12, r := [.any], get := fun _ _ => ascii "Ohmaz OZ7120" }
  | 0x1009, 0 => some { ty := .str 2, r := [.any], get := fun _ _ => ascii "A1" }
  | 0x1017, 0 => some (rwNum 2 0 65535 [.any] [.m] (fun s => s.settings.heartbeatTime.toNat)
      (fun x s => s.updSettings fun t => { t with heartbeatTime := BitVec.ofNat 16 x }))
  | 0x1018, 1 => some (anyNum 4 fun _ => 0x00000B1D)
  | 0x1018, 2 => some (anyNum 4 fun _ => 0x00007120)
  | 0x1018, 3 => some (anyNum 4 fun _ => 0x00010000)
  | 0x1018, 4 => some { ty := .num 4, r := [.any], get := fun s _ => slice s.otp.serial 12 4 }
  | _, _ => none

/-! ## 0x2000, 0x2010, 0x2200, 0x2900 (R279, R459, R461) -/

/-- A write of ImageCommand (R456, R457). -/
def imageCommand (data : List Byte) (s : State) : Byte × State :=
  if leNat data = 1 then activateImage s else if leNat data = 2 then discardImage s else (resRange, s)

/-- The entries of 0x2000. -/
def device2000 (sub : Nat) : Option Obj :=
  match sub with
  | 1 => some (roNum 1 mhvt fun s => devCode s.dev.state)
  | 2 => some (command (.num 1) [.m] fun _ _ d s => if leNat d = 1 then deviceReset s else (resRange, s))
  | 3 => some (command (.dom 16 1024) mh fun _ _ d s => imageChunk d s)
  | 4 => some (command (.num 1) mh fun _ _ d s => imageCommand d s)
  | 5 => some (roNum 8 mh imageStatusWord)
  | 6 => some (roNum 4 mh fun s => s.dev.selfTestSummary.toNat)
  | 7 => some (roNum 4 mh fun s => s.dev.startupTime.toNat)
  | 8 => some (roNum 4 mh fun s => s.dev.outageMs.toNat)
  | 9 => some (roDom mh fun s => words 4 ((List.range 4).map fun i => (lget 0 s.dev.resetCounts i).toNat))
  | _ => none

/-- The entries of 0x2010. -/
def clocks2010 (sub : Nat) : Option Obj :=
  match sub with
  | 1 => some (roNum 4 mh clockLockWord)
  | 2 => some (roDom mh fun s => pressBits fun p => tget false s.dev.cclkLock p)
  | _ => none

/-- The entries of 0x2200. -/
def streams2200 (sub : Nat) : Option Obj :=
  match sub with
  | 1 => some (roNum 2 mh fun s => (s.streams.filter fun e => decide (e.2.state ≠ .free)).length)
  | 2 => some (roNum 2 mh fun s => (s.streams.filter fun e => decide (e.2.state = .opened)).length)
  | 3 => some (roNum 4 mh fun s => s.bridge.droppedTotal.toNat)
  | 4 => some (roNum 4 mh fun s => s.bridge.sealFailuresTotal.toNat)
  | 5 => some (roNum 2 mh fun s => linkWord s.bridge.link)
  | 6 => some (roNum 2 mh fun s => s.bridge.linkRetrains.toNat)
  | _ => none

/-- The entries of 0x2900. -/
def spares2900 (sub : Nat) : Option Obj :=
  match sub with
  | 1 => some (roNum 1 mh fun s => (spares s).length)
  | 2 => some (roDom mh fun s => lpad 0xFF 4 ((spares s).map (BitVec.ofNat 8)))
  | 3 => some (roDom mh fun s => pressBits fun p => decide ((s.press p).state = .retired))
  | _ => none

/-! ## 0x2600, 0x2680, 0x2B00 (R146, R149, R185) -/

/-- SatThreshold: from 1 to SatWindow. -/
def satThresholdEntry : Obj :=
  { setNum 4 1 16777216 (fun t => t.satThreshold.toNat) (fun x t => { t with satThreshold := BitVec.ofNat 32 x }) with
    rel := fun s d => decide (leNat d ≤ s.settings.satWindow.toNat) }

/-- The entries of 0x2600. -/
def quant2600 (sub : Nat) : Option Obj :=
  match sub with
  | 1 => some (setNum 1 0 3 (fun t => t.cmRepeatLimit.toNat) (fun x t => { t with cmRepeatLimit := BitVec.ofNat 8 x }))
  | 2 => some (setBool (fun t => t.clipRepeatEnable) (fun x t => { t with clipRepeatEnable := x }))
  | 3 => some (setNum 1 1 7 (fun t => t.maxScaleStep.toNat) (fun x t => { t with maxScaleStep := BitVec.ofNat 8 x }))
  | 4 => some (setNum 4 4096 16777216 (fun t => t.satWindow.toNat) (fun x t => { t with satWindow := BitVec.ofNat 32 x }))
  | 5 => some satThresholdEntry
  | 6 => some (setNum 2 4 65535 (fun t => t.coarseRatio.toNat) (fun x t => { t with coarseRatio := BitVec.ofNat 16 x }))
  | 7 => some (setNum 1 1 255 (fun t => t.blockQuietSteps.toNat) (fun x t => { t with blockQuietSteps := BitVec.ofNat 8 x }))
  | _ => none

/-- The entries of 0x2680. -/
def stipple2680 (sub : Nat) : Option Obj :=
  match sub with
  | 1 => some (setNum 1 8 64 (fun t => t.spillInterval.toNat) (fun x t => { t with spillInterval := BitVec.ofNat 8 x }))
  | 2 => some (setNum 1 0 3 (fun t => t.overflowRepeatLimit.toNat)
      (fun x t => { t with overflowRepeatLimit := BitVec.ofNat 8 x }))
  | 3 => some (setNum 2 256 65535 (fun t => t.scrubRowInterval.toNat)
      (fun x t => { t with scrubRowInterval := BitVec.ofNat 16 x }))
  | 4 => some (roNum 2 mh fun _ => 8192)
  | _ => none

/-- The entry of 0x2B00. -/
def stats2B00 (sub : Nat) : Option Obj :=
  match sub with
  | 1 => some (rwNum 1 0 1 [.d] [.d] (fun s => s.settings.statsDebugMaxAbs.toNat)
      (fun x s => debugStats (s.updSettings fun t => { t with statsDebugMaxAbs := BitVec.ofNat 8 x })))
  | _ => none

/-! ## 0x2700, 0x2701, 0x2800 (R427, R428, R434) -/

/-- The four thresholds in °C. -/
def thresholdsC (t : Settings) : List Int :=
  [t.warnThreshold.toInt, t.halfThreshold.toInt, t.quarterThreshold.toInt, t.holdThreshold.toInt]

/-- The maximum junction temperature of a grade in °C (R1). -/
def gradeMax : Grade → Int
  | .aq => 125
  | .iq => 110

/-- The thresholds rise, and Hold does not exceed the grade's maximum (R427). -/
def thresholdsOk (g : Grade) (l : List Int) : Bool :=
  decide (lget 0 l 0 < lget 0 l 1 ∧ lget 0 l 1 < lget 0 l 2 ∧ lget 0 l 2 < lget 0 l 3 ∧ lget 0 l 3 ≤ gradeMax g)

/-- Threshold i, 0 WARN to 3 HOLD (R427). -/
def thresholdEntry (i : Nat) (set : BitVec 16 → Settings → Settings) : Obj :=
  { ty := .num 2, r := mh, w := [.m], get := fun s _ => leInt 2 (lget 0 (thresholdsC s.settings) i)
    rel := fun s d => thresholdsOk s.otp.grade (lset (thresholdsC s.settings) i (sext 16 (leNat d)))
    put := fun _ _ d s => (resOk, s.updSettings (set (BitVec.ofNat 16 (leNat d)))) }

/-- The entries of 0x2700. -/
def thermal2700 (sub : Nat) : Option Obj :=
  match sub with
  | 1 => some (thresholdEntry 0 fun x t => { t with warnThreshold := x })
  | 2 => some (thresholdEntry 1 fun x t => { t with halfThreshold := x })
  | 3 => some (thresholdEntry 2 fun x t => { t with quarterThreshold := x })
  | 4 => some (thresholdEntry 3 fun x t => { t with holdThreshold := x })
  | 5 => some (setNum 1 1 10 (fun t => t.thermHysteresis.toNat) (fun x t => { t with thermHysteresis := BitVec.ofNat 8 x }))
  | 6 => some (setNum 2 10 200 (fun t => t.riseLimit.toNat) (fun x t => { t with riseLimit := BitVec.ofNat 16 x }))
  | 7 => some (roNum 2 mh fun s => if s.otp.grade = .aq then 135 else 120)
  | _ => none

/-- The entries of 0x2701. -/
def governor2701 (sub : Nat) : Option Obj :=
  match sub with
  | 1 => some
      { ty := .dom 8 8, r := mh, w := [.m], get := fun s _ => words 2 (s.settings.budgetPlan.map BitVec.toNat)
        put := fun _ _ d s => writeBudget d s }
  | 2 => some
      { setNum 2 0 110 (fun t => t.packageMax.toNat) (fun x t => { t with packageMax := BitVec.ofNat 16 x }) with
        rel := fun s d => decide ((lget 0 s.settings.budgetPlan 0).toNat ≤ leNat d) }
  | 3 => some (setNum 1 0 1 (fun t => t.lendOrder.toNat) (fun x t => { t with lendOrder := BitVec.ofNat 8 x }))
  | 4 => some (roNum 2 mh fun _ => 24)
  | 5 => some (roNum 2 mh fun s => s.gov.packagePower.toNat)
  | 6 => some (roDom mh fun s => words 2 (s.gov.classPower.map BitVec.toNat))
  | 7 => some (roNum 2 mh fun s => s.gov.factor)
  | 8 => some (roNum 1 mh fun s => bitsNat s.gov.limited)
  | _ => none

/-- The entries of 0x2800. -/
def trim2800 (sub : Nat) : Option Obj :=
  match sub with
  | 1 => some (setNum 1 2 32 (fun t => t.trimStep.toNat) (fun x t => { t with trimStep := BitVec.ofNat 8 x }))
  | 2 => some (setNum 2 1 1000 (fun t => t.trimFenceWait.toNat) (fun x t => { t with trimFenceWait := BitVec.ofNat 16 x }))
  | 3 => some (setNum 4 600 86400 (fun t => t.refreshStepInterval.toNat)
      (fun x t => { t with refreshStepInterval := BitVec.ofNat 32 x }))
  | 4 => some (setNum 1 17 64 (fun t => t.refreshOverdueSteps.toNat)
      (fun x t => { t with refreshOverdueSteps := BitVec.ofNat 8 x }))
  | 5 => some (roDom mh fun _ => ([-30, 0, 35, 70, 105] : List Int).flatMap (leInt 2))
  | _ => none

/-! ## 0x2780 + c and 0x2790 + c (R431 to R433) -/

/-- SurveyStatus (R432). -/
def surveyStatusWord (r : Survey) : Nat :=
  r.queue.length % 512 * 2 ^ 16 + r.calGeneration.toNat * 2 ^ 8 + bitsNat (tgetN false r.injPending 0 4) * 2 ^ 4 +
    bitOf r.calPending * 2 ^ 2 + bitOf r.calibrating * 2 + bitOf r.regular

/-- The entries of 0x2780 + c. -/
def survey2780 (c sub : Nat) : Option Obj :=
  match sub with
  | 1 => some
      { ty := .num 4, r := mh, w := mh, held := false, get := fun s _ => leBytes 4 (bitOf (s.survey c).regular)
        put := fun pr _ d s => writeSurveyControl (decide (pr = .M)) c (BitVec.ofNat 32 (leNat d)) s }
  | 2 => some (roNum 4 mh fun s => surveyStatusWord (s.survey c))
  | 3 => some
      { ty := .dom 3 3, r := mh, w := mh, get := fun s _ => tgetN 0 s.settings.injectedChannel (3 * c) 3
        range := fun d => d.all fun b => decide (34 ≤ b.toNat ∧ b.toNat ≤ 47)
        put := fun _ _ d s =>
          (resOk, s.updSettings fun t => { t with injectedChannel := tputL 0 t.injectedChannel (3 * c) d }) }
  | 4 => some (roDom mh fun s => words 4 ((tgetN 0 (s.survey c).injResult 0 4).map BitVec.toNat))
  | 5 => some (setNum 2 1 3600 (fun t => (tget 10 t.calInterval c).toNat)
      (fun x t => { t with calInterval := tput 10 t.calInterval c (BitVec.ofNat 16 x) }))
  | _ => none

/-- A write of ChannelWindow of channel ch, its reserved bits ignored (R10, R433). -/
def writeWindow (c ch : Nat) (data : List Byte) (s : State) : State :=
  s.updSettings fun t =>
    { t with channelWindow := tput 0x0FFF0000 t.channelWindow (64 * c + ch) (BitVec.ofNat 32 (leNat data) &&& 0x0FFF0FFF) }

/-- The entries of 0x2790 + c; ChannelWindow of channels 0 to 33 is refused with RIGHTS. -/
def channels2790 (c sub : Nat) : Option Obj :=
  if 1 ≤ sub ∧ sub ≤ 0x40 then
    some
      { ty := .num 4, r := mh, w := [.m], get := fun s _ => leBytes 4 (tget 0x0FFF0000 s.settings.channelWindow (64 * c + sub - 1)).toNat
        put := fun _ _ d s => if sub - 1 < 34 then (resRights, s) else (resOk, writeWindow c (sub - 1) d s) }
  else if 0x41 ≤ sub ∧ sub ≤ 0x80 then some (roNum 4 mh fun s => (tget 0 (s.survey c).last (sub - 0x41)).toNat)
  else none

/-! ## 0x2920 (R301) -/

/-- The entries of 0x2920. -/
def memory2920 (sub : Nat) : Option Obj :=
  if 0x10 ≤ sub ∧ sub ≤ 0x17 then
    some (setNum 1 1 255 (fun t => (tget 32 t.memoryWeight (sub - 0x10)).toNat)
      (fun x t => { t with memoryWeight := tput 32 t.memoryWeight (sub - 0x10) (BitVec.ofNat 8 x) }))
  else if 0x18 ≤ sub ∧ sub ≤ 0x1F then
    some ((roNum 4 mhv fun s => (vatFrames s (sub - 0x18) .owned).length).ownedBy (.vat (sub - 0x18)))
  else
    match sub with
    | 0x01 => some (roNum 4 mh freePages)
    | 0x02 => some (roNum 4 mh fun s => pagesIn s .owned)
    | 0x03 => some (roNum 4 mh fun s => pagesIn s .pulping)
    | 0x04 => some (roNum 4 mh fun s => pagesIn s .retired)
    | 0x05 => some (setNum 4 0 1048576 (fun t => t.replacementReserve.toNat)
        (fun x t => { t with replacementReserve := BitVec.ofNat 32 x }))
    | 0x06 => some (setNum 1 1 255 (fun t => t.retireThreshold.toNat) (fun x t => { t with retireThreshold := BitVec.ofNat 8 x }))
    | 0x07 => some (setNum 2 1 168 (fun t => t.scrubPeriod.toNat) (fun x t => { t with scrubPeriod := BitVec.ofNat 16 x }))
    | 0x08 => some (roNum 4 mh fun s => s.hubs.correctedTotal.toNat)
    | 0x09 => some (roNum 4 mh fun s => s.hubs.uncorrectableTotal.toNat)
    | 0x0A => some (setNum 1 16 255 (fun t => t.pulpShare.toNat) (fun x t => { t with pulpShare := BitVec.ofNat 8 x }))
    | 0x0B => some (command (.dom 0 4096) [.m] fun _ off d s => retireAtStart off d s)
    | 0x0C => some (rwNum 4 0 16777215 [.m] [.m] (fun s => s.hubs.pageQuery.toNat)
        (fun x s => s.updHubs fun h => { h with pageQuery := BitVec.ofNat 32 x }))
    | 0x0D => some (roNum 8 [.m] fun s => pageWord (s.pageEntry s.hubs.pageQuery.toNat))
    | _ => none

/-! ## 0x2A00 (R333) -/

/-- The entries of 0x2A00. -/
def engraving2A00 (sub : Nat) : Option Obj :=
  match sub with
  | 1 => some (setNum 2 10 6000 (fun t => t.quireTimeout.toNat) (fun x t => { t with quireTimeout := BitVec.ofNat 16 x }))
  | 2 => some (setNum 1 16 255 (fun t => t.biteLimit.toNat) (fun x t => { t with biteLimit := BitVec.ofNat 8 x }))
  | 3 => some (setNum 2 10 400 (fun t => t.engraveCheckLimit.toNat)
      (fun x t => { t with engraveCheckLimit := BitVec.ofNat 16 x }))
  | 4 => some (roNum 2 mh fun _ => 250)
  | 5 => some (roNum 1 mh engravingsActive)
  | 6 => some (setNum 4 1 1000000 (fun t => t.enduranceWarn.toNat) (fun x t => { t with enduranceWarn := BitVec.ofNat 32 x }))
  | _ => none

/-! ## 0x2C00 and 0x2F00 (R369, R370) -/

/-- A public key as its 64 bytes, zeros while none is derived (R366). -/
def publicKey (k : Option (BitVec 256)) : List Byte :=
  match k with
  | some d => bytes512 (Config.sm2Public d)
  | none => List.replicate 64 0

/-- The entries of 0x2C00. -/
def identity2C00 (sub : Nat) : Option Obj :=
  match sub with
  | 1 => some (roDom mhvt fun s => slice s.otp.serial 0 16)
  | 2 => some (roDom mhvt fun s => publicKey s.dev.identityKey)
  | 3 => some (roDom mhvt fun s => publicKey s.dev.attestKey)
  | 4 => some (roDom mhvt fun s => s.otp.chain)
  | 5 => some (roNum 4 mhvt fun s => (fuseState s).toNat)
  | 6 => some (roDom mhvt fun s => bytes256 s.otp.ownerDigest)
  | 7 => some (roNum 4 mh fun s => s.dev.reportSequence.toNat)
  | 8 => some (roNum 1 mhvt personalityState)
  | _ => none

/-- The entry of 0x2F00. -/
def debug2F00 (sub : Nat) : Option Obj :=
  match sub with
  | 1 => some (roNum 1 mh fun s => bitsNat ((List.range 8).map fun v => decide ((s.vat v).debug = .active)))
  | _ => none

/-! ## 0x2D00, 0x2D10 and 0x2D20 (R373, R375, R397) -/

/-- A bit timing that the fields of R373 allow, Seg2 and Seg1 up to their largest values, and whose bit rate R372 supports:
a bit takes lo to hi periods of 12.5 ns. -/
def timingOk (seg2 seg1 lo hi : Nat) (data : List Byte) : Bool :=
  let v := leNat data
  let s2 := field v 23 16
  let s1 := field v 15 8
  decide (2 ≤ s2 ∧ s2 ≤ seg2 ∧ 2 ≤ s1 ∧ s1 ≤ seg1 ∧ 1 ≤ field v 7 0 ∧ field v 7 0 ≤ 32 ∧ 1 ≤ field v 31 24 ∧ field v 31 24 ≤ s2) &&
    decide (lo ≤ field v 7 0 * (1 + s1 + s2) ∧ field v 7 0 * (1 + s1 + s2) ≤ hi)

/-- NmtState (R397): its default 0x7F until the node has booted. -/
def nmtState (s : State) : Nat := if s.mgmt.nmt = .initialising then 0x7F else (nmtCode s.mgmt.nmt).toNat

/-- CanErrorState (R397). -/
def canErrorWord (m : Mgmt) : Nat := m.recoveries.toNat * 2 ^ 16 + m.recv.toNat * 2 ^ 8 + min m.tec.toNat 255

/-- The entries of 0x2D00. -/
def port2D00 (sub : Nat) : Option Obj :=
  match sub with
  | 1 => some
      { ty := .num 1, r := [.any], w := [.h], held := false, get := fun s _ => [s.mgmt.nodeId]
        put := fun _ _ d s => writeNodeId (BitVec.ofNat 8 (leNat d)) s }
  | 2 => some (anyNum 1 fun s => bitOf s.otp.hostAssigned)
  | 3 => some
      { setNum 4 0 (2 ^ 32 - 1) (fun t => t.nominalBitTiming.toNat) (fun x t => { t with nominalBitTiming := BitVec.ofNat 32 x }) with
        range := timingOk 128 255 80 640 }
  | 4 => some
      { setNum 4 0 (2 ^ 32 - 1) (fun t => t.dataBitTiming.toNat) (fun x t => { t with dataBitTiming := BitVec.ofNat 32 x }) with
        range := timingOk 16 32 10 80 }
  | 5 => some (anyNum 1 nmtState)
  | 6 => some (roNum 4 mh fun s => canErrorWord s.mgmt)
  | _ => none

/-- The event query of a principal (R397). -/
def queryOf (s : State) (pr : Principal) : BitVec 32 := if pr = .M then s.events.queryM else s.events.queryH

/-- The entries of 0x2D20. -/
def events2D20 (sub : Nat) : Option Obj :=
  match sub with
  | 1 => some (roNum 4 mh fun s => s.events.newest.toNat)
  | 2 => some (roNum 4 mh fun s => (eventOldest s).toNat)
  | 3 => some
      { ty := .num 4, r := mh, w := mh, get := fun s pr => leBytes 4 (queryOf s pr).toNat
        put := fun pr _ d s =>
          let n := BitVec.ofNat 32 (leNat d)
          (resOk, s.updEvents fun e => if pr = .M then { e with queryM := n } else { e with queryH := n }) }
  | 4 => some { ty := .dom 0 0, r := mh, get := fun s pr => eventRecord s (queryOf s pr) }
  | 5 => some (rwNum 4 0 (2 ^ 32 - 1) [.m] [.m] (fun s => s.events.ack.toNat)
      (fun x s => s.updEvents fun e => { e with ack := BitVec.ofNat 32 x }))
  | 6 => some (roNum 4 mh fun s => s.events.skipped.toNat)
  | _ => none

end Sys2Proof.Machine
end

