-- ==== Sys2Proof/Machine/Access.lean ====
section
/-! DEFINITION. Access.lean: the object dictionary as a whole: which entry stands where, an access to it, and management
sessions, whose requests are accesses too (12 R380 to R391, R395, R397). -/

namespace Sys2Proof.Machine

/-! ## The session entries (R380, R381, R397) -/

/-- The Result of step 2 of R381 for an offer; a device without roots can run no exchange (R366). -/
def sessionOfferResult (s : State) (offer : List Byte) : Nat :=
  if offer.take 4 ≠ [0x4F, 0x5A, 0x4D, 0x4F] ∨ leAt offer 4 2 ≠ 1 then 1
  else if Config.sm3 (slice offer 8 64) ≠ s.otp.ownerDigest then 2
  else if !sm2OnCurve (ofBytes 512 (slice offer 8 64)) ∨ !sm2OnCurve (ofBytes 512 (slice offer 72 64)) then 3
  else if !rootsFused s.otp then 4
  else 0

/-- The 140 bytes of SessionAnswer (R380). -/
def sessionAnswer (result id : Nat) (body : List Byte) : List Byte :=
  [0x4F, 0x5A, 0x4D, 0x41] ++ leBytes 1 result ++ [0, 0, 0] ++ leBytes 4 id ++ lpad 0 128 body

/-- A write of SessionOffer (R381 steps 1 and 2). An accepted offer waits while the exchange of an earlier one runs. -/
def offerSession (data : List Byte) (s : State) : Byte × State :=
  let r := sessionOfferResult s data
  if r = 0 then
    (resOk, s.updMgmt fun m =>
      if m.offer.isSome then { m with offers := m.offers ++ [data] } else { m with offer := some data })
  else
    (resOk, raise evAuthFailed none none none (leBytes 1 r) (s.updMgmt fun m =>
      { m with answer := sessionAnswer r 0 [], authFailures := satInc m.authFailures }))

/-- A DOMAIN of the session entries, zeros before it is written. -/
def sessionDom (n : Nat) (l : List Byte) : List Byte := if l = [] then List.replicate n 0 else l

/-- The entries of 0x2D10. A write of SessionRequest is handled by `writeWith`. -/
def sessions2D10 (sub : Nat) : Option Obj :=
  match sub with
  | 1 => some (command (.dom 152 152) [.any] fun _ _ d s => offerSession d s)
  | 2 => some { ty := .dom 0 0, r := [.any], get := fun s _ => sessionDom 140 s.mgmt.answer }
  | 3 => some (command (.dom 36 1060) [.any] fun _ _ _ s => (resOk, s))
  | 4 => some { ty := .dom 0 0, r := [.any], get := fun s _ => sessionDom 36 s.mgmt.response }
  | 5 => some (anyNum 1 fun s => bitOf s.mgmt.active.isSome + 2 * bitOf s.mgmt.pending.isSome)
  | 6 => some (anyNum 4 fun s => (s.mgmt.active.map fun x => x.id.toNat).getD 0)
  | 7 => some (setNum 2 5 3600 (fun t => t.sessionIdle.toNat) (fun x t => { t with sessionIdle := BitVec.ofNat 16 x }))
  | 8 => some (setNum 1 4 255 (fun t => t.authFailLimit.toNat) (fun x t => { t with authFailLimit := BitVec.ofNat 8 x }))
  | 9 => some (roNum 4 mh fun s => s.mgmt.authFailures.toNat)
  | _ => none

/-! ## The dictionary (R395) -/

/-- The number of an index in an area of n indices from base. -/
def within (idx base n : Nat) : Option Nat := if base ≤ idx ∧ idx < base + n then some (idx - base) else none

/-- The indices of one press each: base, HighestSubIndex, entries. -/
def pressAreas : List (Nat × Nat × (Nat → Nat → Option Obj)) :=
  [(0x2300, 0x04, presses2300), (0x2400, 0x97, plates2400), (0x2500, 0x96, banks2500), (0x2620, 0x96, output2620),
    (0x2690, 0x33, stipple2690), (0x2710, 0x04, thermal2710), (0x2810, 0x14, trim2810), (0x2A80, 0x02, ledger2A80),
    (0x2B10, 0x97, stats2B10)]

/-- The indices of one vat each. -/
def vatAreas : List (Nat × Nat × (Nat → Nat → Option Obj)) :=
  [(0x2100, 0x13, vats2100), (0x2610, 0x18, tables2610), (0x2A10, 0x0C, reams2A10), (0x2F10, 0x03, debug2F10)]

/-- The device-wide indices. -/
def deviceAreas : List (Nat × Nat × (Nat → Option Obj)) :=
  [(0x1018, 0x04, standard1000 0x1018), (0x2000, 0x09, device2000), (0x2010, 0x02, clocks2010), (0x2200, 0x06, streams2200),
    (0x2600, 0x07, quant2600), (0x2680, 0x04, stipple2680), (0x2700, 0x07, thermal2700), (0x2701, 0x08, governor2701),
    (0x2800, 0x05, trim2800), (0x2900, 0x03, spares2900), (0x2920, 0x1F, memory2920), (0x2A00, 0x06, engraving2A00),
    (0x2B00, 0x01, stats2B00), (0x2C00, 0x08, identity2C00), (0x2D00, 0x06, port2D00), (0x2D10, 0x09, sessions2D10),
    (0x2D20, 0x06, events2D20), (0x2F00, 0x01, debug2F00)]

/-- HighestSubIndex and the entries of an index: none where the index is not present. -/
def indexOf (idx : Nat) : Option (Nat × (Nat → Option Obj)) :=
  let press := pressAreas.findSome? fun a => (within idx a.1 68).map fun p => (a.2.1, a.2.2 p)
  let vat := vatAreas.findSome? fun a => (within idx a.1 8).map fun v => (a.2.1, a.2.2 v)
  let dev := (deviceAreas.find? fun a => decide (a.1 = idx)).map fun a => (a.2.1, a.2.2)
  let conv := (within idx 0x2780 2).map fun c => (0x05, survey2780 c)
  let chan := (within idx 0x2790 2).map fun c => (0x80, channels2790 c)
  let slot := (within idx 0x2C10 10).map fun i => (0x03, reports2C10 i)
  ((((press.or vat).or dev).or conv).or chan).or slot

/-- An index whose one entry stands at sub-index 0 (R396). -/
def plainIndex (idx : Nat) : Bool := (standard1000 idx 0).isSome

/-- The entry at an index and sub-index, sub-index 0 apart where it is HighestSubIndex. -/
def objAt (idx sub : Nat) : Option Obj :=
  if plainIndex idx then standard1000 idx sub
  else
    match indexOf idx with
    | some (_, f) => if sub = 0 then none else f sub
    | none => none

/-- The Result of an access to something that is not there (R391). -/
def absent (idx : Nat) : Byte := if plainIndex idx ∨ (indexOf idx).isSome then resNoSubindex else resNoObject

/-- The principal may read some entry of an index besides HighestSubIndex (R386). -/
def readsAny (s : State) (pr : Principal) (f : Nat → Option Obj) : Bool :=
  (List.range 256).any fun sub =>
    match f sub with
    | some e => decide (e.r ≠ []) && decide (rightsResult s pr e.owner e.r = resOk)
    | none => false

/-- The rights that the tables list for the HighestSubIndex of an index beyond those of R386: any where a CAN node without a
session reads it (R396, R397), M and H for 0x2B00 (R149). -/
def topRights (idx : Nat) : List Who :=
  if idx = 0x1018 ∨ idx = 0x2D00 ∨ idx = 0x2D10 then [.any] else if idx = 0x2B00 then [.m, .h] else []

/-- A read by a principal: Result and bytes (R386, R389, R391). -/
def readEntry (s : State) (pr : Principal) (idx sub off len : Nat) : Byte × List Byte :=
  match indexOf idx, sub with
  | some (h, f), 0 =>
    if !readsAny s pr f ∧ !(topRights idx).any (holds s pr .device) then (resRights, [])
    else if off = 0 ∧ len = 1 then (resOk, leBytes 1 h) else (resLength, [])
  | _, _ =>
    match objAt idx sub with
    | none => (absent idx, [])
    | some e => readResult s pr (rightsResult s pr e.owner e.r) e off len

/-! ## Requests (R383, R384) -/

/-- A request header (R383). -/
structure Header where
  op : Nat
  mode : Nat
  sub : Nat
  idx : Nat
  len : Nat
  off : Nat
  stream : Nat
  deriving DecidableEq, Repr

/-- The header in 16 bytes. -/
def parseHeader (l : List Byte) : Header :=
  { op := leAt l 0 1, mode := leAt l 1 1, sub := leAt l 2 1, idx := leAt l 4 2, len := leAt l 6 2, off := leAt l 8 4
    stream := field (leAt l 12 2) 11 0 }

/-- The response header (R383). -/
def responseHeader (result : Byte) (h : Header) (len : Nat) : List Byte :=
  [result, 0] ++ leBytes 1 h.sub ++ [0] ++ leBytes 2 h.idx ++ leBytes 2 len ++ leBytes 4 h.off ++ [0, 0, 0, 0]

/-- How an access writes: principal, index, sub-index, Offset and data. -/
abbrev Writer := Principal → Nat → Nat → Nat → List Byte → State → Byte × State

/-- A request is executed: Result, Data returned, state (R383, R390). -/
def runRequest (write : Writer) (pr : Principal) (h : Header) (data : List Byte) (s : State) : Byte × List Byte × State :=
  if h.op = 1 then
    if data ≠ [] ∨ 1024 < h.len then (resLength, [], s)
    else
      let (r, d) := readEntry s pr h.idx h.sub h.off h.len
      (r, d, s)
  else if h.op = 2 then
    if h.len ≠ data.length ∨ 1024 < h.len then (resLength, [], s)
    else
      let (r, t) := write pr h.idx h.sub h.off data s
      (r, [], t)
  else (resRange, [], s)

/-- The tag of a session message: dir 0 for a request, 1 for a response (R384). -/
def sessionTag (x : Session) (dir : Byte) (l : List Byte) : List Byte :=
  tagBytes (Config.cmac x.key (beBytes 4 x.id.toNat ++ [dir] ++ l))

/-- A session response: Counter, header, Data and the tag of a session, if there is one. -/
def sessionResponse (x : Option Session) (counter : List Byte) (result : Byte) (h : Header) (d : List Byte) : List Byte :=
  let body := counter ++ responseHeader result h d.length ++ d
  match x with
  | some x => body ++ sessionTag x 1 body
  | none => body

/-- The PENDING session becomes ACTIVE; the session that was ACTIVE closes (R382). -/
def activateSession (x : Session) (s : State) : State :=
  let s := closeSession 3 s
  raise evSessionOpened none none none (leBytes 4 x.id.toNat)
    (s.updMgmt fun m => { m with active := some x, pending := none, failures := 0 })

/-- Step 1 of R384 for a request that matches no session. -/
def refuseRequest (resp : List Byte) (s : State) : State :=
  let s := s.updMgmt fun m =>
    { m with response := resp, authFailures := satInc m.authFailures, failures := m.failures + bitOf m.active.isSome }
  if s.mgmt.active.isSome ∧ s.settings.authFailLimit.toNat ≤ s.mgmt.failures then closeSession 5 s else s

/-- Step 4 of R384 for the ACTIVE session x: the Counter is accepted and the request executed. -/
def acceptRequest (write : Writer) (x : Session) (counter body : List Byte) (s : State) : State :=
  let h := parseHeader (body.drop 4)
  let x := { x with last := some (BitVec.ofNat 32 (leNat counter)) }
  let s := s.updMgmt fun m => { m with active := some x, failures := 0 }
  let close := decide (h.op = 3 ∧ h.mode = 0)
  let (r, d, s) :=
    if close then (resOk, [], s) else if h.mode ≠ 0 then (resRange, [], s)
    else runRequest write .M h (body.drop 20) s
  let resp := sessionResponse (some x) counter r h d
  let s := s.updMgmt fun m =>
    { m with response := resp, active := m.active.map fun y => if y.id = x.id then { y with kept := resp } else y }
  if (s.mgmt.active.map Session.id) ≠ some x.id then s
  else if close then closeSession 1 s
  else if leNat counter = 0xFFFFFFFF then closeSession 4 s
  else s

/-- A session request (R384): matched by its tag and Counter, then executed, answered again or refused. -/
def sessionRequest (write : Writer) (data : List Byte) (s : State) : State :=
  let body := data.take (data.length - 16)
  let tag := data.drop (data.length - 16)
  let counter := body.take 4
  let n : BitVec 32 := BitVec.ofNat 32 (leNat counter)
  let h := parseHeader (body.drop 4)
  let mine := fun (o : Option Session) => o.filter fun x => decide (sessionTag x 0 body = tag)
  match mine s.mgmt.active, mine s.mgmt.pending with
  | some x, _ =>
    if (x.last.map fun l => decide (n < l)) = some true then
      s.updMgmt fun m => { m with response := sessionResponse (some x) counter resSession h [] }
    else if x.last = some n then s.updMgmt fun m => { m with response := x.kept }
    else acceptRequest write x counter body s
  | none, some x => acceptRequest write x counter body (activateSession x s)
  | none, none => refuseRequest (sessionResponse s.mgmt.active counter resSession h []) s

/-! ## Writes (R389 to R391) -/

/-- A write by a principal. A session request may itself write SessionRequest: n bounds how deep. Each request is at least
36 bytes shorter than the one that carries it, so 32 is enough for the 1,060 bytes that R389 allows. -/
def writeWith : Nat → Writer
  | 0, _, _, _, _, _, s => (resLength, s)
  | n + 1, pr, idx, sub, off, data, s =>
    match indexOf idx, sub with
    | some _, 0 => (resReadOnly, s)
    | _, _ =>
      match objAt idx sub with
      | none => (absent idx, s)
      | some e =>
        let c := writeCheck s pr (decide (idx = 0x2920)) e off data
        if c ≠ resOk then (c, s)
        else if idx = 0x2D10 ∧ sub = 3 then (resOk, sessionRequest (writeWith n) data s)
        else e.put pr off data s

/-- A write by a principal (R388 to R391). -/
def writeEntry : Writer := writeWith 32

end Sys2Proof.Machine
end

