-- ==== Sys2Proof/Machine/Startup.lean ====
section
/-! DEFINITION. Startup.lean: start-up with its self-test, personality images, cold reset and the end of a device reset
(12 R387; 13 R421, R427; 14 R436, R437, R443, R448, R449, R453 to R458). -/

namespace Sys2Proof.Machine

/-! ## Self-test (R100, R107, R300, R454) -/

/-- What the fuses give a press: maps and factory slice failures (R52, R107). Of several working slices that the records
name, the spare slice takes the lowest-numbered, and the bank is DEGRADED (DESIGN CHOICE; assumption 86). -/
def loadFuses (o : Otp) (p : Nat) (r : PressRec) : PressRec :=
  (List.range 17).foldl (fun r q =>
    let failed := (List.range 129).foldl (fun m j => tput false m j (tget false o.sliceDefects ((p * 17 + q) * 129 + j))) []
    let r := r.updPlate q fun y =>
      { y with
        rowMap := (List.range 8).foldl (fun m k => tput 0 m k (tget 0 o.rowDefects ((p * 17 + q) * 8 + k))) []
        colMap := (List.range 16).foldl (fun m k => tput 0 m k (tget 0 o.colDefects ((p * 17 + q) * 16 + k))) [] }
    r.updBank q fun b =>
      { b with
        sliceFailed := failed, spareFailed := tget false failed 128
        state := if failed = [] then .working else .degraded
        substituted := if tget false failed 128 then 0xFF else
          ((failed.filter fun e => decide (e.1 < 128)).head?.map fun e => BitVec.ofNat 8 e.1).getD 0xFF }) r

/-- What self-test finds of one press. -/
def ofPress {α : Type} (l : List (Press × α)) (p : Nat) : List α := (l.filter fun e => decide (e.1.val = p)).map Prod.snd

/-- A proof column's MaxAbs lies within E_j ± ProofLimit, E_j = |L_j| x 64/127 x 2,048 (R454). -/
def proofPasses (limit j m : Nat) : Bool :=
  decide (((m * 30480 : Nat) - ((proofDelta j).natAbs * 131072 : Nat) : Int).natAbs * 10000 ≤ limit * 2048 * 30480)

/-- MaxAbs of proof column j of a plate after its first and after its second sixteen proof passes; a column that self-test
does not list converts its ideal charge (R141, R454). -/
def proofMaxOf (t : SelfTest) (p q j : Nat) : Nat × Nat :=
  match t.proofMax.find? fun e => decide (e.1.val = p ∧ e.2.1.val = q ∧ e.2.2.1.val = j) with
  | some e => (e.2.2.2.1.toNat, e.2.2.2.2.toNat)
  | none => ((proofCode j 0).natAbs, (proofCode j 0).natAbs)

/-- The MaxAbs of proof column j at the end of its tests: a column that fails the first is engraved again and tested once
more, which is no engraving under R330 (R454). -/
def lastProofMax (limit : Nat) (t : SelfTest) (p q j : Nat) : Nat :=
  let m := proofMaxOf t p q j
  if proofPasses limit j m.1 then m.1 else m.2

/-- The disabled proof columns of a plate after its proof passes (R59, R454). -/
def disabledColumns (limit : Nat) (t : SelfTest) (p q : Nat) : List (Fin 8) :=
  (List.range 8).filterMap fun j =>
    if proofPasses limit j (lastProofMax limit t p q j) then none else some (Fin.ofNat 8 j)

/-- The plates of a press that self-test retires (R59). -/
def lostPlates (limit : Nat) (t : SelfTest) (p : Nat) : List Nat :=
  (List.range 17).filter fun q => decide (2 < (disabledColumns limit t p q).length)

/-- The sixteen proof passes of a plate in MAXABS mode: what its statistics unit holds, and its disabled columns (R141,
R454). They are no proof passes of R55: ColumnResult stays 0 until the plate's first verify or proof pass shows 0b11 for a
disabled column (DESIGN CHOICE: the spec does not say whether it does so at once; assumption 86). -/
def provePlate (limit : Nat) (t : SelfTest) (p q : Nat) (s : State) : State :=
  (s.updBank p q fun x =>
      { x with maxAbs := (List.range 8).foldl (fun m j =>
          tput 0 m (512 + j) (BitVec.ofNat 16 (lastProofMax limit t p q j))) x.maxAbs }).updPlate p q fun y =>
    { y with proofDisabled := disabledColumns limit t p q }

/-- The block of the first test that a press fails: 1 SRAM, 2 slice banks, 3 plates; 0 when it passes (R454, R463). -/
def failedBlock (s : State) (t : SelfTest) (p : Nat) : Nat :=
  if t.sramFail.any fun x => decide (x.val = p) then 1
  else if (t.bankFail.any fun x => decide (x.val = p)) || calFails (s.press p) (ofPress t.sliceFail p) then 2
  else if 1 < (lostPlates (s.press p).cfg.proofLimit.toNat t p).length then 3
  else 0

/-- SELF_TEST_FAILED is raised, with the number of the unit where there are several (R463). -/
def raiseSelfTest (press : Option Nat) (block : Nat) (unit : Option Nat) (s : State) : State :=
  raise evSelfTestFailed press none none (leBytes 1 block ++ leBytes 1 (unit.getD 0xFF)) s

/-- Self-test of press p: it stays TESTING when it passes (R436, R454). -/
def testPress (t : SelfTest) (p : Nat) (s : State) : State :=
  let s := s.updPress p fun r => { loadFuses s.otp p r with clocked := true }
  let s := setTrims p (ofPress t.sliceTrim p) (reseed p s)
  let block := failedBlock s t p
  let limit := (s.press p).cfg.proofLimit.toNat
  if block ≠ 0 then
    let s := raiseSelfTest (some p) block none (s.updPress p fun r => { r with state := .retired, retireCause := 6, clocked := false })
    raiseRetired p 6 none 0 s
  else
    let s := failSlices p (ofPress t.sliceFail p) s
    let s := forN 17 (provePlate limit t p) s
    forL (lostPlates limit t p) (fun q s => retirePlate p q 2 s) s

/-- The hubs write every frame with zeros, test it and retire those that fail (R300). -/
def testMemory (t : SelfTest) (s : State) : State :=
  let s := s.updHubs fun h => { h with mem := [], poison := [], map := [] }
  forL (t.frameFail.filter fun f => decide (65536 ≤ f.toNat)) (fun f s =>
    s.updEntry f.toNat fun e => { e with state := .retired }) s

/-! ## Start-up, steps 1 to 5 (R453) -/

/-- The settings of a grade (R412, R427). -/
def defaultSettings : Grade → Settings
  | .aq => {}
  | .iq => { warnThreshold := 90, halfThreshold := 95, quarterThreshold := 100, holdThreshold := 110 }

/-- Steps 1 and 2: clocks, and a diode that still stands at the trip level (R465); fuses, settings of the grade, node-ID and
keys. -/
def readFuses (t : SelfTest) (s : State) : State :=
  let o := s.otp
  let key := fun (label : String) => if rootsFused o then some (derivedKey o.identitySeed label) else none
  let s : State := { s with settings := defaultSettings o.grade }
  let s := s.updDev fun d =>
    { d with
      started := true, perstHigh := true, parityGood := t.parityGood, identityKey := key "OZ7120-IDENTITY"
      attestKey := key "OZ7120-ATTEST", clockLock := 0x3F
      thermtripLow := d.thermtripLow || !t.tripped.isEmpty
      cclkLock := allPresses.foldl (fun m p => tput false m p true) [] }
  let s := s.updMgmt fun m => { m with nodeId := o.nodeId, restricted := o.hostAssigned }
  if o.hostAssigned then s else bootUp s

/-- Step 3: self-test of presses, hubs, bridge and SM hub; the survey converters are calibrated and run. -/
def selfTest (t : SelfTest) (s : State) : State :=
  let s := testMemory t (forN 68 (fun p s => testPress t p s) s)
  let s := forL ((List.range 2).filter fun h => t.hubsFail.any fun x => decide (x.val = h)) (fun h s =>
    raiseSelfTest none 4 (some h) s) s
  let s := if t.bridgeFail then raiseSelfTest none 5 none s else s
  let s := if t.smFail then raiseSelfTest none 6 none s else s
  let failed := pressesIn s fun x => decide (x = .retired)
  let s := s.updDev fun d =>
    { d with selfTestSummary := BitVec.ofNat 32 (68 - failed + 2 ^ 8 * failed + 2 ^ 16 * bitOf (!t.hubFail) +
        2 ^ 17 * bitOf (!t.bridgeFail) + 2 ^ 18 * bitOf (!t.smFail)) }
  forN 2 (fun c s => s.updSurvey c fun r =>
    { r with regular := true, calGeneration := r.calGeneration + 1, ref46 := some (if c = 0 then t.reference0 else t.reference1) }) s

/-- Step 4: the link trains, or does not (R245, R280). -/
def trainLink (t : SelfTest) (s : State) : State :=
  match t.link with
  | none => s
  | some (w, g) =>
    let s := s.updBridge fun b => { b with link := some (w, g), trainedOnce := true }
    if linkBelow s then raise evLinkDegraded none none none (leBytes 2 (linkWord (some (w, g)))) s else s

/-- START_UP: steps 1 to 5 (R453). -/
def execStartUp (t : SelfTest) (s : State) : Out :=
  if s.dev.started then .next s
  else
    let s := trainLink t (selfTest t (readFuses t s))
    .next (s.updDev fun d =>
      { d with state := if t.hubFail || t.bridgeFail || t.smFail then .failed else .awaitingImage })

/-- COLD_RESET: everything returns to reset; fuses and what is outside the device stay (R443, R449, R471). -/
def execColdReset (c : ColdCause) (s : State) : Out :=
  .next { State.reset with
    otp := s.otp, pending := s.pending, free := s.free, hostMem := s.hostMem
    dev := { State.reset.dev with scan := if c = .perstLow then s.dev.scan else .bypass } }

/-! ## Personality images (R387, R455 to R458) -/

/-- Length of a table default that an image may hold (R45, R128, R129, R148). -/
def tableLength (idx sub : Nat) : Option Nat :=
  if idx = 0x2610 ∧ 1 ≤ sub ∧ sub ≤ 8 then some 260
  else if idx = 0x2610 ∧ 9 ≤ sub ∧ sub ≤ 0x18 then some 512
  else if idx = 0x2400 ∧ sub = 0x11 then some 32
  else if idx = 0x2620 then
    (match sub with
      | 0x10 => some 4
      | 0x11 => some 2
      | 0x12 => some 1024
      | 0x13 => some 1024
      | 0x14 => some 2048
      | 0x15 => some 1024
      | 0x16 => some 64
      | _ => none)
  else none

/-- A table default is in range: LayerAlpha above 0, outlier rows 0 to 1,023 (R148), an exponent that R127 allows, targets
0 to 240 (R42). -/
def tableOk (idx sub : Nat) (v : List Byte) : Bool :=
  if idx = 0x2620 ∧ sub = 0x11 then decide (0 < leNat v ∧ leNat v ≤ 0x7C00)
  else if idx = 0x2620 ∧ sub = 0x16 then (wordsOf 16 32 v).all fun w => decide (w.toNat < 1024)
  else if idx = 0x2400 then v.all fun b => decide (b.toNat ≤ 240)
  else if idx = 0x2610 ∧ sub ≤ 8 then decide (-4 ≤ sext 16 (leAt v 0 2) ∧ sext 16 (leAt v 0 2) ≤ 15)
  else true

/-- A record names an entry that the management node may write, or a table default, with a value in range (R458). -/
def recordOk (s : State) (r : ImgRecord) : Bool :=
  if r.idx = 0 then true
  else
    match tableLength r.idx r.sub with
    | some n => decide (r.value.length = n) && tableOk r.idx r.sub r.value
    | none =>
      match objAt r.idx r.sub with
      | none => false
      | some e =>
        e.w.contains .m && sizeOk (decide (r.idx = 0x2920)) e.ty 0 r.value && valueOk e r.value &&
          (if r.idx = 0x2701 ∧ r.sub = 1 then decide ((writeBudget r.value s).1 = resOk) else true)

/-- The entries that a record stands for: every instance of the entry that it names (R455). -/
def instances (idx sub : Nat) : List (Nat × Nat) :=
  if idx = 0x2400 ∨ idx = 0x2500 ∨ idx = 0x2A80 then allPresses.map fun p => (idx + p, sub)
  else if idx = 0x2100 ∨ idx = 0x2A10 then (List.range 8).map fun v => (idx + v, sub)
  else if idx = 0x2780 then (List.range 2).map fun c => (idx + c, sub)
  else if idx = 0x2920 ∧ sub = 0x10 then (List.range 8).map fun v => (idx, sub + v)
  else [(idx, sub)]

/-- An entry takes its image value (R387): one that keeps a value, and SurveyControl. -/
def imageWrite (value : List Byte) (at' : Nat × Nat) (s : State) : State :=
  let control := decide (at'.2 = 1 ∧ (at'.1 = 0x2780 ∨ at'.1 = 0x2781))
  match objAt at'.1 at'.2 with
  | some e => if e.w.contains .m && (e.held || control) && !e.busy s then (e.put .M 0 value s).2 else s
  | none => s

/-- Entries take the values of one record (R387); ChannelWindow applies to every channel of both converters. -/
def applyRecord (r : ImgRecord) (s : State) : State :=
  if r.idx = 0x2790 ∧ 1 ≤ r.sub ∧ r.sub ≤ 0x40 then forN 2 (fun c s => forN 64 (fun ch s => writeWindow c ch r.value s) s) s
  else forL (instances r.idx r.sub) (imageWrite r.value) s

/-- The values of an image's records stand in the relations that their Range/units name, beside one another and beside the
entries that the image does not name (R458 cause 5). -/
def relationsOk (s : State) (rs : List ImgRecord) : Bool :=
  let t := forL rs applyRecord s
  rs.all fun r => (instances r.idx r.sub).all fun x => match objAt x.1 x.2 with
    | some e => e.rel t r.value
    | none => true

/-- The RejectCause of an image, 0 when it is accepted (R458). -/
def imageCause (s : State) (img : List Byte) : Nat :=
  let parsed := parseRecords (leAt img 12 4) (img.drop 128)
  let records := (parsed.map Prod.fst).getD []
  if img.take 4 ≠ [0x4F, 0x5A, 0x50, 0x49] ∨ leAt img 4 2 ≠ 1 ∨ leAt img 7 1 ≠ 0 ∨ !allZero (slice img 24 104) ∨
      (records.any fun r => decide (r.reserved ≠ 0)) then 1
  else if 262144 < img.length ∨ leAt img 8 4 ≠ img.length ∨ (parsed.map fun x => x.2.length) ≠ some 64 then 2
  else if !Config.sm2Verify s.otp.imageKey (img.take (img.length - 64)) (ofBytes 512 (img.drop (img.length - 64))) then 3
  else if leAt img 6 1 ≠ gradeCode s.otp.grade then 4
  else if !(records.all (recordOk s) && relationsOk s records) then 5
  else if !rootsFused s.otp then 6
  else 0

/-- BuildNumber of an image (R455). -/
def buildNumber (img : List Byte) : List Byte := slice img 16 8

/-- IMAGE_VERIFY: the image that has been received is checked (R456, R458). -/
def execImageVerify (s : State) : Out :=
  if s.dev.image ≠ .verifying then .next s
  else
    let img := s.dev.imageBytes
    let c := imageCause s img
    if c = 0 then .next (raise evImageStaged none none none (buildNumber img) (s.updDev fun d => { d with image := .pending }))
    else
      .next (raise evImageRejected none none none (leBytes 1 c)
        ((dropImage .rejected s).updDev fun d => { d with rejectCause := BitVec.ofNat 8 c }))

/-- Entries take their values under the active image (R387). -/
def applyImage (s : State) : State :=
  match s.dev.activeImage with
  | some img => forL (imageRecords img) applyRecord s
  | none => s

/-- The image in hand becomes the active image, and entries take its values (R387, R457 step 3). -/
def installImage (s : State) : State :=
  applyImage (dropImage .none (s.updDev fun d => { d with activeImage := some d.imageBytes }))

/-! ## Step 6 of start-up (R421, R437, R453) -/

/-- The passing presses with the highest ledgers, ties to the higher number, become SPARE (R437). -/
def chooseSpares (s : State) : List Nat :=
  let passed := allPresses.filter fun p => decide ((s.press p).state = .testing)
  let key := fun (p : Nat) => 128 * ledgerMax (s.press p) + p
  let n := min 4 (passed.length - 64)
  passed.filter fun p => decide ((passed.filter fun q => decide (key p < key q)).length < n)

/-- The trim that a press starts with, from its first reading (R421). -/
def firstTrim (p : Nat) (s : State) : State :=
  let t := (s.press p).thermal.reading
  let s := s.updPress p fun r => { r with trimTemp := t }
  forN 17 (fun q x => x.updBank p q fun b => { b with trim := trimAt s p q t, trimFor := t, trimPending := none, pendingFor := 0 }) s

/-- A press that passed self-test goes into service or becomes a spare (R97, R138, R436). -/
def releasePress (spare : Bool) (p : Nat) (s : State) : State :=
  (firstTrim p s).updPress p fun r => { serviceBanks r with state := if spare then .spare else .active, clocked := !spare }

/-- START_UP_ACTIVATION: step 6, once an image is PENDING; a device without its roots never leaves step 5 (R366, R453,
R456). No work runs before it, so the governor has the image's energy table at once (R457 step 3). -/
def execStartUpActivation (ms : Nat) (s : State) : Out :=
  if s.dev.state ≠ .awaitingImage ∨ s.dev.image ≠ .pending ∨ !rootsFused s.otp then .next s
  else
    let build := buildNumber s.dev.imageBytes
    let s := (installImage s).updGov fun g => { g with table := some s.dev.imageBytes }
    let chosen := chooseSpares s
    let s := forL (allPresses.filter fun p => decide ((s.press p).state = .testing)) (fun p t =>
      releasePress (chosen.contains p) p t) s
    let s := s.updDev fun d => { d with state := .service, serviceReady := true, startupTime := BitVec.ofNat 32 ms }
    .next (raiseResetDone none none 0 ms (raise evImageActivated none none none (build ++ leBytes 4 0) s))

/-- ACTIVATION_HOLD_END: the hold of an activation in service ends (R457 steps 3 and 4). -/
def execActivationHoldEnd (ms : Nat) (s : State) : Out :=
  if s.dev.state ≠ .activating then .next s
  else
    let build := buildNumber s.dev.imageBytes
    let s := (installImage s).updDev fun d => { d with state := .service, outageMs := satAdd d.outageMs ms }
    .next (raise evImageActivated none none none (build ++ leBytes 4 ms) s)

/-! ## The end of a device reset (R448 steps 3 and 4) -/

/-- The counters of a press are cleared, SliceFailures among them; the ledger stays (R448 step 3). -/
def clearAllPress (r : PressRec) : PressRec :=
  let r := clearTenantCounters (clearPressCounters r)
  { r with
    jobsReissued := 0, fencesForced := 0, cfg := {}
    plates := tmap {} (fun _ y => { y with proofTrips := 0 }) r.plates
    banks := tmap {} (fun _ b => { b with rounds := 0, sliceFailures := 0 }) r.banks }

/-- A vat's configuration and counters return to their defaults; DebugCount and DebugState stay. -/
def clearAllVat (r : VatRec) : VatRec :=
  { r with
    pressMap := [], quotaBase := 0, quotaPages := 0, streamBase := 0, streamCount := 0, tenantKey := 0, publisherKey := 0
    stagingPages := 0, exact := [0, 0, 0, 0, 0], shown := [0, 0, 0, 0, 0], busy := [], powerTrace := [], foreignPosts := 0 }

/-- DEVICE_RESET_END: every vat is OFF and every stream FREE; entries and counters return to their defaults, ResetCounts
too, in which this reset then counts (R448; assumption 61). -/
def execDeviceResetEnd (ms : Nat) (s : State) : Out :=
  let quiet := ((List.range 8).all fun v => decide ((s.vat v).state = .off)) &&
    (s.streams.all fun e => decide (e.2.state = .free)) &&
    (allPresses.all fun p => decide ((s.press p).state ≠ .engaging ∧ (s.press p).state ≠ .retiring))
  if s.dev.state ≠ .deviceReset ∨ !quiet then .next s
  else
    let s := forN 68 (fun p s => s.updPress p clearAllPress) (forN 8 (fun v s => s.updVat v clearAllVat) s)
    let s := s.updBridge fun b => { b with droppedTotal := 0, sealFailuresTotal := 0, linkRetrains := 0 }
    let s := s.updHubs fun h => { h with correctedTotal := 0, uncorrectableTotal := 0, pageQuery := 0 }
    let s := s.updMgmt fun m => { m with authFailures := 0, recoveries := 0 }
    let s := forN 2 (fun c t => t.updSurvey c fun r => { r with regular := false }) s
    let s := s.updEvents fun e => { e with skipped := 0, ack := 0, queryM := 0, queryH := 0 }
    let s : State := { s with settings := defaultSettings s.otp.grade }
    let s := (applyImage s).updDev fun d => { d with
      state := .service, serviceReady := true, outageMs := 0, resetCounts := [1, 0, 0, 0] }
    .next (raiseResetDone none none 1 ms s)

end Sys2Proof.Machine
end

