-- ==== Sys2Proof/Machine/Entries.lean ====
section
/-! DEFINITION. Entries.lean: the commands that are writes of one dictionary entry by a principal. Each goes through the
checks of the dictionary (12 R385 to R391) and then through the rule of its entry; the Result is kept in `mgmt.result`. -/

namespace Sys2Proof.Machine

/-- A write of an entry by a principal, once the device runs; a dictionary request carries at most 1,024 bytes (R389). -/
def direct (pr : Principal) (idx sub off : Nat) (data : List Byte) (s : State) : Out :=
  if !s.dev.started then .next s
  else if 1024 < data.length then .next (s.answer resLength)
  else
    let (r, t) := writeEntry pr idx sub off data s
    .next (t.answer r)

/-- NODE_ID_WRITE (R375). -/
def execNodeIdWrite (pr : Principal) (n : BitVec 8) (s : State) : Out := direct pr 0x2D00 0x01 0 [n] s
/-- IMAGE_CHUNK (R456). -/
def execImageChunk (pr : Principal) (data : List Byte) (s : State) : Out := direct pr 0x2000 0x03 0 data s
/-- ACTIVATE (R457). -/
def execActivate (pr : Principal) (s : State) : Out := direct pr 0x2000 0x04 0 [1] s
/-- DISCARD (R456). -/
def execDiscard (pr : Principal) (s : State) : Out := direct pr 0x2000 0x04 0 [2] s
/-- DEVICE_RESET (R448). -/
def execDeviceReset (pr : Principal) (s : State) : Out := direct pr 0x2000 0x02 0 [1] s

/-- PRESS_RESET (R446): a write of RESET to PressCommand; the time that the reset takes is given. -/
def execPressReset (pr : Principal) (p : Press) (ms : Nat) (s : State) : Out :=
  match s.dev.started, objAt (0x2300 + p.val) 0x02 with
  | true, some e =>
    let c := writeCheck s pr false e 0 [1]
    if c ≠ resOk then .next (s.answer c)
    else
      let (r, t) := pressReset p.val ms s
      .next (t.answer r)
  | _, _ => .next s

/-- RETIRE (R438). -/
def execRetire (pr : Principal) (p : Press) (s : State) : Out := direct pr (0x2300 + p.val) 0x02 0 [2] s
/-- CONFIGURE (R344). -/
def execConfigure (pr : Principal) (v : Vat) (s : State) : Out := direct pr (0x2100 + v.val) 0x02 0 [1] s
/-- PULP (R352). -/
def execPulp (pr : Principal) (v : Vat) (s : State) : Out := direct pr (0x2100 + v.val) 0x02 0 [2] s
/-- VAT_RESET (R356). -/
def execVatReset (pr : Principal) (v : Vat) (s : State) : Out := direct pr (0x2100 + v.val) 0x02 0 [3] s
/-- DEBUG_REQUEST_TRUE (R358). -/
def execDebugRequestTrue (pr : Principal) (v : Vat) (s : State) : Out := direct pr (0x2100 + v.val) 0x0C 0 [1] s
/-- DEBUG_REQUEST_FALSE (R358). -/
def execDebugRequestFalse (pr : Principal) (v : Vat) (s : State) : Out := direct pr (0x2100 + v.val) 0x0C 0 [0] s
/-- STAGING_PAGES_WRITE (R309). -/
def execStagingPagesWrite (pr : Principal) (v : Vat) (n : BitVec 32) (s : State) : Out :=
  direct pr (0x2A10 + v.val) 0x02 0 (leBytes 4 n.toNat) s
/-- RETIRE_AT_START (R300). -/
def execRetireAtStart (pr : Principal) (off : Nat) (data : List Byte) (s : State) : Out := direct pr 0x2920 0x0B off data s
/-- EVENT_QUERY (R397). -/
def execEventQuery (pr : Principal) (n : BitVec 32) (s : State) : Out := direct pr 0x2D20 0x03 0 (leBytes 4 n.toNat) s
/-- EVENT_ACK (R399). -/
def execEventAck (pr : Principal) (n : BitVec 32) (s : State) : Out := direct pr 0x2D20 0x05 0 (leBytes 4 n.toNat) s
/-- REPORT_REQUEST (R362). -/
def execReportRequest (pr : Principal) (i : Fin 10) (nonce : List Byte) (s : State) : Out :=
  direct pr (0x2C10 + i.val) 0x01 0 nonce s
/-- REAM_LOAD (R312), after host software's writes. -/
def execReamLoad (pr : Principal) (v : Vat) (data : List Byte) (hw : HostWrites) (s : State) : Out :=
  direct pr (0x2A10 + v.val) 0x03 0 data (s.hostWrites hw)
/-- QUIRE_POST (R316), after host software's writes. -/
def execQuirePost (pr : Principal) (v : Vat) (w : BitVec 64) (hw : HostWrites) (s : State) : Out :=
  direct pr (0x2A10 + v.val) 0x05 0 (leBytes 8 w.toNat) (s.hostWrites hw)
/-- REAM_CANCEL (R318): a write of TRUE. -/
def execReamCancel (pr : Principal) (v : Vat) (s : State) : Out := direct pr (0x2A10 + v.val) 0x04 0 [1] s
/-- SWAP_REQUEST (R325). -/
def execSwapRequest (pr : Principal) (v : Vat) (w : BitVec 32) (s : State) : Out :=
  direct pr (0x2A10 + v.val) 0x07 0 (leBytes 4 w.toNat) s
/-- ENDURANCE_LEDGER_WRITE (R331). -/
def execEnduranceLedgerWrite (pr : Principal) (p : Press) (data : List Byte) (s : State) : Out :=
  direct pr (0x2A80 + p.val) 0x01 0 data s

/-- A write of SurveyControl that keeps RegularStart as it is, with the given bits besides. -/
def surveyWord (s : State) (c bits : Nat) : List Byte := leBytes 4 (bits + bitOf (s.survey c).regular)

/-- INJECTED_START (R404). -/
def execInjectedStart (pr : Principal) (c : Conv) (mask : BitVec 3) (s : State) : Out :=
  direct pr (0x2780 + c.val) 0x01 0 (surveyWord s c.val (16 * mask.toNat)) s
/-- CALIBRATE_REQUEST (R406). -/
def execCalibrateRequest (pr : Principal) (c : Conv) (s : State) : Out :=
  direct pr (0x2780 + c.val) 0x01 0 (surveyWord s c.val 2) s
/-- REGULAR_START (R404). -/
def execRegularStart (pr : Principal) (c : Conv) (on : Bool) (s : State) : Out :=
  direct pr (0x2780 + c.val) 0x01 0 (leBytes 4 (bitOf on)) s
/-- BUDGET_PLAN (R428). -/
def execBudgetPlan (pr : Principal) (data : List Byte) (s : State) : Out := direct pr 0x2701 0x01 0 data s

end Sys2Proof.Machine
end

