-- ==== Sys2Proof/Machine/Mgmt.lean ====
section
/-! DEFINITION. Mgmt.lean: the ways to the dictionary: the mailboxes of the functions, plain and sealed (12 R392 to R394),
the USDO server (12 R378, R379), and management sessions (12 R380 to R384). -/

namespace Sys2Proof.Machine

/-! ## The dictionary mailbox (R392 to R394) -/

/-- A request ends: the response stands in DictResponse, Done is 1, and vector 0 tells the host (R393). -/
def respondMailbox (f : Nat) (result : Byte) (response : List Byte) (s : State) : State :=
  sendMsix f 0 (s.updFn f fun r =>
    { r with response := response, result := result, done := true, busy := false, sealedData := none })

/-- A SEALED request that the bridge accepted: the Data in plain (R394). -/
def openSealed (key : BitVec 128) (st : Nat) (req : List Byte) : Option (List Byte) :=
  let counter : BitVec 64 := BitVec.ofNat 64 (leAt req 16 8)
  let ct := (req.drop 24).take (req.length - 40)
  gcmOpen key (sealNonce false st counter) (req.take 16) ct (tagOf (req.drop (req.length - 16)))

/-- SealFailures of a stream counts a refused request (R394). -/
def countRefused (st : Nat) (s : State) : State := s.updStream st fun r => { r with sealFailures := satInc r.sealFailures }

/-- The bridge judges a SEALED request (R394): the refusal's Result, or the Data in plain. -/
def judgeSealed (f : Fn) (st : StreamId) (req : List Byte) (s : State) : Except Byte (List Byte) × State :=
  let r := s.stream st.val
  if !((s.streamVat st.val).any fun v => serves s f.val v) then (.error resSeal, countRefused st.val s)
  else if r.state ≠ .opened then (.error resState, countRefused st.val s)
  else
    let counter : BitVec 64 := BitVec.ofNat 64 (leAt req 16 8)
    match r.key with
    | none => (.error resSeal, countRefused st.val s)
    | some key =>
      if counter ≤ r.inbound then (.error resSeal, countRefused st.val s)
      else
        match openSealed key st.val req with
        | none => (.error resSeal, countRefused st.val s)
        | some d => (.ok d, checkRekey st (s.updStream st.val fun r => { r with inbound := counter }))

/-- The Result that refuses a request before it is looked at further (R383, R392). -/
def requestFault (h : Header) (n : Nat) : Option Byte :=
  if ¬(h.op = 1 ∨ h.op = 2) ∨ ¬(h.mode = 0 ∨ h.mode = 1) then some resRange
  else if n < 16 ∨ 1080 < n ∨ (h.mode = 1 ∧ n < 40) then some resLength
  else none

/-- DICT_GO: a write of DictControl.Go, after host software has written the request and its length (R252, R392 to R394). A
refused SEALED request counts in SealFailures of the stream that it names. -/
def execDictGo (f : Fn) (size : BarSize) (hw : HostWrites) (s : State) : Out :=
  let s := s.hostWrites hw
  if size ≠ .four ∨ !fnDecodes s f.val ∨ (s.fn f.val).busy then .next s
  else
    let s := s.updFn f.val fun r => { r with busy := true, done := false, sealedData := none }
    let len := (s.fn f.val).requestLength
    let q := slice (s.fn f.val).request 0 (min len.toNat 1088)
    let h := parseHeader (slice q 0 16)
    match requestFault h len.toNat with
    | some c =>
      let s := if h.mode = 1 then countRefused (h.stream % 4096) s else s
      .next (respondMailbox f.val c (responseHeader c h 0) s)
    | none =>
      if h.mode = 0 then .next s
      else
        match judgeSealed f (Fin.ofNat 4096 h.stream) q s with
        | (.error c, s) => .next (respondMailbox f.val c (responseHeader c h 0) s)
        | (.ok d, s) => .next (s.updFn f.val fun r => { r with sealedData := some d })

/-- The response to a SEALED request: header, outbound Counter, ciphertext and tag (R394). -/
def sealResponse (f : Fn) (st : StreamId) (result : Byte) (h : Header) (d : List Byte) (s : State) : State :=
  let r := s.stream st.val
  match r.key with
  | none => respondMailbox f.val resSeal (responseHeader resSeal h 0) s
  | some key =>
    let hd := responseHeader result h d.length
    let (ct, tag) := gcmSeal key (sealNonce true st.val r.outbound) hd d
    respondMailbox f.val result (hd ++ leBytes 8 r.outbound.toNat ++ ct ++ tagBytes tag)
      (checkRekey st (s.setStream st.val { r with outbound := r.outbound + 1 }))

/-- The request of a mailbox is executed, when its Op is the given one. -/
def runMailbox (f : Fn) (op : Nat) (s : State) : Out :=
  let r := s.fn f.val
  let h := parseHeader (slice r.request 0 16)
  if !r.busy ∨ h.op ≠ op then .next s
  else
    match r.sealedData with
    | some d =>
      let st : StreamId := Fin.ofNat 4096 h.stream
      match s.streamVat st.val, (s.stream st.val).key with
      | some v, some _ =>
        let (c, out, s) := runRequest writeEntry (.T (Fin.ofNat 8 v)) h d s
        .next (sealResponse f st c h out s)
      | _, _ => .next (respondMailbox f.val resSeal (responseHeader resSeal h 0) s)
    | none =>
      let d := (r.request.take r.requestLength.toNat).drop 16
      let (c, out, s) := runRequest writeEntry (if f = 0 then .H else .V f) h d s
      .next (respondMailbox f.val c (responseHeader c h out.length ++ out) s)

/-- DICT_READ: a READ of a mailbox, or one read by a principal (R383, R388 to R391). -/
def execDictRead (src : DictReadSrc) (s : State) : Out :=
  match src with
  | .mailbox f => runMailbox f 1 s
  | .direct pr idx sub off len =>
    if !s.dev.started then .next s
    else
      let (r, d) := if 1024 < len then (resLength, []) else readEntry s pr idx.toNat sub.toNat off len
      .next (s.updMgmt fun m => { m with result := r, data := d })

/-- DICT_WRITE: a WRITE of a mailbox, or one write by a principal (R383, R388 to R391). -/
def execDictWrite (src : DictWriteSrc) (s : State) : Out :=
  match src with
  | .mailbox f => runMailbox f 2 s
  | .direct pr idx sub off data => direct pr idx.toNat sub.toNat off data s

/-! ## The USDO server (R378, R379) -/

/-- The node answers USDO: PRE-OPERATIONAL or OPERATIONAL, on the bus (R375, R376). -/
def usdoAnswers (s : State) : Bool :=
  canSends s && (decide (s.mgmt.nmt = .preOperational) || decide (s.mgmt.nmt = .operational))

/-- Abort code of a transfer that is longer than 1,096 bytes (R378). -/
def abortLength : BitVec 32 := 0x06070012
/-- Abort code of a transfer that another request ends, or that idles for 1 s (R378). -/
def abortTimeout : BitVec 32 := 0x05040000

/-- An entry's Rights column shows "any" (R379), HighestSubIndex included. -/
def showsAny (idx sub : Nat) : Bool :=
  if sub = 0 ∧ (indexOf idx).isSome then (topRights idx).contains .any
  else
    match objAt idx sub with
    | some e => e.r.contains .any || e.w.contains .any
    | none => true

/-- A new request has arrived: a transfer in progress is aborted with 0x0504_0000 (R378). -/
def breakUsdo (s : State) : State :=
  s.updMgmt fun m => match m.usdo.orElse fun _ => m.usdoUp with
    | some (i, u, _) => { m with usdo := none, usdoUp := none, usdoBroken := some (i, u) }
    | none => m

/-- A transfer ends with an abort code, 0 for success. -/
def endUsdo (code : BitVec 32) (data : List Byte) (s : State) : State :=
  s.updMgmt fun m => { m with usdo := none, usdoUp := none, usdoAbort := code, usdoData := data }

/-- A whole download arrives: an access without a session (R378, R379). -/
def downloadWhole (idx sub : Nat) (data : List Byte) (s : State) : State :=
  if 1096 < data.length then endUsdo abortLength [] s
  else if !showsAny idx sub then endUsdo 0x06010000 [] s
  else
    let (r, t) := writeEntry .anon idx sub 0 data (s.updMgmt fun m => { m with usdo := none })
    endUsdo (abortCode r) [] t

/-- A download of an entry stands at the data that has arrived so far (R378). -/
def holdDownload (idx : BitVec 16) (sub : BitVec 8) (data : List Byte) (s : State) : State :=
  if 1096 < data.length then endUsdo abortLength [] s else s.updMgmt fun m => { m with usdo := some (idx, sub, data) }

/-- The data of the download of an entry that is in progress; none when another transfer or none is (R378). -/
def downloadOf (s : State) (idx : BitVec 16) (sub : BitVec 8) : Option (List Byte) :=
  (s.mgmt.usdo.filter fun x => decide (x.1 = idx ∧ x.2.1 = sub)).map fun x => x.2.2

/-- USDO_DOWNLOAD: a request, which aborts a transfer in progress, with the whole value or its first segments; or further
segments of the download in progress (R378). A segment of no download in progress changes nothing (assumption 67). -/
def execUsdoDownload (idx : BitVec 16) (sub : BitVec 8) (data : List Byte) (part : UsdoPart) (s : State) : Out :=
  if !usdoAnswers s then .next s
  else
    match part with
    | .whole => .next (downloadWhole idx.toNat sub.toNat data (breakUsdo s))
    | .unfinished => .next (holdDownload idx sub data (breakUsdo s))
    | .more =>
      match downloadOf s idx sub with
      | some d => .next (holdDownload idx sub (d ++ data) s)
      | none => .next s
    | .last =>
      match downloadOf s idx sub with
      | some d => .next (downloadWhole idx.toNat sub.toNat (d ++ data) s)
      | none => .next s

/-- The upload of an entry: the whole value, as a principal without a session reads it (R378, R389). -/
def uploadWhole (idx sub : Nat) (s : State) : State :=
  let size := match objAt idx sub with
    | some e => (e.get s .anon).length
    | none => 1
  if !showsAny idx sub then endUsdo 0x06010000 [] s
  else
    let (r, d) := readEntry s .anon idx sub 0 size
    endUsdo (abortCode r) d s

/-- A request for an upload: its answer waits while a key exchange for SessionAnswer runs (R381 step 6). -/
def requestUpload (idx : BitVec 16) (sub : BitVec 8) (s : State) : State :=
  if idx = 0x2D10 ∧ sub = 0x02 ∧ s.mgmt.offer.isSome then s.updMgmt fun m => { m with usdoUp := some (idx, sub, []) }
  else uploadWhole idx.toNat sub.toNat s

/-- Of an answered upload the first n bytes have left; the rest, if there is one, is a transfer in progress (R378). -/
def holdUpload (idx : BitVec 16) (sub : BitVec 8) (n : Nat) (s : State) : State :=
  s.updMgmt fun m =>
    if m.usdoUp.isSome ∨ m.usdoData.length ≤ n then m
    else { m with usdoUp := some (idx, sub, m.usdoData.drop n), usdoData := m.usdoData.take n }

/-- Further segments of the upload in progress leave, n bytes of it (R378); with the last byte it ends. -/
def moreUpload (idx : BitVec 16) (sub : BitVec 8) (n : Nat) (s : State) : State :=
  s.updMgmt fun m => match m.usdoUp with
    | some (i, u, rest) =>
      if i ≠ idx ∨ u ≠ sub ∨ rest = [] then m
      else
        { m with
          usdoUp := if rest.length ≤ n then none else some (i, u, rest.drop n), usdoData := m.usdoData ++ rest.take n }
    | none => m

/-- USDO_UPLOAD: a request, which aborts a transfer in progress, for the whole value or its first segments; or further segments
of the upload in progress (R378). -/
def execUsdoUpload (idx : BitVec 16) (u : UsdoUpload) (s : State) : Out :=
  if !usdoAnswers s then .next s
  else
    match u.ask with
    | .whole => .next (requestUpload idx u.sub (breakUsdo s))
    | .first n => .next (holdUpload idx u.sub n (requestUpload idx u.sub (breakUsdo s)))
    | .more n => .next (moreUpload idx u.sub n s)

/-- USDO_TIMEOUT: a segmented transfer has been idle for 1 s (R378). -/
def execUsdoTimeout (s : State) : Out :=
  if s.mgmt.usdo.isSome ∨ s.mgmt.usdoUp.isSome then .next (endUsdo abortTimeout [] s) else .next s

/-! ## Sessions (R380 to R384) -/

/-- SESSION_OFFER: a download to SessionOffer (R381). -/
def execSessionOffer (data : List Byte) (s : State) : Out :=
  if usdoAnswers s then .next (downloadWhole 0x2D10 0x01 data (breakUsdo s)) else .next s

/-- SESSION_EXCHANGE_DONE: steps 3 to 5 of R381. -/
def execSessionExchangeDone (s : State) : Out :=
  match s.mgmt.offer with
  | none => .next s
  | some offer =>
    let (rb, s) := drawRandom s
    let (eph, conf, shared) := Config.sm2Exchange (s.dev.identityKey.getD 0) s.otp.serial (ofBytes 512 (slice offer 8 64))
      (ofBytes 512 (slice offer 72 64)) (slice offer 136 16) rb
    let kt : BitVec 128 := BitVec.ofNat 128 (shared.toNat / 2 ^ 256)
    let id := s.mgmt.sessionId + 1
    let key := sessionKey s.otp.masterSecret id (BitVec.ofNat 256 shared.toNat)
    let (wrapped, tag) := gcmSeal kt 0 (beBytes 4 id.toNat) (beBytes 16 key.toNat)
    let answer := sessionAnswer 0 id.toNat (bytes512 eph ++ bytes256 conf ++ wrapped ++ tagBytes tag)
    let s := s.updMgmt fun m =>
      { m with sessionId := id, pending := some { id := id, key := key }, offer := m.offers.head?, offers := m.offers.tail, answer := answer }
    match s.mgmt.usdoUp, s.mgmt.offer with
    | some (0x2D10, 0x02, _), none => .next (uploadWhole 0x2D10 0x02 s)
    | _, _ => .next s

/-- SESSION_REQUEST: a download to SessionRequest (R384). -/
def execSessionRequest (data : List Byte) (s : State) : Out :=
  if usdoAnswers s then .next (downloadWhole 0x2D10 0x03 data (breakUsdo s)) else .next s

/-- SESSION_CLOSE: a request with Op CLOSE (R382, R384). -/
def execSessionClose (data : List Byte) (s : State) : Out :=
  if usdoAnswers s ∧ leAt data 4 1 = 3 then .next (downloadWhole 0x2D10 0x03 data (breakUsdo s)) else .next s

/-- SESSION_IDLE_TIMEOUT: no request has passed R384 for SessionIdle (R382). -/
def execSessionIdleTimeout (s : State) : Out := .next (closeSession 2 s)

end Sys2Proof.Machine
end

