-- ==== Sys2Proof/Machine/Streams.lean ====
section
/-! DEFINITION. Streams.lean: the host bridge's commands: streams, keys, doorbells, completions, streamed blocks, functions
and the link (08 R245 to R280, 11 R348 to R350, 14 R447). -/

namespace Sys2Proof.Machine

/-! ## Opening, keying, closing -/

/-- STREAM_OPEN: a read of StreamOpen for vat v through a function, of 4 bytes (R252, R253, R254). -/
def execStreamOpen (a : BarAccess) (v : Vat) (s : State) : Out :=
  let reply := fun (n : Nat) (t : State) => t.updBridge fun b => { b with lastRead := BitVec.ofNat 64 n }
  if a.size ≠ .four ∨ !fnDecodes s a.fn.val ∨ !serves s a.fn.val v.val ∨ !s.dev.serviceReady then .next (reply 0 s)
  else
    let r := s.vat v.val
    let range := (List.range r.streamCount.toNat).map (r.streamBase.toNat + ·)
    match if r.state = .serving then range.find? fun i => decide ((s.stream i).state = .free) else none with
    | some i => .next (reply (2 ^ 31 + i) (s.setStream i { state := .allocated }))
    | none => .next (reply (stStreamLimit.toNat * 2 ^ 16) s)

/-- An exchange is asked for (R349). -/
def askExchange (st : StreamId) (s : State) : State :=
  (s.updStream st fun r => { r with exchange := true }).updBridge fun b => { b with exchanges := b.exchanges ++ [st] }

/-- A Start request (R255, R256, R349, R350). -/
def startStream (st : StreamId) (s : State) : State :=
  let r := s.stream st
  match r.state with
  | .allocated =>
    if configOk r.cfg ((s.streamFn st.val).getD 0) then
      askExchange st (s.setStream st { r with state := .keying, configError := false, phase := true })
    else s.setStream st { r with configError := true }
  | .keying => if r.exchange then s else askExchange st s
  | .rekey => if r.exchange ∨ r.newKey.isSome then s else askExchange st s
  | _ => s

/-- A write of StreamControl: of the requests that it sets, Reset, Close and Start in this order, the first is taken (R252,
R255, R257). A device reset that runs refuses a stream reset (R444). -/
def writeStreamControl (a : BarAccess) (st : StreamId) (word : BitVec 32) (s : State) : State :=
  if a.size ≠ .four ∨ !windowOpen s a.fn.val st.val then s
  else if word.getLsbD 2 then
    if (s.stream st).state = .resetting ∨ s.dev.state = .deviceReset then s else advanceSwaps (beginStreamReset st s)
  else if word.getLsbD 1 then closeStream st s
  else if word.getLsbD 0 then startStream st s
  else s

/-- STREAM_START: a write of StreamControl that sets Start, after what host software has written before (R255, R256,
R349, R350). -/
def execStreamStart (a : WindowAccess) (word : BitVec 32) (hw : HostWrites) (s : State) : Out :=
  .next (writeStreamControl a.access a.st (word ||| 1) (s.hostWrites hw))

/-- The Result of step 3 of R349 for an offer. -/
def offerResult (s : State) (v : Option Nat) (offer : List Byte) : Nat :=
  let digest := (v.map fun v => (s.vat v).tenantKey).getD 0
  if offer.take 4 ≠ [0x4F, 0x5A, 0x4B, 0x4F] ∨ leAt offer 4 2 ≠ 1 then 1
  else if v = none ∨ Config.sm3 (slice offer 8 64) ≠ digest then 2
  else if !sm2OnCurve (ofBytes 512 (slice offer 8 64)) ∨ !sm2OnCurve (ofBytes 512 (slice offer 72 64)) then 3
  else if (v.map fun v => (s.vat v).state) ≠ some .serving then 4
  else 0

/-- The 256 bytes of an answer (R348). -/
def answerBytes (result : Nat) (body : List Byte) : List Byte :=
  [0x4F, 0x5A, 0x4B, 0x41] ++ leBytes 1 result ++ [0, 0, 0] ++ lpad 0 248 body

/-- KEY_EXCHANGE_DONE: the exchange first in order ends for stream st (R348 to R350). -/
def execKeyExchangeDone (st : StreamId) (s : State) : Out :=
  let r := s.stream st
  if s.bridge.exchanges.head? ≠ some st ∨ !(r.state = .keying ∨ r.state = .rekey) then .next s
  else
    let s := dropExchange st s
    let v := s.streamVat st.val
    let offer := s.hostRead r.keyArea 256
    let result := offerResult s v offer
    if result ≠ 0 then
      .next (raise evKeyExchangeFailed none none v (leBytes 2 st.val ++ leBytes 1 result)
        (s.hostWrite (r.keyArea + 256) (answerBytes result [])))
    else
      let (rb, s) := drawRandom s
      let (eph, conf, shared) := Config.sm2Exchange (s.dev.identityKey.getD 0) s.otp.serial (ofBytes 512 (slice offer 8 64))
        (ofBytes 512 (slice offer 72 64)) (slice offer 136 16) rb
      let kt : BitVec 128 := BitVec.ofNat 128 (shared.toNat / 2 ^ 256)
      let nonce : BitVec 256 := BitVec.ofNat 256 shared.toNat
      let key := streamKey s.otp.masterSecret (v.getD 0) st.val nonce
      let (wrapped, tag) := gcmSeal kt 0 (beBytes 4 st.val) (beBytes 16 key.toNat)
      let s := s.hostWrite (r.keyArea + 256) (answerBytes 0 (bytes512 eph ++ bytes256 conf ++ wrapped ++ tagBytes tag))
      if r.state = .keying then
        .next (beginHandling st (s.updStream st fun r =>
          { r with key := some key, inbound := 0, outbound := 0, counterWarn := false, state := .opened }))
      else .next (s.updStream st fun r => { r with newKey := some key })

/-- NEW_KEY_INSTALL: the last job fetched under the old key has posted (R350). -/
def execNewKeyInstall (st : StreamId) (s : State) : Out :=
  let r := s.stream st
  if r.state = .rekey ∧ r.newKey.isSome ∧ !unposted s st then
    .next (endHandling st (s.setStream st
      { r with key := r.newKey, newKey := none, inbound := 0, outbound := 0, counterWarn := false, state := .opened }))
  else .next s

/-- STREAM_CLOSE: a write of StreamControl that sets Close (R255, R261). -/
def execStreamClose (w : ControlWrite) (s : State) : Out :=
  .next (writeStreamControl w.access w.st (w.word ||| 2) s)

/-- CLOSING_END: the last fetched job has posted (R261). -/
def execClosingEnd (st : StreamId) (s : State) : Out :=
  if (s.stream st).state = .closing ∧ !unposted s st then .next (freeStream st s) else .next s

/-- STREAM_RESET: a write of StreamControl that sets Reset (R255, R447). -/
def execStreamReset (w : ControlWrite) (s : State) : Out :=
  .next (writeStreamControl w.access w.st (w.word ||| 4) s)

/-- STREAM_RESET_DONE: step 5 of R447. -/
def execStreamResetDone (st : StreamId) (s : State) : Out :=
  let r := s.stream st
  if r.state = .resetting then
    .next (s.setStream st (if r.resetFromClosing then {} else { r with state := .allocated, resetFromClosing := false }))
  else .next s

/-- FUNCTION_LEVEL_RESET of a function; a dictionary request that has not begun is discarded (R250, R393, R447). While a
device reset runs, whose scope holds every stream, it resets no stream (R444). The function's power state, its message
addresses and, of the physical function, NumVFs stay as they are, of which R250 says nothing (DESIGN CHOICE, assumption 31). -/
def execFunctionLevelReset (f : Fn) (s : State) : Out :=
  let mine := (List.range 4096).filter fun i => decide (s.streamFn i = some f.val)
  let s := if s.dev.state = .deviceReset then s else forL mine (fun i t => beginStreamReset (Fin.ofNat 4096 i) t) s
  .next (advanceSwaps (s.updFn f.val fun r =>
    { r with unmasked := [], pendingBits := [], held := [], busy := false, sealedData := none, maxReadRequest := 2 }))

/-! ## Doorbells and fetching -/

/-- DOORBELL: a write of SqTail (R262, R264). -/
def execDoorbell (a : WindowAccess) (tail : BitVec 16) (hw : HostWrites) (s : State) : Out :=
  let s := s.hostWrites hw
  if a.access.size ≠ .four ∨ !windowOpen s a.access.fn.val a.st.val then .next s
  else
    let r := s.stream a.st
    let n := (tail - r.sqHead).toNat
    let added := (tail - r.sqTail).toNat
    if cfgSqEntries r.cfg < n ∨ n < added then .next (s.setStream a.st { r with doorbellRejects := satInc r.doorbellRejects })
    else
      .next (beginHandling a.st (s.setStream a.st { r with sqTail := tail, submitted := r.submitted + BitVec.ofNat 32 added }))

/-- The stream that the round-robin serves next: OPEN, with descriptors granted or condemned (R264). -/
def nextFetch (s : State) : Option Nat :=
  argMin (fun i => (i + 4096 - s.bridge.rr) % 4096)
    ((s.streams.filter fun e =>
      decide (e.2.state = .opened) && (decide (0 < e.2.grant) || (decide (0 < e.2.condemned) && !postsHeld s e.1))).map Prod.fst)

/-- DESCRIPTOR_FETCH: one turn of the round-robin (R216, R264); no fetch during an activation (R457). -/
def execDescriptorFetch (s : State) : Out :=
  if s.dev.state = .activating then .next s
  else
    match nextFetch s with
    | none => .next s
    | some i =>
      let st : StreamId := Fin.ofNat 4096 i
      let s := s.updBridge fun b => { b with rr := (i + 1) % 4096 }
      .next (endHandling st (if (s.stream st).grant = 0 then s else fetchOne st s))

/-! ## Completions and mailboxes -/

/-- COMPLETION_POST: a job that has ended, and that has signalled (R235), is posted and leaves its slot or the bridge (R232,
R269 to R273); posts are held while the stream's function is in D3hot (R246). -/
def execCompletionPost (src : PostSrc) (s : State) : Out :=
  match src with
  | .slot p k =>
    match (s.press p).slot k with
    | none => .next s
    | some j =>
      if j.state ≠ .posting ∨ j.signalDue ∨ postsHeld s j.stream.val then .next s
      else .next (advanceSwaps (postJob j.stream j (s.setSlot p k none)))
  | .bridge st =>
    match (s.stream st).ended with
    | [] => .next s
    | j :: rest =>
      if postsHeld s st.val then .next s
      else .next (postJob st j (s.updStream st fun r => { r with ended := rest }))

/-- CQ_HEAD_WRITE: host software consumes records (R272). -/
def execCqHeadWrite (a : WindowAccess) (head : BitVec 16) (s : State) : Out :=
  if a.access.size ≠ .four ∨ !windowOpen s a.access.fn.val a.st.val then .next s
  else
    let r := s.stream a.st
    let c := (head - r.cqHead).toNat
    if c ≤ r.records.length then
      let credits := ((r.records.take c).filter (!·)).length
      .next (s.setStream a.st
        { r with cqHead := head, records := r.records.drop c, returned := r.returned + BitVec.ofNat 32 credits })
    else .next (s.setStream a.st { r with doorbellRejects := satInc r.doorbellRejects })

/-- MAILBOX_HEAD_READ: a read of MailboxHead of an entry (R275), of 8 bytes: any other access reads 0 and consumes nothing,
and so does one through a function that does not serve the stream (R251, R252). An entry of a FREE stream is FREE. -/
def execMailboxHeadRead (a : WindowAccess) (e : Fin 4) (s : State) : Out :=
  let reply := fun (n : Nat) (t : State) => t.updBridge fun b => { b with lastRead := BitVec.ofNat 64 n }
  if a.access.size ≠ .eight ∨ !windowServed s a.access.fn.val a.st.val then .next (reply 0 s)
  else
    let r := s.stream a.st
    let m := tget {} r.mailboxes e.val
    match m.state with
    | .valid =>
      .next (reply (mailboxHead m m.status true) (reserveWaiting a.st (s.setStream a.st
        { r with mailboxes := tput {} r.mailboxes e.val { m with state := .free }, returned := r.returned + 1 })))
    | .reserved => .next (reply (mailboxHead m stNotReady false) s)
    | .free => .next (reply (mailboxHead m stEmpty false) s)

/-! ## Streamed blocks -/

/-- The running streamed jobs of a stream. -/
def streamedJobs (s : State) (st : StreamId) : List (Nat × Nat) :=
  (streamSlots s st).filter fun e =>
    match (s.press e.1).slot e.2 with
    | some j => decide (j.state = .running ∧ j.desc.scaleSource = 2 ∧ (j.desc.opcode = opPlate ∨ j.desc.opcode = opStipple))
    | none => false

/-- BLOCK_POST: a write of DataSeqPosted or ScaleSeqPosted; the bridge reads the block (R276). -/
def execBlockPost (a : WindowAccess) (c : Channel) (q : BitVec 16) (hw : HostWrites) (s : State) : Out :=
  let s := s.hostWrites hw
  if a.access.size ≠ .four ∨ !windowOpen s a.access.fn.val a.st.val then .next s
  else
    let s := s.updStream a.st fun r => match c with
      | .data => { r with dataPosted := q }
      | .scale => { r with scalePosted := q }
    .next (forL (streamedJobs s a.st) (fun e t => readChannels e.1 e.2 (t.updJob e.1 e.2 (clearStale c))) s)

/-- SKEW_TIMEOUT: one channel of the job's next block arrived and its partner did not (R277). The job completes SCALE_SKEW
once the tiles before it are committed. -/
def execSkewTimeout (p : Press) (k : Slot) (s : State) : Out :=
  match (s.press p).slot k with
  | none => .next s
  | some j =>
    let q := nextBlock s p j
    let one := tget false j.arrived (channelKey .data q)
    let other := tget false j.arrived (channelKey .scale q)
    if j.state = .running ∧ j.desc.scaleSource = 2 ∧ one ≠ other ∧ j.next < j.m ∧ !j.sealFail then
      let s := s.updJob p k fun j => { j with scaleSkew := true }
      .next (if j.leading = j.next then finishJob p k s else s)
    else .next s

/-- JOB_QUERY: a write of a ring index to JobQuery (R260). -/
def execJobQuery (a : WindowAccess) (i : BitVec 16) (s : State) : Out :=
  if a.access.size ≠ .other ∧ windowOpen s a.access.fn.val a.st.val then
    .next (s.updStream a.st fun r => { r with query := i })
  else .next s

/-! ## Functions and the link -/

/-- NUMVFS_WRITE: refused while a stream of a vat that it moves is not FREE (R249). -/
def execNumvfsWrite (n : Fn) (s : State) : Out :=
  let old := s.bridge.numVfs.val
  let moved := (List.range 8).filter fun v => decide ((v < old) ≠ (v < n.val))
  let busy := moved.any fun v =>
    s.streams.any fun e => decide (e.2.state ≠ .free) && decide (s.streamVat e.1 = some v)
  if busy then .next s else .next (s.updBridge fun b => { b with numVfs := n })

/-- FUNCTION_POWER_STATE: D3hot holds a function's posts, D0 releases them (R246). -/
def execFunctionPowerState (f : Fn) (d3hot : Bool) (s : State) : Out :=
  if d3hot then .next (s.updFn f.val fun r => { r with d3hot := true })
  else
    let held := (s.fn f.val).held
    .next (forL held (fun vec t => sendMsix f.val vec t) (s.updFn f.val fun r => { r with d3hot := false, held := [] }))

/-- LINK_TRAINING: the link trains to a width and speed (R245, R247, R279, R280). -/
def execLinkTraining (w : LinkWidth) (g : LinkSpeed) (s : State) : Out :=
  if !s.dev.perstHigh ∨ !s.dev.started then .next s
  else
    let s := s.updBridge fun b =>
      { b with link := some (w, g), trainedOnce := true, linkRetrains := if b.trainedOnce then satInc b.linkRetrains else b.linkRetrains }
    if linkBelow s then .next (raise evLinkDegraded none none none (leBytes 2 (linkWord (some (w, g)))) s) else .next s

/-- LINK_DOWN: the link goes down; LinkState reads 0 until it trains again (R279). -/
def execLinkDown (s : State) : Out := .next (s.updBridge fun b => { b with link := none })

/-- AER_ERROR_LOGGED: an uncorrectable error is logged; the first error pointer stays at the first of the errors that have
not been cleared, and the event carries it (R245, R280; assumption 73). -/
def execAerErrorLogged (ptr : BitVec 8) (s : State) : Out :=
  let first := s.bridge.aer.getD ptr
  .next (raise evPcieUncorrectable none none none [first] (s.updBridge fun b =>
    { b with aer := some first, aerStatus := b.aerStatus ||| BitVec.ofNat 32 (2 ^ ptr.toNat) }))

/-- MSIX_UNMASK: a write of 4 bytes that clears the mask of a vector; a pending message sends once (R252, R278). -/
def execMsixUnmask (a : BarAccess) (vec : Fin 32) (s : State) : Out :=
  if a.size ≠ .four ∨ !fnDecodes s a.fn.val ∨ vectorsOf a.fn ≤ vec.val then .next s
  else .next (setVectorMask a.fn.val vec.val false s)

end Sys2Proof.Machine
end

