-- ==== Sys2Proof/Machine/Vector.lean ====
section
/-! DEFINITION. Vector.lean: vector jobs (06 R191 to R210, 04 R142 to R145). -/

namespace Sys2Proof.Machine

/-! ## Elements (R192, R195) -/

/-- What an operation takes from the state beside its operands: tables, generator and free values. -/
structure VecCtx where
  /-- An FP16 word of a decode codebook (R129). -/
  book : Nat → Nat → Nat
  /-- The bytes of an activation table (R127). -/
  table : Nat → List Byte
  /-- BlockQuietSteps (R146). -/
  quiet : Nat
  /-- Stochastic rounding, the generator and its next draw (R197). -/
  random : Bool
  seed : BitVec 64
  draws : Nat
  /-- The next free value. -/
  free : Nat

/-- The context of a vector job. -/
def vecCtx (s : State) (p : Nat) (j : Job) (v : VectorParams) : VecCtx :=
  let set := tableSetOf s j.desc.vat.toNat j.desc.epoch
  { book := bookEntry s set, table := activationTable s set, quiet := s.settings.blockQuietSteps.toNat
    random := v.stochasticRound, seed := (s.press p).generator, draws := (s.press p).draws, free := s.free }

/-- The rounding of the i-th result of an operation (R192, R197). -/
def VecCtx.rnd (c : VecCtx) (i : Nat) : Rnd :=
  if c.random then .stochastic (Config.stochastic c.seed (c.draws + i)).toNat else .rne

/-- A free number of n bytes for the i-th result. -/
def VecCtx.any (c : VecCtx) (i n : Nat) : Nat := leNat (freeBytes (c.free + 8 * i) n)

/-- The rounding draws that one operation may take from the press's generator for n results. -/
def vecDraws (n : Nat) : Nat := 3 * n

/-- The value of an element that is not part of a block (R192, R195). -/
def elemOf (c : VecCtx) (fmt book : Nat) (w : Nat) : FVal :=
  match fmt with
  | 0 => decodeF fp16 w
  | 1 => decodeF bf16 w
  | 2 => decodeF e4m3 w
  | 3 => decodeF e5m2 w
  | 4 => decodeF fp16 (c.book book w)
  | 5 => fInt (sext 8 w)
  | 6 => fInt (sext 16 w)
  | _ => fInt (sext 32 w)

/-- A block value times its scale: q × b (R142); INT8 or UINT8. -/
def blockRoot (sqrt : Bool) (q : Nat) (word : Nat) : FVal :=
  (fInt (if sqrt then (q : Int) else max (-127) (sext 8 q))).mul (decodeF fp16 (field word 15 0))

/-- The stored quantities of a block tensor of n elements: values, or square roots (R142, R195). -/
def blockRoots (sqrt : Bool) (n : Nat) (l : List Byte) : List FVal :=
  (List.range n).map fun i => blockRoot sqrt (leAt l i 1) (leAt l (n + i / 64 * 4) 4)

/-- n elements of a format at the start of a list of bytes. -/
def elemsOf (c : VecCtx) (fmt book n : Nat) (l : List Byte) : List FVal :=
  if fmt = 9 then blockRoots false n l
  else if fmt = 10 then (blockRoots true n l).map fun x => x.mul x
  else (List.range n).map fun i => elemOf c fmt book (leAt l (i * fmtBytes fmt) (fmtBytes fmt))

/-- n FP16 elements. -/
def halves (n : Nat) (l : List Byte) : List FVal := (List.range n).map fun i => decodeF fp16 (leAt l (2 * i) 2)

/-- Element i of a list of values, 0 beyond its end. -/
def fAt (l : List FVal) (i : Nat) : FVal := lget fZero l i

/-- The word of the i-th result in a format that is not a block (R192); NaN as an integer is free. -/
def elemWord (c : VecCtx) (fmt i : Nat) (y : FVal) : Nat :=
  let int := fun (w : Nat) =>
    match y with
    | .nan => c.any i (w / 8)
    | .inf n => toBits w (if n then -(2 ^ (w - 1) : Nat) else (2 ^ (w - 1) : Nat) - 1)
    | .val q _ => toBits w (clampW w (q.round (c.rnd i)))
  match fmt with
  | 0 => encodeF fp16 y (c.rnd i)
  | 1 => encodeF bf16 y (c.rnd i)
  | 2 => encodeF e4m3 y (c.rnd i)
  | 3 => encodeF e5m2 y (c.rnd i)
  | 5 => int 8
  | 6 => int 16
  | _ => int 32

/-! ## Blocks (R142 to R145) -/

/-- The smallest e with 2^e at least a positive rational. -/
def ceilLog2 (q : Frac) : Int := if q.le (pow2 q.log2) then q.log2 else q.log2 + 1

/-- A block scale with its limits: at least 2^-24, and 32,768 where it would exceed 65,504 (R144). -/
def limitScale (b : Frac) : Frac := if (Frac.ofInt 65504).lt b then .ofInt 32768 else if b.lt (pow2 (-24)) then pow2 (-24) else b

/-- The scale and QuietCount after steps 1 to 5 of R144. The half of a scale that is an odd multiple of 2^-24 quantises its
block as it is, while the Scale stored for it is its FP16 rounding (DESIGN CHOICE; assumption 97). -/
def blockScale (quiet limit : Nat) (m b : Frac) (count : Nat) : Frac × Nat :=
  let b :=
    if b.num ≠ 0 then b
    else if m.num = 0 then pow2 (-24) else limitScale (pow2 (ceilLog2 (m.mul ⟨1, limit⟩)))
  let pb := (Frac.ofInt limit).mul b
  if pb.lt m then (limitScale (b.mul (pow2 (ceilLog2 (m.div pb)))), 0)
  else if m.le (pb.mul ⟨1, 4⟩) then
    let n := min 255 (count + 1)
    if quiet ≤ n ∧ (pow2 (-24)).lt b then (limitScale (b.mul ⟨1, 2⟩), 0) else (b, n)
  else (b, 0)

/-- A block of 64 values written (R144, R145): its bytes and its BlockScaleWord. Values or a stored scale that are not
finite, a negative scale, and a negative value of which the root is to be stored leave the block open: it is free. -/
def writeBlock (c : VecCtx) (sqrt : Bool) (i : Nat) (vs : List FVal) (old : Nat) : List Byte × Nat :=
  let limit := if sqrt then 255 else 127
  let qs := vs.filterMap fun v =>
    match v with
    | .val q _ => if sqrt ∧ q.num < 0 then none else some q
    | _ => none
  match decodeF fp16 (field old 15 0) with
  | .val b0 _ =>
    if qs.length < vs.length ∨ b0.num < 0 then open'
    else
      let (b, n) := blockScale c.quiet limit (maxFrac (qs.map Frac.abs)) b0 (field old 23 16)
      let lo : Int := if sqrt then 0 else -(limit : Int)
      (((List.range qs.length).zip qs).map fun e => BitVec.ofInt 8 (clampI lo limit ((e.2.div b).round (c.rnd (i + e.1)))),
        n * 2 ^ 16 + encodeF fp16 (fv b))
  | _ => open'
where
  /-- A block of free values; -128 is never written. -/
  open' : List Byte × Nat :=
    ((List.range vs.length).map fun e =>
        let q := c.any (i + e) 1
        BitVec.ofNat 8 (if !sqrt && decide (q = 128) then 129 else q),
      c.any (i + 64) 3)

/-- A block tensor written from its stored quantities over its old scale words. -/
def writeBlocks (c : VecCtx) (sqrt : Bool) (i : Nat) (vs : List FVal) (old : List Byte) : List Byte :=
  let bs := (List.range (vs.length / 64)).map fun b =>
    writeBlock c sqrt (i + 64 * b) ((vs.drop (64 * b)).take 64) (leAt old (4 * b) 4)
  bs.flatMap Prod.fst ++ bs.flatMap fun x => leBytes 4 x.2

/-- The square root (IEEE 754: NaN below 0). -/
def fsqrt : FVal → FVal
  | .nan => .nan
  | .inf n => if n then .nan else .inf false
  | .val q z => if q.num = 0 then .val q z else if q.num < 0 then .nan else fv (sqrtFrac q)

/-- An array of results in a format over the old scale words of a block tensor; root k of a second moment is stored. -/
def arrayOut (c : VecCtx) (fmt : Nat) (ys : List FVal) (old : List Byte) : List Byte :=
  if fmt = 9 then writeBlocks c false 0 ys old
  else if fmt = 10 then writeBlocks c true 0 (ys.map fsqrt) old
  else ((List.range ys.length).zip ys).flatMap fun e => leBytes (fmtBytes fmt) (elemWord c fmt e.1 e.2)

/-! ## Running an operation (R193, R194, R234) -/

/-- What an operation writes, with its part of the completion. -/
structure VecResult where
  outs : List (Addr × List Byte)
  rescaled : Bool := false
  committed : Nat := 0
  /-- Results that may have drawn a free value or a rounding number. -/
  results : Nat := 0

/-- Lane operations of an operation (R360). -/
def laneOps (v : VectorParams) : Nat :=
  if isElementwise v.op.toNat then vecElems v
  else Config.laneOperations v.op.toNat v.rowLength.toNat v.rowCount.toNat v.headDim.toNat v.count.toNat

/-- The lane operations of a running vector job are admitted against the digital allowance, over as many windows as they
need (R37, R417). -/
def fundVector (op p k : Nat) (j : Job) (v : VectorParams) (s : State) : State × Option (Job × VectorParams) :=
  let (paid, done, s) := payTowards p 1 19 (laneOps v * price s p (.lane op)) j.funded s
  (s.updJob p k fun j => { j with funded := paid }, if done then some (j, v) else none)

/-- The vector job in slot k with a VectorOp, started when its waits are over and its energy is admitted: vector jobs run
one at a time in placement order. -/
def startVector (op : Nat) (p k : Nat) (s : State) : State × Option (Job × VectorParams) :=
  match (s.press p).slot k with
  | none => (s, none)
  | some j =>
    let mine : Bool := match j.vp with
      | some v => decide (v.op.toNat = op)
      | none => false
    if j.desc.opcode ≠ opVector ∨ !mine ∨ (earlier (s.press p) j).any fun e => decide (e.2.desc.opcode = opVector) then (s, none)
    else
      let s := startJob opVector (fun _ _ _ => true) p k s
      match runningJob s p k opVector with
      | none => (s, none)
      | some j =>
        match j.vp with
        | none => (s, none)
        | some v => fundVector op p k j v s

/-- A read of a vector job fails: the job ends; one that a copy holds is made again, with the energy that the job has been
admitted (R284, R296, R298). -/
def vectorFails (op p k : Nat) (v : VectorParams) (e : ReadFail) (s : State) : State :=
  match e with
  | .held => s.updJob p k fun j => { j with funded := laneOps v * price s p (.lane op) }
  | e => finishJob p k (readFailed p k e s)

/-- The results of an operation are written and its job ends. -/
def endVector (p k : Nat) (j : Job) (v : VectorParams) (read : List Range) (x : VecResult) (s : State) : State :=
  let vat := j.desc.vat.toNat
  let s := countExact vat 3 ((read.map fun r => pkgBytes r.addr r.len).foldl (· + ·) 0) s
  let s := countExact vat 2 (laneOps v) s
  let s := s.updPress p fun r => { r with draws := r.draws + (if v.stochasticRound then vecDraws x.results else 0) }
  let s : State := { s with free := s.free + 8 * vecDraws x.results + 8 * 64 }
  let s := forL x.outs (fun o t => writeOut p k o.1 o.2 t) s
  finishJob p k (s.updJob p k fun j => { j with rescaled := x.rescaled, committed := x.committed })

/-- An operation on ranges that its parameters name. -/
def runVector (op : Nat) (p k : Nat) (ins : VectorParams → List Range)
    (f : VecCtx → VectorParams → List (List Byte) → VecResult) (s : State) : State :=
  match startVector op p k s with
  | (s, none) => s
  | (s, some (j, v)) =>
    match readRanges s p j (ins v) with
    | .error e => vectorFails op p k v e s
    | .ok ls => endVector p k j v (ins v) (f (vecCtx s p j v) v ls) s

/-- An input range. -/
def inRange (a : BitVec 64) (n : Nat) : Range := ⟨vaddr a, n, .input⟩

/-- The old scale words of a block tensor of n elements at an address; nothing for other formats (R144, R195). In host
memory they are read as a sealed input (R267), so the job ends SEAL_FAIL where they do not authenticate (DESIGN CHOICE;
assumption 97). -/
def oldScales (a : BitVec 64) (fmt n : Nat) : Range :=
  ⟨(vaddr a).plus n, if isBlock fmt then n / 64 * 4 else 0, .input⟩

/-- Input i of an operation. -/
def inp (ls : List (List Byte)) (i : Nat) : List Byte := lget [] ls i

/-! ## Elementwise operations (R196) -/

/-- The ranges that an elementwise operation with n sources reads. -/
def ewRead (n : Nat) (v : VectorParams) : List Range :=
  ([v.src0, v.src1, v.src2].take n).map (fun a => inRange a (arrayBytes v.inFormat.toNat (vecElems v))) ++
    [oldScales v.dst v.outFormat.toNat (vecElems v)]

/-- The results of an elementwise operation: element i is f of the i-th elements of the sources. -/
def ewValues (n : Nat) (f : List FVal → FVal) (c : VecCtx) (v : VectorParams) (ls : List (List Byte)) : List FVal :=
  let xs := (ls.take n).map fun l => elemsOf c v.inFormat.toNat v.decodeBook.toNat (vecElems v) l
  (List.range (vecElems v)).map fun i => f (xs.map fun x => fAt x i)

/-- What an elementwise operation writes. -/
def ewOut (n : Nat) (f : List FVal → FVal) (c : VecCtx) (v : VectorParams) (ls : List (List Byte)) : VecResult :=
  { outs := [(vaddr v.dst, arrayOut c v.outFormat.toNat (ewValues n f c v ls) (inp ls n))], results := vecElems v }

/-- Dst = f of the elements of n sources. -/
def elementwise (op n : Nat) (p k : Nat) (f : List FVal → FVal) (s : State) : State :=
  runVector op p k (ewRead n) (ewOut n f) s

/-- EW_ADD. -/
def execEwAdd (p : Press) (k : Slot) (s : State) : Out :=
  .next (elementwise vopAdd 2 p k (fun l => (fAt l 0).add (fAt l 1)) s)

/-- EW_MUL. -/
def execEwMul (p : Press) (k : Slot) (s : State) : Out :=
  .next (elementwise vopMul 2 p k (fun l => (fAt l 0).mul (fAt l 1)) s)

/-- EW_FMA: one rounding. -/
def execEwFma (p : Press) (k : Slot) (s : State) : Out :=
  .next (elementwise vopFma 3 p k (fun l => ((fAt l 0).mul (fAt l 1)).add (fAt l 2)) s)

/-- CONVERT. -/
def execConvert (p : Press) (k : Slot) (s : State) : Out := .next (elementwise vopConvert 1 p k (fun l => fAt l 0) s)

/-- The larger of two values, NaN where one is NaN (R192). -/
def maxNan (a b : FVal) : FVal := if a = .nan ∨ b = .nan then .nan else a.max b

/-- The largest magnitude of a row: NaN where an element is NaN. -/
def rowMax (l : List FVal) : FVal := l.foldl (fun m x => maxNan m (if x.isNeg then x.neg else x)) fZero

/-- The ranges that QUANTISE reads. -/
def quantiseRead (v : VectorParams) : List Range :=
  [inRange v.src0 (2 * vecElems v)]

/-- What QUANTISE writes. -/
def quantiseOut (c : VecCtx) (v : VectorParams) (ls : List (List Byte)) : VecResult :=
  let l := v.rowLength.toNat
  let xs := halves (vecElems v) (inp ls 0)
  let scales := (List.range v.rowCount.toNat).map fun r =>
    encodeF fp16 ((rowMax ((xs.drop (l * r)).take l)).div (fInt 127))
  let codes := (List.range (vecElems v)).map fun i =>
    elemWord c 5 i ((fAt xs i).div (decodeF fp16 (lget 0 scales (i / l))))
  { outs := [(vaddr v.src1, scales.flatMap (leBytes 2)), (vaddr v.dst, codes.flatMap (leBytes 1))]
    results := vecElems v }

/-- QUANTISE: the scale of each row at Src1, its INT8 codes at Dst. -/
def execQuantise (p : Press) (k : Slot) (s : State) : Out := .next (runVector vopQuantise p k quantiseRead quantiseOut s)

/-! ## Partial sums (R198, R199) -/

/-- The value of a PartialWord. -/
def partialValue (w : Nat) : Int := sext 48 (field w 47 0) * (2 ^ field w 51 48 : Nat)

/-- U of R199; none for a Param 0 that it does not list. -/
def reduceUnit (param : Nat) : Option Frac :=
  if param = 0 then some ⟨1, 1⟩ else if param = 1 then some ⟨127, 256⟩ else if param = 2 then some ⟨127, 4608⟩ else none

/-- The ranges that REDUCE_PARTIAL reads. -/
def reduceRead (v : VectorParams) : List Range :=
  inRange v.src0 (v.count.toNat * vecElems v * 8) ::
    (if v.outFormat.toNat = 8 then [] else [inRange v.src1 (2 * v.rowCount.toNat), inRange v.src2 (2 * v.rowLength.toNat)])

/-- A PARTIAL word of a total: AccShift by RNE (R199), Sum by the job's rounding to its output format (R197; a drawn Sum
beyond 48 bits is clamped: assumption 90). -/
def partialRounded (t : Int) (sat : Bool) (r : Rnd) : BitVec 64 :=
  let i := partialShift t 0
  if i < 16 then packPartial sat i (clampW 48 ((mkFrac t (2 ^ i)).round r))
  else packPartial true 15 (clampW 48 ((mkFrac t (2 ^ 15)).round r))

/-- The word of a result of a float format with a table applied to y: an FP16 result takes the job's rounding to its output
format in the table's own rounding (R127, R197; DESIGN CHOICE, assumption 97). -/
def tableWord (c : VecCtx) (v : VectorParams) (i : Nat) (y : FVal) : Nat :=
  let t := c.table v.activationTable.toNat
  if v.outFormat.toNat = 0 then encodeSat fp16 (tableValue t (rne16 y)) (c.rnd i)
  else elemWord c v.outFormat.toNat i (evalTable t (rne16 y))

/-- What REDUCE_PARTIAL writes. -/
def reduceOut (c : VecCtx) (v : VectorParams) (ls : List (List Byte)) : VecResult :=
  let n := vecElems v
  let l := v.rowLength.toNat
  let parts := fun i => (List.range v.count.toNat).map fun j => leAt (inp ls 0) (8 * (j * n + i)) 8
  let total := fun i => lsum ((parts i).map partialValue)
  let sat := fun i => (parts i).any fun w => nbit w 63
  let st := halves v.rowCount.toNat (inp ls 1)
  let cn := halves l (inp ls 2)
  if v.outFormat.toNat = 8 then
    let ws := (List.range n).map fun i => (total i, partialRounded (total i) (sat i) (c.rnd i))
    { outs := [(vaddr v.dst, ws.flatMap fun e => leBytes 8 e.2.toNat)], committed := v.rowCount.toNat, results := n
      rescaled := ws.any fun e => decide (partialValue e.2.toNat ≠ e.1) }
  else
    let y := fun i (u : Frac) => ((fInt (total i)).mul (fv u)).mul ((fAt st (i / l)).mul (fAt cn (i % l)))
    let word := fun i =>
      match reduceUnit (lget 0 v.params 0).toNat with
      | some u => if v.activationEnable then tableWord c v i (y i u) else elemWord c v.outFormat.toNat i (y i u)
      | none => c.any i (fmtBytes v.outFormat.toNat)
    { outs := [(vaddr v.dst, (List.range n).flatMap fun i => leBytes (fmtBytes v.outFormat.toNat) (word i))]
      committed := v.rowCount.toNat, results := n }

/-- REDUCE_PARTIAL. A Param 0 that R199 does not list leaves the results of a float format free. -/
def execReducePartial (p : Press) (k : Slot) (s : State) : Out := .next (runVector vopReduce p k reduceRead reduceOut s)

/-! ## Row statistics (R201 to R203) -/

/-- z of R202: NaN counts as −∞, +∞ as 65,504, in x and again in RNE(τ x), so that a NaN element under a negative τ gives
65,504 (DESIGN CHOICE; assumption 97). -/
def softmaxZ (tau x : FVal) : FVal :=
  let count := fun (v : FVal) =>
    match v with
    | .nan => .inf true
    | .inf false => fInt 65504
    | v => v
  count (rne16 (tau.mul (count x)))

/-- M and p̂ of R202 for a row of z. -/
def softmaxRow (zs : List FVal) : FVal × List Nat :=
  let m := zs.foldl FVal.max (.inf true)
  let p := fun (z : FVal) =>
    match z, m with
    | .val a _, .val b _ => expWord (((a.add b.neg).mul (pow2 24)).floor)
    | _, _ => 0
  (m, zs.map fun z =>
    match decodeF fp16 (p z) with
    | .val q _ => ((q.mul ⟨65536, 1⟩).rne).toNat
    | _ => 0)

/-- y of step 4 of R202. -/
def softmaxY (d q : Nat) : FVal := if d = 0 then fZero else fv (mkFrac q d)

/-- The ranges that SOFTMAX reads. -/
def softmaxRead (v : VectorParams) : List Range :=
  [inRange v.src0 (arrayBytes v.inFormat.toNat (vecElems v)), oldScales v.dst v.outFormat.toNat (vecElems v)]

/-- What SOFTMAX writes. -/
def softmaxOut (c : VecCtx) (v : VectorParams) (ls : List (List Byte)) : VecResult :=
  let l := v.rowLength.toNat
  let xs := elemsOf c v.inFormat.toNat v.decodeBook.toNat (vecElems v) (inp ls 0)
  let tau := h16 (lget 0 v.params 0)
  let ys := (List.range v.rowCount.toNat).flatMap fun r =>
    let (_, ps) := softmaxRow (((xs.drop (l * r)).take l).map (softmaxZ tau))
    let d := ps.foldl (· + ·) 0
    ps.map (softmaxY d)
  { outs := [(vaddr v.dst, arrayOut c v.outFormat.toNat ys (inp ls 1))], results := vecElems v }

/-- SOFTMAX. -/
def execSoftmax (p : Press) (k : Slot) (s : State) : Out := .next (runVector vopSoftmax p k softmaxRead softmaxOut s)

/-- The statistics of R203 of a row: none when m = 0; else μ and q. -/
def rowStats (xs : List FVal) : Option (Frac × Frac) :=
  let m := maxFrac (xs.map magOf)
  if m.num = 0 then none
  else
    let e := ceilLog2 m
    let hat := xs.map fun x =>
      match finOf x with
      | none => 0
      | some q => clampI (-32767) 32767 (q.mul (pow2 (15 - e))).rne
    let s1 := lsum hat
    let s2 := lsum (hat.map fun h => rneDiv (h * h) 32768)
    some (((Frac.ofInt s1).mul (pow2 (e - 15))).mul ⟨1, xs.length⟩, ((Frac.ofInt s2).mul (pow2 (2 * e - 15))).mul ⟨1, xs.length⟩)

/-- The factor 1 / √x of R203, rounded once to FP16. -/
def normFactor (x : FVal) : FVal := rne16 ((fInt 1).div (fsqrt x))

/-- LAYERNORM and RMSNORM row by row: f gives an output from the statistics, the element and its column. -/
def normRows (c : VecCtx) (v : VectorParams) (ls : List (List Byte)) (nsrc : Nat)
    (f : Option (Frac × Frac) → FVal → Nat → FVal) : VecResult :=
  let l := v.rowLength.toNat
  let xs := elemsOf c v.inFormat.toNat v.decodeBook.toNat (vecElems v) (inp ls 0)
  let ys := (List.range v.rowCount.toNat).flatMap fun r =>
    let row := (xs.drop (l * r)).take l
    let st := rowStats row
    ((List.range l).zip row).map fun e => if e.2 = .nan then .nan else f st e.2 e.1
  { outs := [(vaddr v.dst, arrayOut c v.outFormat.toNat ys (inp ls nsrc))], results := vecElems v }

/-- The ranges that LAYERNORM reads. -/
def layernormRead (v : VectorParams) : List Range :=
  [inRange v.src0 (arrayBytes v.inFormat.toNat (vecElems v)), inRange v.src1 (2 * v.rowLength.toNat),
    inRange v.src2 (2 * v.rowLength.toNat), oldScales v.dst v.outFormat.toNat (vecElems v)]

/-- What LAYERNORM writes. -/
def layernormOut (c : VecCtx) (v : VectorParams) (ls : List (List Byte)) : VecResult :=
  let gamma := halves v.rowLength.toNat (inp ls 1)
  let beta := halves v.rowLength.toNat (inp ls 2)
  let eps := h16 (lget 0 v.params 0)
  normRows c v ls 3 fun st x i =>
    match st with
    | none => fAt beta i
    | some (mu, q) =>
      let var := q.add (mu.mul mu).neg
      let r := normFactor ((fv (if var.num < 0 then ⟨0, 1⟩ else var)).add eps)
      (((x.add (fv mu.neg)).mul r).mul (fAt gamma i)).add (fAt beta i)

/-- LAYERNORM. -/
def execLayernorm (p : Press) (k : Slot) (s : State) : Out := .next (runVector vopLayernorm p k layernormRead layernormOut s)

/-- The ranges that RMSNORM reads. -/
def rmsnormRead (v : VectorParams) : List Range :=
  [inRange v.src0 (arrayBytes v.inFormat.toNat (vecElems v)), inRange v.src1 (2 * v.rowLength.toNat),
    oldScales v.dst v.outFormat.toNat (vecElems v)]

/-- What RMSNORM writes. -/
def rmsnormOut (c : VecCtx) (v : VectorParams) (ls : List (List Byte)) : VecResult :=
  let gamma := halves v.rowLength.toNat (inp ls 1)
  let eps := h16 (lget 0 v.params 0)
  normRows c v ls 2 fun st x i =>
    match st with
    | none => fZero
    | some (_, q) => (x.mul (normFactor ((fv q).add eps))).mul (fAt gamma i)

/-- RMSNORM. -/
def execRmsnorm (p : Press) (k : Slot) (s : State) : Out := .next (runVector vopRmsnorm p k rmsnormRead rmsnormOut s)

/-! ## Attention (R204 to R206) -/

/-- An order of n terms that an implementation chooses: every position once. -/
def termOrder (draw n : Nat) : List Nat :=
  let l := ((Config.fmaOrder draw n).filter fun i => decide (i < n)).eraseDups
  l ++ (List.range n).filter fun i => !l.contains i

/-- Products accumulated by FP16 fused multiply-add in an order of the hardware's choosing: the last multiply-add before
it is rounded. -/
def fmaLast (draw n : Nat) (a b : Nat → FVal) : FVal :=
  let order := termOrder draw n
  let step := fun (acc : FVal) (i : Nat) => ((a i).mul (b i)).add acc
  match order.getLast? with
  | none => fZero
  | some i => step (order.dropLast.foldl (fun acc i => rne16 (step acc i)) fZero) i

/-- The accumulated products, rounded by RNE throughout (R205). -/
def fmaSum (draw n : Nat) (a b : Nat → FVal) : FVal := rne16 (fmaLast draw n a b)

/-- The ranges of the pages that hold a sequence's keys or values, from entry `from'` of the page list (R204). -/
def pageRanges (v : VectorParams) (pages : List Byte) (from' : Nat) : List Range :=
  (List.range (pagesOf v)).map fun i =>
    let rows := min (rowsPerPage v) (v.rowLength.toNat - i * rowsPerPage v)
    ⟨.package (leAt pages (4 * (from' + i)) 4 * 2048), rows * v.headDim.toNat * fmtBytes v.inFormat.toNat, .input⟩

/-- The bytes of ATTENTION: the scores for the work area, and the queries' results with their statistics (R205). -/
def attentionBytes (c : VecCtx) (v : VectorParams) (q keys vals : List Byte) : List Byte × List Byte :=
  let l := v.rowLength.toNat
  let d := v.headDim.toNat
  let r := v.rowCount.toNat
  let fmt := v.inFormat.toNat
  let qs := halves (r * d) q
  let ks := elemsOf c fmt v.decodeBook.toNat (l * d) keys
  let vs := elemsOf c fmt v.decodeBook.toNat (l * d) vals
  let scores := (List.range r).map fun x => (List.range l).map fun t =>
    rne16 ((h16 (lget 0 v.params 0)).mul
      (fmaSum (c.free + x * (l + d) + t) d (fun i => fAt qs (x * d + i)) fun i => fAt ks (t * d + i)))
  let rows := ((List.range r).zip scores).map fun e =>
    let (m, ps) := softmaxRow (e.2.map (softmaxZ (fInt 1)))
    let dd := ps.foldl (· + ·) 0
    let ys := ps.map fun x => rne16 (softmaxY dd x)
    let out := (List.range d).map fun i =>
      let at' := e.1 * (l + d) + l + i
      encodeF fp16 (fmaLast (c.free + at') l (fun t => fAt ys t) fun t => fAt vs (t * d + i)) (c.rnd at')
    (out, m, dd)
  let half := fun (x : FVal) => leBytes 2 (encodeF fp16 x)
  (scores.flatMap fun x => x.flatMap half,
    (rows.flatMap fun x => x.1.flatMap (leBytes 2)) ++
      (if v.keepStats then rows.flatMap fun x => half x.2.1 ++ leBytes 4 x.2.2 else []))

/-- The queries and the page list of ATTENTION. -/
def attentionRead (v : VectorParams) : List Range :=
  [inRange v.src0 (2 * v.rowCount.toNat * v.headDim.toNat), inRange v.src1 (8 * pagesOf v)]

/-- What ATTENTION writes. -/
def attentionOut (c : VecCtx) (v : VectorParams) (q keys vals : List Byte) : VecResult :=
  let (work, out) := attentionBytes c v q keys vals
  { outs := [(vaddr v.src2, work), (vaddr v.dst, out)]
    results := v.rowCount.toNat * (v.rowLength.toNat + v.headDim.toNat) }

/-- ATTENTION. -/
def execAttention (p : Press) (k : Slot) (s : State) : Out :=
  match startVector vopAttention p k s with
  | (s, none) => .next s
  | (s, some (j, v)) =>
    let first := attentionRead v
    match readRanges s p j first with
    | .error e => .next (vectorFails vopAttention p k v e s)
    | .ok ls =>
      let kr := pageRanges v (inp ls 1) 0
      let vr := pageRanges v (inp ls 1) (pagesOf v)
      match readRanges s p j kr, readRanges s p j vr with
      | .error e, _ => .next (vectorFails vopAttention p k v e s)
      | _, .error e => .next (vectorFails vopAttention p k v e s)
      | .ok keys, .ok vals =>
        .next (endVector p k j v (first ++ kr ++ vr)
          (attentionOut (vecCtx s p j v) v (inp ls 0) keys.flatten vals.flatten) s)

/-- exp of a value that is at most 0; NaN and infinities as IEEE 754 has them. -/
def fexp : FVal → FVal
  | .nan => .nan
  | .inf n => if n then fZero else .inf false
  | .val q _ => fv (expFrac (q.mul (pow2 24)).floor)

/-- The merged results (R206). -/
def mergeBytes (c : VecCtx) (v : VectorParams) (l : List Byte) : List Byte :=
  let d := v.headDim.toNat
  let r := v.rowCount.toNat
  let size := 2 * r * d + 6 * r
  let n := v.count.toNat
  let m := fun x j => decodeF fp16 (leAt l (j * size + 2 * r * d + 6 * x) 2)
  let dd := fun x j => fInt (leAt l (j * size + 2 * r * d + 6 * x + 2) 4)
  (List.range r).flatMap fun x =>
    let top := ((List.range n).map (m x)).foldl maxNan (.inf true)
    let terms := (List.range n).map fun j => (dd x j).mul (fexp ((m x j).add top.neg))
    let sum := terms.foldl FVal.add fZero
    let w := terms.map fun t => rne16 (t.div sum)
    (List.range d).flatMap fun i =>
      leBytes 2 (encodeF fp16 (fmaLast (c.free + x * d + i) n (fAt w)
        fun j => decodeF fp16 (leAt l (j * size + 2 * (x * d + i)) 2)) (c.rnd (x * d + i)))

/-- The ranges that ATTN_MERGE reads. -/
def mergeRead (v : VectorParams) : List Range :=
  [inRange v.src0 (v.count.toNat * (2 * v.rowCount.toNat * v.headDim.toNat + 6 * v.rowCount.toNat))]

/-- What ATTN_MERGE writes. -/
def mergeOut (c : VecCtx) (v : VectorParams) (ls : List (List Byte)) : VecResult :=
  { outs := [(vaddr v.dst, mergeBytes c v (inp ls 0))], results := v.rowCount.toNat * v.headDim.toNat }

/-- ATTN_MERGE. -/
def execAttnMerge (p : Press) (k : Slot) (s : State) : Out := .next (runVector vopMerge p k mergeRead mergeOut s)

/-! ## The top-k unit (R207, R208) -/

/-- An element that qualifies. -/
structure TopE where
  value : FVal
  word : Nat
  pos : Nat
  deriving DecidableEq, Repr

/-- a stands before b: by value, then by lower position. -/
def TopE.before (smallest : Bool) (a b : TopE) : Bool :=
  let lt := fun (x y : TopE) => if smallest then x.value.lt y.value else y.value.lt x.value
  lt a b || (!lt b a && decide (a.pos < b.pos))

/-- An element inserted into the ordered list of the best n. -/
def topInsert (smallest : Bool) (n : Nat) (l : List TopE) (a : TopE) : List TopE :=
  (l.takeWhile (fun b => !a.before smallest b) ++ a :: l.dropWhile fun b => !a.before smallest b).take n

/-- The elements of a TOPK job in order; NaN is skipped. TopKEntries under InFormat TOPK_ENTRY are compared as INT32 (DESIGN
CHOICE; assumption 97). -/
def topElems (v : VectorParams) (l : List Byte) : List TopE :=
  let fi := v.inFormat.toNat
  let value := fun w => if fi = 0 then decodeF fp16 w else if fi = 1 then decodeF bf16 w else fInt (sext 32 w)
  let size := if fi ≤ 1 then 2 else 4
  ((List.range v.rowLength.toNat).map fun i =>
    if v.topKEntries then
      let w := leAt l (8 * i) size
      { value := value w, word := w, pos := leAt l (8 * i + 4) 4 : TopE }
    else
      let w := leAt l (size * i) size
      { value := value w, word := w, pos := (i + v.rowCount.toNat) % 2 ^ 32 }).filter fun e => decide (e.value ≠ .nan)

/-- The ranges that TOPK reads. -/
def topkRead (v : VectorParams) : List Range :=
  [inRange v.src0 (v.rowLength.toNat * if v.topKEntries then 8 else fmtBytes v.inFormat.toNat)]

/-- What TOPK writes. -/
def topkOut (_ : VecCtx) (v : VectorParams) (ls : List (List Byte)) : VecResult :=
  let n := v.count.toNat
  let best := (topElems v (inp ls 0)).foldl (topInsert v.topKMin n) []
  let rest := List.replicate (n - best.length) (leBytes 4 0 ++ leBytes 4 0xFFFFFFFF)
  { outs := [(vaddr v.dst, (best.flatMap fun e => leBytes 4 e.word ++ leBytes 4 e.pos) ++ rest.flatten)] }

/-- TOPK. -/
def execTopk (p : Press) (k : Slot) (s : State) : Out := .next (runVector vopTopk p k topkRead topkOut s)

/-! ## Optimiser steps (R209, R210) -/

/-- Param i of a job. -/
def par (v : VectorParams) (i : Nat) : FVal := h16 (lget 0 v.params i)

/-- a − b. -/
def FVal.sub (a b : FVal) : FVal := a.add b.neg

/-- w' from w, the step that the moments give, lr and λ. -/
def newWeight (v : VectorParams) (w step : FVal) : FVal := w.sub ((par v 0).mul (step.add ((par v 4).mul w)))

/-- The FP16 words of the new weights. -/
def weightBytes (c : VecCtx) (ws : List FVal) : List Byte :=
  ((List.range ws.length).zip ws).flatMap fun e => leBytes 2 (elemWord c 0 e.1 e.2)

/-- The product of two square roots as one root, exact where the product is (R209). -/
def rootProduct (a b : FVal) : FVal :=
  match a, b with
  | .val x _, .val y _ => if x.num < 0 ∨ y.num < 0 then .nan else fsqrt (a.mul b)
  | _, _ => (fsqrt a).mul (fsqrt b)

/-- The ranges that OPT_ADAMW reads. -/
def adamwRead (v : VectorParams) : List Range :=
  let l := v.rowLength.toNat
  [inRange v.src0 (2 * l), inRange v.src1 (arrayBytes 9 l), inRange v.src2 (arrayBytes 9 l), inRange v.dst (arrayBytes 10 l)]

/-- What OPT_ADAMW writes. -/
def adamwOut (c : VecCtx) (v : VectorParams) (ls : List (List Byte)) : VecResult :=
  let l := v.rowLength.toNat
  let w := halves l (inp ls 0)
  let g := (blockRoots false l (inp ls 1)).map (par v 7).mul
  let m := blockRoots false l (inp ls 2)
  let rho := blockRoots true l (inp ls 3)
  let one := fInt 1
  let m' := (List.range l).map fun i => ((par v 1).mul (fAt m i)).add ((one.sub (par v 1)).mul (fAt g i))
  let square := (List.range l).map fun i =>
    ((par v 2).mul ((fAt rho i).mul (fAt rho i))).add ((one.sub (par v 2)).mul ((fAt g i).mul (fAt g i)))
  let w' := (List.range l).map fun i =>
    newWeight v (fAt w i)
      (((par v 5).mul (fAt m' i)).div ((rootProduct (par v 6) (fAt square i)).add (par v 3)))
  { outs := [(vaddr v.src0, weightBytes c w'), (vaddr v.src2, writeBlocks c false l m' ((inp ls 2).drop l)),
      (vaddr v.dst, writeBlocks c true (2 * l) (square.map fsqrt) ((inp ls 3).drop l))], results := l }

/-- OPT_ADAMW. -/
def execOptAdamw (p : Press) (k : Slot) (s : State) : Out := .next (runVector vopAdamw p k adamwRead adamwOut s)

/-- The ranges that OPT_SGDM reads. -/
def sgdmRead (v : VectorParams) : List Range :=
  let l := v.rowLength.toNat
  [inRange v.src0 (2 * l), inRange v.src1 (arrayBytes 9 l), inRange v.src2 (arrayBytes 9 l)]

/-- What OPT_SGDM writes. -/
def sgdmOut (c : VecCtx) (v : VectorParams) (ls : List (List Byte)) : VecResult :=
  let l := v.rowLength.toNat
  let w := halves l (inp ls 0)
  let g := (blockRoots false l (inp ls 1)).map (par v 7).mul
  let m := blockRoots false l (inp ls 2)
  let m' := (List.range l).map fun i => ((par v 1).mul (fAt m i)).add (fAt g i)
  let w' := (List.range l).map fun i => newWeight v (fAt w i) (fAt m' i)
  { outs := [(vaddr v.src0, weightBytes c w'), (vaddr v.src2, writeBlocks c false l m' ((inp ls 2).drop l))]
    results := l }

/-- OPT_SGDM. -/
def execOptSgdm (p : Press) (k : Slot) (s : State) : Out := .next (runVector vopSgdm p k sgdmRead sgdmOut s)

end Sys2Proof.Machine
end

