-- ==== Sys2Proof/Machine/Dispatch.lean ====
section
/-! DEFINITION. Dispatch.lean: the meaning of every command, one arm for each constructor of Instr. -/

namespace Sys2Proof.Machine

def exec (i : Instr) (s : State) : Host.Outcome State Fault Refusal :=
  match i with
  | .startUp t => Sys2Proof.Machine.execStartUp t s
  | .coldReset c => Sys2Proof.Machine.execColdReset c s
  | .thermtrip p => Sys2Proof.Machine.execThermtrip p s
  | .nodeIdWrite pr n => Sys2Proof.Machine.execNodeIdWrite pr n s
  | .imageChunk pr data => Sys2Proof.Machine.execImageChunk pr data s
  | .imageVerify => Sys2Proof.Machine.execImageVerify s
  | .startUpActivation ms => Sys2Proof.Machine.execStartUpActivation ms s
  | .activate pr => Sys2Proof.Machine.execActivate pr s
  | .activationHoldEnd ms => Sys2Proof.Machine.execActivationHoldEnd ms s
  | .discard pr => Sys2Proof.Machine.execDiscard pr s
  | .deviceReset pr => Sys2Proof.Machine.execDeviceReset pr s
  | .deviceResetEnd ms => Sys2Proof.Machine.execDeviceResetEnd ms s
  | .pressReset pr p ms => Sys2Proof.Machine.execPressReset pr p ms s
  | .retire pr p => Sys2Proof.Machine.execRetire pr p s
  | .engageCheckDone p c => Sys2Proof.Machine.execEngageCheckDone p c s
  | .spareEngagementDone p ms => Sys2Proof.Machine.execSpareEngagementDone p ms s
  | .configure pr v => Sys2Proof.Machine.execConfigure pr v s
  | .allocationDone v => Sys2Proof.Machine.execAllocationDone v s
  | .pulp pr v => Sys2Proof.Machine.execPulp pr v s
  | .pulpingEnd v => Sys2Proof.Machine.execPulpingEnd v s
  | .vatReset pr v => Sys2Proof.Machine.execVatReset pr v s
  | .vatResetEnd v ms => Sys2Proof.Machine.execVatResetEnd v ms s
  | .debugRequestTrue pr v => Sys2Proof.Machine.execDebugRequestTrue pr v s
  | .debugRequestFalse pr v => Sys2Proof.Machine.execDebugRequestFalse pr v s
  | .stagingPagesWrite pr v n => Sys2Proof.Machine.execStagingPagesWrite pr v n s
  | .retireAtStart pr off data => Sys2Proof.Machine.execRetireAtStart pr off data s
  | .streamOpen a v => Sys2Proof.Machine.execStreamOpen a v s
  | .streamStart a word hw => Sys2Proof.Machine.execStreamStart a word hw s
  | .keyExchangeDone st => Sys2Proof.Machine.execKeyExchangeDone st s
  | .newKeyInstall st => Sys2Proof.Machine.execNewKeyInstall st s
  | .streamClose w => Sys2Proof.Machine.execStreamClose w s
  | .closingEnd st => Sys2Proof.Machine.execClosingEnd st s
  | .streamReset w => Sys2Proof.Machine.execStreamReset w s
  | .functionLevelReset f => Sys2Proof.Machine.execFunctionLevelReset f s
  | .doorbell a tail hw => Sys2Proof.Machine.execDoorbell a tail hw s
  | .descriptorFetch => Sys2Proof.Machine.execDescriptorFetch s
  | .jobPlacement st => Sys2Proof.Machine.execJobPlacement st s
  | .plate p k => Sys2Proof.Machine.execPlate p k s
  | .stipple p k => Sys2Proof.Machine.execStipple p k s
  | .macroLoad p k => Sys2Proof.Machine.execMacroLoad p k s
  | .drainRead p k since => Sys2Proof.Machine.execDrainRead p k since s
  | .drainClear p k since => Sys2Proof.Machine.execDrainClear p k since s
  | .counterSet p k => Sys2Proof.Machine.execCounterSet p k s
  | .ewAdd p k => Sys2Proof.Machine.execEwAdd p k s
  | .ewMul p k => Sys2Proof.Machine.execEwMul p k s
  | .ewFma p k => Sys2Proof.Machine.execEwFma p k s
  | .convert p k => Sys2Proof.Machine.execConvert p k s
  | .quantise p k => Sys2Proof.Machine.execQuantise p k s
  | .reducePartial p k => Sys2Proof.Machine.execReducePartial p k s
  | .softmax p k => Sys2Proof.Machine.execSoftmax p k s
  | .layernorm p k => Sys2Proof.Machine.execLayernorm p k s
  | .rmsnorm p k => Sys2Proof.Machine.execRmsnorm p k s
  | .attention p k => Sys2Proof.Machine.execAttention p k s
  | .attnMerge p k => Sys2Proof.Machine.execAttnMerge p k s
  | .topk p k => Sys2Proof.Machine.execTopk p k s
  | .optAdamw p k => Sys2Proof.Machine.execOptAdamw p k s
  | .optSgdm p k => Sys2Proof.Machine.execOptSgdm p k s
  | .counterPoll p k => Sys2Proof.Machine.execCounterPoll p k s
  | .claimFetchAdd p k => Sys2Proof.Machine.execClaimFetchAdd p k s
  | .ledgerFullRetry p k => Sys2Proof.Machine.execLedgerFullRetry p k s
  | .remoteOperation op => Sys2Proof.Machine.execRemoteOperation op s
  | .completionPost src => Sys2Proof.Machine.execCompletionPost src s
  | .cqHeadWrite a head => Sys2Proof.Machine.execCqHeadWrite a head s
  | .mailboxHeadRead a e => Sys2Proof.Machine.execMailboxHeadRead a e s
  | .blockPost a c q hw => Sys2Proof.Machine.execBlockPost a c q hw s
  | .skewTimeout p k => Sys2Proof.Machine.execSkewTimeout p k s
  | .jobQuery a n => Sys2Proof.Machine.execJobQuery a n s
  | .numvfsWrite n => Sys2Proof.Machine.execNumvfsWrite n s
  | .functionPowerState f d3hot => Sys2Proof.Machine.execFunctionPowerState f d3hot s
  | .linkTraining w g => Sys2Proof.Machine.execLinkTraining w g s
  | .aerErrorLogged ptr => Sys2Proof.Machine.execAerErrorLogged ptr s
  | .msixUnmask a vec => Sys2Proof.Machine.execMsixUnmask a vec s
  | .dictGo f size hw => Sys2Proof.Machine.execDictGo f size hw s
  | .dictRead src => Sys2Proof.Machine.execDictRead src s
  | .dictWrite src => Sys2Proof.Machine.execDictWrite src s
  | .usdoDownload idx sub data part => Sys2Proof.Machine.execUsdoDownload idx sub data part s
  | .usdoUpload idx u => Sys2Proof.Machine.execUsdoUpload idx u s
  | .usdoTimeout => Sys2Proof.Machine.execUsdoTimeout s
  | .sessionOffer data => Sys2Proof.Machine.execSessionOffer data s
  | .sessionExchangeDone => Sys2Proof.Machine.execSessionExchangeDone s
  | .sessionRequest data => Sys2Proof.Machine.execSessionRequest data s
  | .sessionClose data => Sys2Proof.Machine.execSessionClose data s
  | .sessionIdleTimeout => Sys2Proof.Machine.execSessionIdleTimeout s
  | .nmtStartRemoteNode => Sys2Proof.Machine.execNmtStartRemoteNode s
  | .nmtEnterPreOperational => Sys2Proof.Machine.execNmtEnterPreOperational s
  | .nmtStopRemoteNode => Sys2Proof.Machine.execNmtStopRemoteNode s
  | .nmtResetCommunication => Sys2Proof.Machine.execNmtResetCommunication s
  | .nmtResetNode => Sys2Proof.Machine.execNmtResetNode s
  | .heartbeat => Sys2Proof.Machine.execHeartbeat s
  | .emcySend => Sys2Proof.Machine.execEmcySend s
  | .busOffRecovery => Sys2Proof.Machine.execBusOffRecovery s
  | .eventQuery pr n => Sys2Proof.Machine.execEventQuery pr n s
  | .eventAck pr n => Sys2Proof.Machine.execEventAck pr n s
  | .reportRequest pr n nonce => Sys2Proof.Machine.execReportRequest pr n nonce s
  | .reportBuilt => Sys2Proof.Machine.execReportBuilt s
  | .reamLoad pr v data hw => Sys2Proof.Machine.execReamLoad pr v data hw s
  | .manifestReadDone v readOk => Sys2Proof.Machine.execManifestReadDone v readOk s
  | .quirePost pr v w hw => Sys2Proof.Machine.execQuirePost pr v w hw s
  | .quireReadDone v => Sys2Proof.Machine.execQuireReadDone v s
  | .quireTimeout v => Sys2Proof.Machine.execQuireTimeout v s
  | .reamCancel pr v => Sys2Proof.Machine.execReamCancel pr v s
  | .swapRequest pr v w => Sys2Proof.Machine.execSwapRequest pr v w s
  | .engravingStart => Sys2Proof.Machine.execEngravingStart s
  | .bite p seen => Sys2Proof.Machine.execBite p seen s
  | .engravingCheck p errs => Sys2Proof.Machine.execEngravingCheck p errs s
  | .engravingDone p errs => Sys2Proof.Machine.execEngravingDone p errs s
  | .platePulpDone p => Sys2Proof.Machine.execPlatePulpDone p s
  | .enduranceLedgerWrite pr p data => Sys2Proof.Machine.execEnduranceLedgerWrite pr p data s
  | .refreshStepDue p => Sys2Proof.Machine.execRefreshStepDue p s
  | .trimFence p q => Sys2Proof.Machine.execTrimFence p q s
  | .trimFenceWaitExpiry p q => Sys2Proof.Machine.execTrimFenceWaitExpiry p q s
  | .proofPass p q errs => Sys2Proof.Machine.execProofPass p q errs s
  | .bankFrame p b => Sys2Proof.Machine.execBankFrame p b s
  | .repeatDecision p b => Sys2Proof.Machine.execRepeatDecision p b s
  | .drainRegisterRead p k => Sys2Proof.Machine.execDrainRegisterRead p k s
  | .dwellEnd p b => Sys2Proof.Machine.execDwellEnd p b s
  | .spareSelfCheck p b errs => Sys2Proof.Machine.execSpareSelfCheck p b errs s
  | .fallbackCheckDone p errs => Sys2Proof.Machine.execFallbackCheckDone p errs s
  | .bankPowerDown p b => Sys2Proof.Machine.execBankPowerDown p b s
  | .satWindowEnd p b => Sys2Proof.Machine.execSatWindowEnd p b s
  | .rowGroupLoadDone p m g => Sys2Proof.Machine.execRowGroupLoadDone p m g s
  | .scrubRow p m es => Sys2Proof.Machine.execScrubRow p m es s
  | .stippleReloadDone p m ok => Sys2Proof.Machine.execStippleReloadDone p m ok s
  | .memoryAccess v a op e job => Sys2Proof.Machine.execMemoryAccess v a op e job s
  | .patrolRead f word e => Sys2Proof.Machine.execPatrolRead f word e s
  | .pageCopyDone c => Sys2Proof.Machine.execPageCopyDone c s
  | .pagePulpWriteDone stack => Sys2Proof.Machine.execPagePulpWriteDone stack s
  | .surveyScan c => Sys2Proof.Machine.execSurveyScan c s
  | .conversionDone c code => Sys2Proof.Machine.execConversionDone c code s
  | .surveyReader c us => Sys2Proof.Machine.execSurveyReader c us s
  | .injectedStart pr c mask => Sys2Proof.Machine.execInjectedStart pr c mask s
  | .calibrateRequest pr c => Sys2Proof.Machine.execCalibrateRequest pr c s
  | .calIntervalExpiry c => Sys2Proof.Machine.execCalIntervalExpiry c s
  | .calibrationDone c => Sys2Proof.Machine.execCalibrationDone c s
  | .regularStart pr c on => Sys2Proof.Machine.execRegularStart pr c on s
  | .governorWindow m => Sys2Proof.Machine.execGovernorWindow m s
  | .budgetPlan pr data => Sys2Proof.Machine.execBudgetPlan pr data s
  | .activityRefresh => Sys2Proof.Machine.execActivityRefresh s
  | .streamResetDone st => Sys2Proof.Machine.execStreamResetDone st s
  | .canBusError tec rec => Sys2Proof.Machine.execCanBusError tec rec s
  | .linkDown => Sys2Proof.Machine.execLinkDown s
  | .clockLockLoss c => Sys2Proof.Machine.execClockLockLoss c s
  | .boundaryScanInstructionLoad n => Sys2Proof.Machine.execBoundaryScanInstructionLoad n s

end Sys2Proof.Machine
end

