-- ==== Sys2Proof/Safety.lean ====
section
/-! DEFINITION. Safety.lean: the invariants that every state of a run has, in the terms that statements use. -/

namespace Sys2Proof.Safety

open Sys2Proof.Machine

/-- The event log holds at most 1,024 records and the EMCY queue at most 64 (R398). -/
def eventsBounded (s : State) : Bool := decide (s.events.log.length ≤ 1024) && decide (s.events.emcy.length ≤ 64)

/-- Host memory is in canonical form. -/
def hostMemWf (s : State) : Bool := twf (0 : Byte) s.hostMem

/-- Package memory is in canonical form. -/
def packageWf (s : State) : Bool := twf (0 : Byte) s.hubs.mem

/-- Between s and t exactly one event was raised (R398): it has the next number and stands first in the log. -/
def Logged (s t : State) (code : BitVec 16) (press unit vat : Option Nat) (detail : List Byte) : Prop :=
  t.events.newest = s.events.newest + 1 ∧
    ∃ e : Event, t.events.log = (e :: s.events.log).take 1024 ∧ e.code = code ∧ e.sequence = t.events.newest ∧
      e.press = optByte press ∧ e.unit = optByte unit ∧ e.vat = optByte vat ∧ e.detail = lpad 0 12 detail

/-- The job that the plain descriptor at a stream's SqHead spells (R216, R263). -/
def fetchedJob (s : State) (st : StreamId) (l : List Byte) : Job :=
  { desc := usedFields (decodeDescriptor l), stream := st, sqIndex := (s.stream st).sqHead, counter := ringCounter s st }

/-- A completion record of stream st has been posted between s and t (R265, R269): at the address of CqTail stand its Counter,
its CompletionHeader with Dropped, and HostTag and CompletionDetail sealed under the next outbound counter; CqTail and that
counter have advanced, the record is unconsumed, and no other byte of host memory has changed. -/
def RecordPosted (s t : State) (st : StreamId) (status : BitVec 8) (epoch sqIndex : BitVec 16) (dropped : Nat)
    (hostTag detail : BitVec 64) (violation : Bool) : Prop :=
  ∃ (key : BitVec 128) (place header : Nat) (aad ct : List Byte) (tag : BitVec 128), (s.stream st).key = some key ∧
    place = (s.stream st).cfg.cqBase.toNat + 64 * ((s.stream st).cqTail.toNat % cfgCqEntries (s.stream st).cfg) ∧
    header = bitOf (s.stream st).phase * 2 ^ 63 + status.toNat * 2 ^ 48 + epoch.toNat * 2 ^ 32 + sqIndex.toNat * 2 ^ 16 + st.val ∧
    aad = leBytes 8 header ++ leBytes 4 dropped ++ List.replicate 12 0 ∧
    gcmSeal key (sealNonce true st (s.stream st).outbound) aad (leBytes 8 hostTag.toNat ++ leBytes 8 detail.toNat) = (ct, tag) ∧
    t.hostRead place 64 = leBytes 8 (s.stream st).outbound.toNat ++ aad ++ ct ++ tagBytes tag ∧
    (∀ a, a < place ∨ place + 64 ≤ a → tget 0 t.hostMem a = tget 0 s.hostMem a) ∧
    (t.stream st).outbound = (s.stream st).outbound + 1 ∧ (t.stream st).cqTail = (s.stream st).cqTail + 1 ∧
    (t.stream st).records = (s.stream st).records ++ [violation] ∧
    ((t.stream st).phase = ((s.stream st).phase ^^
      decide (((s.stream st).cqTail + 1).toNat % cfgCqEntries (s.stream st).cfg = 0)))

/-- Between s and t the host bridge has dropped c descriptors of stream st from ring index h on (R264): SqHead is past them,
Dropped counts them, and nothing is in hand; one CREDIT_VIOLATION record posts, unless none was dropped or one of them is
unconsumed. -/
def Condemned (s t : State) (st : StreamId) (h : BitVec 16) (c : Nat) : Prop :=
  (t.stream st).sqHead = h + BitVec.ofNat 16 c ∧ (t.stream st).dropped = (s.stream st).dropped + BitVec.ofNat 32 c ∧
    t.bridge.droppedTotal = satAdd s.bridge.droppedTotal c ∧ (t.stream st).grant = 0 ∧ (t.stream st).condemned = 0 ∧
    (c = 0 ∨ (s.stream st).records.contains true = true →
      t.hostMem = s.hostMem ∧ (t.stream st).records = (s.stream st).records ∧ (t.stream st).outbound = (s.stream st).outbound) ∧
    (0 < c → (s.stream st).records.contains true = false → (s.stream st).key.isSome = true →
      RecordPosted s t st stCredit 0 h c 0 (stCredit.setWidth 64) true)

/-- Everything that no job and no operation of a job touches is as before: fuses, device control, settings, the management
port, reports, survey converters, the engraving queue and the queue of commands. -/
def ControlSame (s t : State) : Prop :=
  t.otp = s.otp ∧ t.dev = s.dev ∧ t.settings = s.settings ∧ t.mgmt = s.mgmt ∧ t.reports = s.reports ∧
    t.reportQueue = s.reportQueue ∧ t.surveys = s.surveys ∧ t.engQueue = s.engQueue ∧ t.pending = s.pending

/-- No job of a press writes anything when it is stopped: none has failed, and none has output in host memory. -/
def StopsQuietly (s : State) (p : Nat) : Prop :=
  ∀ k j, (s.press p).slot k = some j → j.internal = false ∧ j.sealFail = false ∧ hostRanges s p j = []

/-- The ranges that undefineFrom gives free bytes when a job of press p ends with nothing committed: its outputs, a claimed
job's chunk in hand (R15). -/
def undefinedOutputs (s : State) (p : Nat) (j : Job) : List (Addr × Nat) :=
  if j.desc.opcode = opPlate ∨ j.desc.opcode = opStipple then
    if j.desc.feltMode = 2 ∨ (j.desc.claimed = true ∧ j.chunk = none) then []
    else [(outAddr j 0, j.m * outStride j.desc.outputFormat.toNat j.n)]
  else ((jobRanges s p j).filter Range.written).map fun x => (x.addr, x.len)

/-- Block q of a channel as the job that reads it finds it (R276). -/
def blockFound (s : State) (j : Job) (c : Channel) (q : Nat) : BlockRead :=
  if tget false j.arrived (channelKey c q) then .arrived
  else if tget false j.stale (channelKey c q) then .other
  else channelBlock s j c q

/-- A job for which no outcome has been noted and that holds no chunk. -/
def CleanJob (j : Job) : Prop :=
  j.internal = false ∧ j.vatResetting = false ∧ j.vatPulping = false ∧ j.sealFail = false ∧ j.scaleSkew = false ∧
    j.rescaled = false ∧ j.saturated = false ∧ j.checkStatus = none ∧ j.chunk = none

/-- The job in slot k of press p is a vector job with a VectorOp that runs, its press may issue work, and no vector job that
was placed before it has yet to end. -/
def VectorRuns (s : State) (p k op : Nat) (j : Job) (v : VectorParams) : Prop :=
  (s.press p).slot k = some j ∧ j.desc.opcode = opVector ∧ j.vp = some v ∧ v.op.toNat = op ∧ j.state = .running ∧
    pressIssues s p = true ∧ ((earlier (s.press p) j).any fun e => decide (e.2.desc.opcode = opVector)) = false

/-- The job of slot k has ended with a status and waits to be posted; the other slots of the press are as before. -/
def JobEnded (s t : State) (p k : Nat) (j : Job) (status : BitVec 8) : Prop :=
  (∃ j', (t.press p).slot k = some j' ∧ j'.state = .posting ∧ j'.desc = j.desc ∧ j'.sqIndex = j.sqIndex ∧
    jobStatus j' = status) ∧ ∀ i, i ≠ k → (t.press p).slot i = (s.press p).slot i

/-- A press keeps its state, felt, temperature and engraving, the contents of its plates, the accumulators and registers
of its banks, and the weights, accumulators and scales of its macros. -/
def PressKept (r r' : PressRec) : Prop :=
  r'.state = r.state ∧ r'.felt = r.felt ∧ r'.thermal = r.thermal ∧ r'.engraving = r.engraving ∧ r'.placed = r.placed ∧
    (∀ q, (r'.plate q).state = (r.plate q).state ∧ (r'.plate q).codes = (r.plate q).codes ∧
      (r'.plate q).epoch = (r.plate q).epoch) ∧
    (∀ b, (r'.bank b).outputAcc = (r.bank b).outputAcc ∧ (r'.bank b).regs = (r.bank b).regs ∧
      (r'.bank b).sliceTrim = (r.bank b).sliceTrim) ∧
    ∀ m, (r'.macro' m).weights = (r.macro' m).weights ∧ (r'.macro' m).acc = (r.macro' m).acc ∧
      (r'.macro' m).valid = (r.macro' m).valid ∧ (r'.macro' m).scale = (r.macro' m).scale

/-- Bytes stand at offset o of the scratch of press q, and every other byte of it is as before. -/
def ScratchWritten (s t : State) (q o : Nat) (bytes : List Byte) : Prop :=
  tgetN 0 (t.press q).scratch o bytes.length = bytes ∧
    ∀ a, a < o ∨ o + bytes.length ≤ a → tget 0 (t.press q).scratch a = tget 0 (s.press q).scratch a

/-- The lane work of a vector job asks its press's class for energy: u is the state after it, w with what is paid noted in
the job (R38, R417). -/
def VectorPays (s u w : State) (p k op : Nat) (j : Job) (v : VectorParams) (whole : Bool) : Prop :=
  ∃ paid, payTowards p 1 19 (laneOps v * price s p (.lane op)) j.funded s = (paid, whole, u) ∧
    w = u.updJob p k fun x => { x with funded := paid }

/-- The command of a VectorOp: for every running vector job with it whose energy is admitted, the ranges that it reads are
read, and it ends with its results written; a read that fails ends the job, and nothing that no job touches changes. While
its energy is not wholly admitted, or a page that it reads is under copy, it waits, and what has been admitted stays so. -/
def RunsAs (c : Press → Slot → Instr) (op : Nat) (read : VectorParams → List Range)
    (out : VecCtx → VectorParams → List (List Byte) → VecResult) : Prop :=
  ∀ (p : Press) (k : Slot) (s u w : State) (j : Job) (v : VectorParams), VectorRuns s p k op j v →
    (VectorPays s u w p k op j v false → exec (c p k) s = .next w) ∧
    (∀ ls, VectorPays s u w p k op j v true → readRanges w p j (read v) = .ok ls → ∃ t : State,
      exec (c p k) s = .next t ∧ t = endVector p k j v (read v) (out (vecCtx w p j v) v ls) w ∧ t.gov = u.gov ∧
      (∃ j', (t.press p).slot k = some j' ∧ j'.state = .posting ∧ j'.desc = j.desc) ∧
      (∀ i, i ≠ k.val → (t.press p).slot i = (s.press p).slot i) ∧ ControlSame s t) ∧
    (VectorPays s u w p k op j v true → readRanges w p j (read v) = .error .held →
      exec (c p k) s = .next (w.updJob p k fun x => { x with funded := laneOps v * price w p (.lane op) })) ∧
    ∀ e, e ≠ .held → VectorPays s u w p k op j v true → readRanges w p j (read v) = .error e → CleanJob j → ∃ t : State,
      exec (c p k) s = .next t ∧ t.gov = u.gov ∧
      JobEnded s t p k j (if e = .seal then stSealFail else stInternal) ∧ ControlSame s t

/-- Products accumulated by FP16 fused multiply-add in an order: every sum but the last is rounded (R205, R206). -/
def fmaIn (a b : Nat → FVal) (acc : FVal) : List Nat → FVal
  | [] => acc
  | [i] => ((a i).mul (b i)).add acc
  | i :: l => fmaIn a b (rne16 (((a i).mul (b i)).add acc)) l

/-- Steps 2 and 3 of R202 for a row of z: its maximum m, p̂ of each element and their sum d. -/
def SoftmaxRow (z : List FVal) (m : FVal) (p : Nat → Nat) (d : Nat) : Prop :=
  m = z.foldl FVal.max (.inf true) ∧ d = ((List.range z.length).map p).foldl (· + ·) 0 ∧
    (∀ i a b za zb, i < z.length → fAt z i = .val a za → m = .val b zb → ∃ q zq,
      decodeF fp16 (expWord (((a.add b.neg).mul (pow2 24)).floor)) = .val q zq ∧ (p i : Int) = (q.mul ⟨65536, 1⟩).rne) ∧
    ∀ i, i < z.length → (∀ a za, fAt z i ≠ .val a za) → p i = 0

/-- The statistics of R203 of a row with m above 0: μ and q. -/
def RowStats (x : List FVal) (mu q : Frac) : Prop :=
  ∃ (e : Int) (hat : List Int), (maxFrac (x.map magOf)).le (pow2 e) = true ∧ (maxFrac (x.map magOf)).le (pow2 (e - 1)) = false ∧
    hat = x.map (fun y => match finOf y with
      | none => 0
      | some f => clampI (-32767) 32767 (f.mul (pow2 (15 - e))).rne) ∧
    mu = ((Frac.ofInt (lsum hat)).mul (pow2 (e - 15))).mul ⟨1, x.length⟩ ∧
    q = ((Frac.ofInt (lsum (hat.map fun h => rneDiv (h * h) 32768))).mul (pow2 (2 * e - 15))).mul ⟨1, x.length⟩

/-- Row r of the source of a row operation (R202, R203). -/
def sourceRow (c : VecCtx) (v : VectorParams) (ls : List (List Byte)) (r : Nat) : List FVal :=
  (List.range v.rowLength.toNat).map fun i =>
    fAt (elemsOf c v.inFormat.toNat v.decodeBook.toNat (vecElems v) (inp ls 0)) (v.rowLength.toNat * r + i)

/-- The vector commands of a slot with their VectorOps (R196). -/
def vectorCommands (p : Press) (k : Slot) : List (Nat × Instr) :=
  [(vopAdd, .ewAdd p k), (vopMul, .ewMul p k), (vopFma, .ewFma p k), (vopConvert, .convert p k),
    (vopQuantise, .quantise p k), (vopReduce, .reducePartial p k), (vopSoftmax, .softmax p k),
    (vopLayernorm, .layernorm p k), (vopRmsnorm, .rmsnorm p k), (vopAttention, .attention p k),
    (vopMerge, .attnMerge p k), (vopTopk, .topk p k), (vopAdamw, .optAdamw p k), (vopSgdm, .optSgdm p k)]

/-- The bits of the stored elements of a PLATE job (R113, R120). -/
def plateElementBits (s : State) (p : Nat) (j : Job) : Nat :=
  if j.desc.scaleSource = 0 then 16
  else if driveInt4 s ((s.press p).bank (entryBank (s.press p) j.desc)) then 4 else 8

/-- Token t of a running PLATE job may enter entry unit i of its set, which is u: it is the next that the unit takes, its
chunk is held, its block is complete, its order allows it, neither SCALE_SKEW nor SEAL_FAIL keeps it from starting, and the
unit takes a pass. -/
def PlateFeeds (s : State) (p : Nat) (j : Job) (i : Nat) (u : Machine.PUnit) (t : Nat) : Prop :=
  (i, u) ∈ entryUnits (jobUnits (s.press p) j.desc) j.desc.sliced ∧ t = j.taken i ∧ t < j.m ∧
    (t < j.begun ∨ (j.scaleSkew = false ∧ j.sealFail = false)) ∧ (j.desc.claimed = true → j.chunk ≠ none) ∧
    (j.desc.oz4030 = true → t = j.doneTokens) ∧ (j.desc.scaleSource = 2 → t = j.next ∧ tileReady s p j = true) ∧
    unitOpen s p j u = true

/-- The next tokens of a running STIPPLE job may be issued, its macros apart: none is on its lanes. -/
def StippleIssues (s : State) (p : Nat) (j : Job) : Prop :=
  j.batch = [] ∧ j.next < j.m ∧ j.scaleSkew = false ∧ j.sealFail = false ∧ (j.desc.claimed = true → j.chunk ≠ none) ∧
    (j.desc.scaleSource = 2 → tileReady s p j = true)

/-- No vat has a swap that is active or still loads row groups. -/
def NoSwap (s : State) : Prop := ∀ v : Vat, (s.vat v).swap.active = false ∧ (s.vat v).swap.stippleTodo = []

/-- The frames of a list read zeros, every other byte of package memory reads as before, and nothing else of the hubs has
changed. -/
def FramesZeroed (s t : State) (l : List Nat) : Prop :=
  (∀ f ∈ l, t.frameRead f 0 2048 = List.replicate 2048 0) ∧
    (∀ f i, f ∉ l → i < 2048 → t.frameRead f i 1 = s.frameRead f i 1 ∧ t.poisoned f i = s.poisoned f i) ∧
    t.hubs = { s.hubs with mem := t.hubs.mem, poison := t.hubs.poison }

/-- The frames that the sections of a vat's pending ream stand in (R310, R311). -/
def pendingFrames (s : State) (v : Vat) : List Nat := stagingFrames s v (((s.vat v).pendingReam.map Ream.held).getD [])

/-- The load of a vat has failed with a Result, a cause and a quire: its key and its sections are gone, the pages that they
took read zeros, REAM_FAILED is raised, and nothing else has changed. -/
def LoadFailed (s t : State) (v : Vat) (result cause : BitVec 8) (quire : Nat) : Prop :=
  (t.vat v).load = { (s.vat v).load with
    state := .failed, manifest := none, contentKey := none, reading := [], result := result, failCause := cause
    failedQuire := BitVec.ofNat 16 quire } ∧
    t.vat v = { s.vat v with pendingReam := none, load := (t.vat v).load } ∧ (∀ w : Vat, w ≠ v → t.vat w = s.vat w) ∧
    Logged s t evReamFailed none none (some v) (leBytes 1 result.toNat ++ leBytes 1 cause.toNat ++ leBytes 2 quire) ∧
    FramesZeroed s t (pendingFrames s v) ∧ t = { s with vats := t.vats, events := t.events, hubs := t.hubs }

end Sys2Proof.Safety
end

