-- ==== Sys2Proof/Certificates/Slice0/Obligations.lean ====
section
/-! DEFINITION. Obligations.lean: the statements for the provers. Each says in its docstring what it states; what it
rests on stands in OBLIGATIONS.json. -/

open Sys2Proof Sys2Proof.Machine Sys2Proof.Safety

/-- A step runs the front command. If the queue is c followed by rest, step s is exec c of s with the queue rest; with no
command waiting a step answers the state as it is (the queue is the model's own, DESIGN CHOICE, assumption 1). -/
def Obligations.StepRunsFront : Prop :=
  (∀ (c : Instr) (rest : List Instr) (s : State),
    s.pending = c :: rest → step s = exec c { s with pending := rest }) ∧
  ∀ s : State, s.pending = [] → step s = .next s

/-- The state after a cold reset. After a cold reset every vat is OFF, every stream and every job slot FREE, every press
TESTING, every plate BLANK with the epoch 0x0000, physical plate 16 the refresh target and logical plate 0 on physical
plate 0, every bank WORKING, every page FREE, every counter 0 with an empty ledger, no event logged, DeviceState
STARTING and no image held. That rotation is RUNNING and that the queue is empty is the model's choice (assumptions 1,
25, 26). -/
def Obligations.ResetValues : Prop :=
  (∀ v, (State.reset.vat v).state = .off ∧ (State.reset.vat v).currentEpoch = 0) ∧
  (∀ i, (State.reset.stream i).state = .free ∧ (State.reset.stream i).key = none) ∧
  (∀ p, (State.reset.press p).state = .testing ∧ (State.reset.press p).refreshTarget = 16 ∧
    (State.reset.press p).logicalBase = 0 ∧ (State.reset.press p).rotation = .running ∧
    (∀ k, (State.reset.press p).slot k = none) ∧
    (∀ q, ((State.reset.press p).plate q).state = .blank ∧ ((State.reset.press p).plate q).epoch = 0) ∧
    ∀ b, ((State.reset.press p).bank b).state = .working) ∧
  (∀ f, (State.reset.pageEntry f).state = .free) ∧
  (∀ c, (State.reset.counter c).value = 0 ∧ (State.reset.counter c).limit = 0 ∧ (State.reset.counter c).ledger = []) ∧
  State.reset.events.newest = 0 ∧ State.reset.events.log = [] ∧ State.reset.events.emcy = [] ∧
  State.reset.dev.state = .starting ∧ State.reset.dev.image = .none ∧ State.reset.pending = []

/-- The invariants hold at reset. At reset the event store is within its bounds, and host memory and package memory are in
canonical form. -/
def Obligations.InvariantsAtReset : Prop :=
  eventsBounded State.reset = true ∧ hostMemWf State.reset = true ∧ packageWf State.reset = true

/-- Every command answers a next state and keeps the fuses and the queue. From every state every command answers a next
state (no command of the model faults or is refused, assumption 2), and neither the one-time-programmable array nor
the queue of waiting commands changes. -/
def Obligations.EveryCommandCompletes : Prop :=
  ∀ (c : Instr) (s : State), ∃ t : State, exec c s = .next t ∧ t.otp = s.otp ∧ t.pending = s.pending

/-- The event log and the EMCY queue never exceed their sizes. A step from a state whose log holds at most 1,024 records
and whose EMCY queue at most 64 answers such a state. -/
def Obligations.EventStoreBounded : Prop :=
  ∀ s t : State, eventsBounded s = true → step s = .next t → eventsBounded t = true

/-- Host memory and package memory keep their canonical form. A step from a state whose host memory and package memory are
in canonical form answers such a state: equal memories stay equal data. -/
def Obligations.MemoryStaysCanonical : Prop :=
  ∀ s t : State, hostMemWf s = true → packageWf s = true → step s = .next t →
    hostMemWf t = true ∧ packageWf t = true

/-- THERMTRIP_N stays low until cold reset. Once THERMTRIP_N is low, every command but COLD_RESET leaves it low; THERMTRIP
drives it low and changes nothing else; while it is low, no press issues passes or bites. -/
def Obligations.ThermtripLatched : Prop :=
  (∀ (c : Instr) (s t : State), (∀ x, c ≠ .coldReset x) → s.dev.thermtripLow = true → exec c s = .next t →
    t.dev.thermtripLow = true) ∧
  (∀ (p : Press) (s : State), ∃ t : State, exec (.thermtrip p) s = .next t ∧ t.dev.thermtripLow = true ∧
    t = { s with dev := { s.dev with thermtripLow := true } }) ∧
  (∀ (s : State) (p : Nat), s.dev.thermtripLow = true → pressIssues s p = false ∧ pressBites s p = false) ∧
  ∀ (x : ColdCause) (s t : State), exec (.coldReset x) s = .next t → t.dev.thermtripLow = false

/-- A cold reset keeps nothing. A cold reset answers the reset state with the fuses, and with what is outside the device
or the model's own: host memory, the queue, the count of free values, and after PERST# low the boundary-scan
instruction. That it keeps the instruction then, and that it is BYPASS otherwise, is the model's choice (assumptions
61, 10). -/
def Obligations.ColdReset : Prop :=
  ∀ (x : ColdCause) (s : State), ∃ t : State, exec (.coldReset x) s = .next t ∧
    t = { State.reset with
      otp := s.otp, pending := s.pending, free := s.free, hostMem := s.hostMem
      dev := { State.reset.dev with scan := t.dev.scan } } ∧
    (x = .perstLow → t.dev.scan = s.dev.scan) ∧ (x ≠ .perstLow → t.dev.scan = .bypass)

/-- Start-up reads the fuses, tests, trains the link and waits for an image. From a device that has not started since its
cold reset, START_UP begins start-up once: settings take the defaults of the grade, keys are derived when all roots
are fused, the node joins the bus with its fused node-ID or, HOST_ASSIGNED, in restricted operation mode without a
frame, the link trains, the survey converters run, a press that fails its SRAM test or whose slice banks need more
than one fallback converter is RETIRED with cause 6, a diode that stands at the trip level drives THERMTRIP_N low,
DeviceState becomes AWAITING_IMAGE, or FAILED when a hub, the bridge or the SM hub fails; streams, counters, host
memory and fuses stay. Once started, START_UP changes nothing. -/
def Obligations.StartUp : Prop :=
  (∀ (x : SelfTest) (s : State), s.dev.started = true → exec (.startUp x) s = .next s) ∧
  ∀ (x : SelfTest) (s : State), s.dev.started = false → s.presses = [] → ∃ t : State, exec (.startUp x) s = .next t ∧
    t.dev.started = true ∧ t.dev.perstHigh = true ∧ t.dev.parityGood = x.parityGood ∧
    t.dev.state = (if x.hubFail || x.bridgeFail || x.smFail then .failed else .awaitingImage) ∧
    t.settings = defaultSettings s.otp.grade ∧ t.dev.thermtripLow = (s.dev.thermtripLow || !x.tripped.isEmpty) ∧
    t.dev.identityKey = (if rootsFused s.otp then some (derivedKey s.otp.identitySeed "OZ7120-IDENTITY") else none) ∧
    t.dev.attestKey = (if rootsFused s.otp then some (derivedKey s.otp.identitySeed "OZ7120-ATTEST") else none) ∧
    t.mgmt.nodeId = s.otp.nodeId ∧ t.mgmt.restricted = s.otp.hostAssigned ∧
    (s.otp.hostAssigned = true → t.mgmt.nmt = s.mgmt.nmt ∧ t.mgmt.framesSent = s.mgmt.framesSent) ∧
    (s.otp.hostAssigned = false → t.mgmt.nmt = .preOperational ∧
      (s.mgmt.busOff = false → t.mgmt.lastFrame = some ⟨0x700 + s.otp.nodeId.toNat, [0x00], true, false⟩)) ∧
    (∀ w g, x.link = some (w, g) → t.bridge.link = some (w, g) ∧ t.bridge.trainedOnce = true) ∧
    (x.link = none → t.bridge = s.bridge) ∧
    (∀ c : Conv, (t.survey c).regular = true) ∧
    (∀ p : Press, p ∈ x.sramFail ∨ p ∈ x.bankFail → (t.press p).state = .retired ∧ (t.press p).retireCause = 6) ∧
    t.otp = s.otp ∧ t.streams = s.streams ∧ t.counters = s.counters ∧ t.hostMem = s.hostMem

/-- The host physical function writes the node-ID once. On a HOST_ASSIGNED device in restricted operation mode, the first
write of a node-ID from 1 to 127 by the host physical function takes effect: the node leaves restricted operation
mode, sends its boot-up message and enters PRE-OPERATIONAL, and nothing outside the management port changes. Other
values are refused with RANGE, and a write at any other time with STATE; a refused write changes nothing. -/
def Obligations.HostAssignsNodeId : Prop :=
  (∀ (n : BitVec 8) (s : State), s.dev.started = true → s.otp.hostAssigned = true → s.mgmt.nodeIdWritten = false →
    s.mgmt.restricted = true → 1 ≤ n.toNat → n.toNat ≤ 127 →
    ∃ t : State, exec (.nodeIdWrite .H n) s = .next (t.answer resOk) ∧ t.mgmt.nodeId = n ∧ t.mgmt.nodeIdWritten = true ∧
      t.mgmt.restricted = false ∧ t.mgmt.nmt = .preOperational ∧
      (s.mgmt.busOff = false → t.mgmt.lastFrame = some ⟨0x700 + n.toNat, [0x00], true, false⟩ ∧
        t.mgmt.framesSent = s.mgmt.framesSent + 1) ∧ t = { s with mgmt := t.mgmt }) ∧
  (∀ (n : BitVec 8) (s : State), s.dev.started = true → s.otp.hostAssigned = true → s.mgmt.nodeIdWritten = false →
    s.mgmt.restricted = true → n.toNat = 0 ∨ 128 ≤ n.toNat → exec (.nodeIdWrite .H n) s = .next (s.answer resRange)) ∧
  ∀ (n : BitVec 8) (s : State), s.dev.started = true →
    s.otp.hostAssigned = false ∨ s.mgmt.nodeIdWritten = true ∨ s.mgmt.restricted = false →
    exec (.nodeIdWrite .H n) s = .next (s.answer resState)

/-- Image chunks arrive contiguously. A chunk of M or H with Offset 0, or at BytesReceived of the image that is RECEIVING
and with its ImageLength, is taken: BytesReceived advances, and the image is VERIFYING once all bytes are there, else
RECEIVING. A chunk at any other Offset or with another ImageLength is refused with RANGE and changes nothing, and so
is one that runs past its ImageLength, also at Offset 0 (the model's choice, assumption 60); one of fewer than 16 or
more than 1,024 bytes is refused with LENGTH; while an image is VERIFYING, PENDING or ACTIVATING, or DeviceState is
FAILED, chunks are refused with STATE (VERIFYING and FAILED: the model's reading, assumption 60). -/
def Obligations.ImageChunks : Prop :=
  ∀ (pr : Principal) (data : List Byte) (s : State), s.dev.started = true → pr = .M ∨ pr = .H →
    (data.length < 16 ∨ 1024 < data.length → exec (.imageChunk pr data) s = .next (s.answer resLength)) ∧
    (16 ≤ data.length → data.length ≤ 1024 →
    (s.dev.image = .pending ∨ s.dev.image = .activating ∨ s.dev.image = .verifying ∨ s.dev.state = .failed →
      exec (.imageChunk pr data) s = .next (s.answer resState)) ∧
    (s.dev.state ≠ .failed → s.dev.image = .none ∨ s.dev.image = .receiving ∨ s.dev.image = .rejected →
      (leAt data 4 4 < leAt data 0 4 + (data.length - 8) ∨
        (leAt data 0 4 ≠ 0 ∧ (s.dev.image ≠ .receiving ∨ leAt data 0 4 ≠ s.dev.bytesReceived.toNat ∨
          leAt data 4 4 ≠ s.dev.imageLength.toNat)) →
        exec (.imageChunk pr data) s = .next (s.answer resRange)) ∧
      (leAt data 0 4 + (data.length - 8) ≤ leAt data 4 4 →
        leAt data 0 4 = 0 ∨ (s.dev.image = .receiving ∧ leAt data 0 4 = s.dev.bytesReceived.toNat ∧
          leAt data 4 4 = s.dev.imageLength.toNat) →
        ∃ t : State, exec (.imageChunk pr data) s = .next (t.answer resOk) ∧
          t.dev.bytesReceived = BitVec.ofNat 32 t.dev.imageBytes.length ∧
          t.dev.imageBytes = (if leAt data 0 4 = 0 then [] else s.dev.imageBytes) ++ data.drop 8 ∧
          t.dev.imageLength.toNat = leAt data 4 4 ∧
          t.dev.image = (if t.dev.imageBytes.length = leAt data 4 4 then .verifying else .receiving) ∧
          t = { s with dev := t.dev } ∧ t.dev.state = s.dev.state ∧ t.dev.activeImage = s.dev.activeImage)))

/-- A received image is staged or rejected. IMAGE_VERIFY of a received image without a RejectCause makes it PENDING and
raises PERSONALITY_STAGED with its BuildNumber; one with a cause is dropped, ImageStatus is REJECTED with the cause,
and PERSONALITY_REJECTED is raised. DISCARD drops a PENDING image, and is refused with STATE otherwise. -/
def Obligations.ImageVerdict : Prop :=
  (∀ s : State, s.dev.image = .verifying → imageCause s s.dev.imageBytes = 0 → ∃ t : State, exec .imageVerify s = .next t ∧
    t.dev = { s.dev with image := .pending } ∧
    Logged s t evImageStaged none none none (buildNumber s.dev.imageBytes) ∧
    t = { s with dev := t.dev, events := t.events }) ∧
  (∀ s : State, s.dev.image = .verifying → imageCause s s.dev.imageBytes ≠ 0 → ∃ t : State, exec .imageVerify s = .next t ∧
    t.dev.image = .rejected ∧ t.dev.rejectCause = BitVec.ofNat 8 (imageCause s s.dev.imageBytes) ∧
    t.dev.imageBytes = [] ∧ t.dev.activeImage = s.dev.activeImage ∧
    Logged s t evImageRejected none none none (leBytes 1 (imageCause s s.dev.imageBytes)) ∧
    t = { s with dev := t.dev, events := t.events }) ∧
  (∀ (pr : Principal) (s : State), s.dev.started = true → pr = .M ∨ pr = .H → s.dev.image = .pending →
    ∃ t : State, exec (.discard pr) s = .next (t.answer resOk) ∧ t.dev.image = .none ∧ t.dev.imageBytes = [] ∧
      t.dev.state = s.dev.state ∧ t.dev.activeImage = s.dev.activeImage ∧ t = { s with dev := t.dev }) ∧
  ∀ (pr : Principal) (s : State), s.dev.started = true → pr = .M ∨ pr = .H → s.dev.image ≠ .pending →
    exec (.discard pr) s = .next (s.answer resState)

/-- A pending image activates at start-up or in service. At step 6 of start-up a PENDING image of a device whose roots are
fused becomes active: the device is the one that installImage gives, with each press that passed self-test SPARE or
ACTIVE as chooseSpares says, the image's energy table in force, DeviceState SERVICE, ServiceReady 1, and
PERSONALITY_ACTIVATED and then RESET_DONE raised; before, the command changes nothing. In service, ACTIVATE by M or H
is refused with STATE unless DeviceState is SERVICE, an image is PENDING, no vat is PULPING or RESETTING, no swap is
ACTIVE and no press ENGAGING or RETIRING; else it only sets DeviceState and the image to ACTIVATING. The end of the
hold gives the device of installImage in SERVICE, adds the hold to OutageMs and raises PERSONALITY_ACTIVATED; outside
a hold it changes nothing. installImage of an image without records makes it the active image, with none in hand, and
changes nothing else. The hold of 0 ms at start-up, and ImageStatus NONE with BytesReceived 0 after an activation, are
the model's choice (assumption 58). -/
def Obligations.Activation : Prop :=
  (∀ (ms : Nat) (s : State), s.dev.state ≠ .awaitingImage ∨ s.dev.image ≠ .pending ∨ rootsFused s.otp = false →
    exec (.startUpActivation ms) s = .next s) ∧
  (∀ (ms : Nat) (s u : State), s.dev.state = .awaitingImage → s.dev.image = .pending → rootsFused s.otp = true →
    u = installImage s → ∃ t w : State, exec (.startUpActivation ms) s = .next t ∧
      t.dev = { u.dev with state := .service, serviceReady := true, startupTime := BitVec.ofNat 32 ms } ∧
      (∀ p : Press, (u.press p).state = .testing → (t.press p).state =
        if (chooseSpares u).contains p.val then .spare else .active) ∧
      (∀ p : Press, (u.press p).state ≠ .testing → t.press p = u.press p) ∧
      Logged u w evImageActivated none none none (buildNumber s.dev.imageBytes ++ leBytes 4 0) ∧
      Logged w t evResetDone none none none (leBytes 1 0 ++ [0, 0, 0] ++ leBytes 4 ms) ∧
      t = { u with presses := t.presses, dev := t.dev, events := t.events
                   gov := { u.gov with table := some s.dev.imageBytes } }) ∧
  (∀ (pr : Principal) (s : State), s.dev.started = true → pr = .M ∨ pr = .H →
    (s.dev.state = .service → s.dev.image = .pending →
      (∀ v : Vat, (s.vat v).state ≠ .pulping ∧ (s.vat v).state ≠ .resetting ∧ (s.vat v).swap.active = false) →
      (∀ p : Press, (s.press p).state ≠ .engaging ∧ (s.press p).state ≠ .retiring) →
      exec (.activate pr) s = .next (({ s with dev := { s.dev with state := .activating, image := .activating } } :
        State).answer resOk)) ∧
    (s.dev.state ≠ .service ∨ s.dev.image ≠ .pending ∨
      (∃ v : Vat, (s.vat v).state = .pulping ∨ (s.vat v).state = .resetting ∨ (s.vat v).swap.active = true) ∨
      (∃ p : Press, (s.press p).state = .engaging ∨ (s.press p).state = .retiring) →
      exec (.activate pr) s = .next (s.answer resState))) ∧
  (∀ (ms : Nat) (s : State), s.dev.state ≠ .activating → exec (.activationHoldEnd ms) s = .next s) ∧
  (∀ (ms : Nat) (s u : State), s.dev.state = .activating → u = installImage s → ∃ t : State,
    exec (.activationHoldEnd ms) s = .next t ∧
    t.dev = { u.dev with state := .service, outageMs := satAdd u.dev.outageMs ms } ∧
    Logged u t evImageActivated none none none (buildNumber s.dev.imageBytes ++ leBytes 4 ms) ∧
    t = { u with dev := t.dev, events := t.events }) ∧
  ∀ s : State, imageRecords s.dev.imageBytes = [] → installImage s = { s with dev := { s.dev with
    activeImage := some s.dev.imageBytes, image := .none, imageBytes := [], bytesReceived := 0, imageLength := 0 } }

/-- A device reset pulps every vat and ends with defaults. DEVICE_RESET by the management node is refused with STATE
unless DeviceState is SERVICE; else DeviceState is DEVICE_RESET, ServiceReady 0, one more device reset is counted and
every vat that is not OFF is PULPING, while fuses, settings, link, node, sessions, images and press states stay.
DEVICE_RESET_END, once every vat is OFF, every stream FREE and no press ENGAGING or RETIRING, clears the counters,
gives every entry its value under R387 and returns to SERVICE with RESET_DONE; before that it changes nothing. That
OutageMs and ResetCounts are cleared, that this reset then counts in ResetCounts, that CAN error counters and
ConsecutiveOutside stay, and that a vat already PULPING goes on to OFF, is the model's reading (assumption 61). -/
def Obligations.DeviceReset : Prop :=
  (∀ s : State, s.dev.started = true → s.dev.state ≠ .service → exec (.deviceReset .M) s = .next (s.answer resState)) ∧
  (∀ s : State, s.dev.started = true → s.dev.state = .service → ∃ t : State, exec (.deviceReset .M) s = .next (t.answer resOk) ∧
    t.dev.state = .deviceReset ∧ t.dev.serviceReady = false ∧
    t.dev.resetCounts = lset s.dev.resetCounts 0 (satInc (lget 0 s.dev.resetCounts 0)) ∧
    t.dev.image = s.dev.image ∧ t.dev.activeImage = s.dev.activeImage ∧
    (∀ v : Vat, (s.vat v).state = .off → (t.vat v).state = .off) ∧
    (∀ v : Vat, (s.vat v).state ≠ .off → (t.vat v).state = .pulping ∧ (t.vat v).pulpForDebug = false) ∧
    (∀ p : Press, (t.press p).state = (s.press p).state) ∧
    t.settings = s.settings ∧ t.mgmt = s.mgmt ∧ t.bridge.link = s.bridge.link ∧ t.surveys = s.surveys ∧ t.gov = s.gov ∧
    t.reports = s.reports ∧ t.otp = s.otp) ∧
  (∀ (ms : Nat) (s : State), s.dev.state = .deviceReset →
    (∃ v : Vat, (s.vat v).state ≠ .off) ∨ (∃ e ∈ s.streams, e.2.state ≠ .free) ∨
      (∃ p : Press, (s.press p).state = .engaging ∨ (s.press p).state = .retiring) →
    exec (.deviceResetEnd ms) s = .next s) ∧
  ∀ (ms : Nat) (s : State), s.dev.state = .deviceReset → (∀ v : Vat, (s.vat v).state = .off) →
    (∀ e ∈ s.streams, e.2.state = .free) → (∀ p : Press, (s.press p).state ≠ .engaging ∧ (s.press p).state ≠ .retiring) →
    ∃ u t : State, exec (.deviceResetEnd ms) s = .next t ∧ u.settings = defaultSettings s.otp.grade ∧
      (∀ v : Vat, u.vat v = clearAllVat (s.vat v)) ∧ (∀ p : Press, u.press p = clearAllPress (s.press p)) ∧
      u.mgmt = { s.mgmt with authFailures := 0, recoveries := 0 } ∧ u.streams = s.streams ∧ u.counters = s.counters ∧
      u.bridge = { s.bridge with droppedTotal := 0, sealFailuresTotal := 0, linkRetrains := 0 } ∧ u.dev = s.dev ∧ u.gov = s.gov ∧ u.otp = s.otp ∧
      u.hubs = { s.hubs with correctedTotal := 0, uncorrectableTotal := 0, pageQuery := 0 } ∧
      (∀ c : Conv, u.survey c = { s.survey c with regular := false }) ∧
      u.events.newest = s.events.newest ∧ u.events.skipped = 0 ∧
      t.dev = { (applyImage u).dev with
        state := .service, serviceReady := true, outageMs := 0, resetCounts := [1, 0, 0, 0] } ∧
      Logged (applyImage u) t evResetDone none none none (leBytes 1 1 ++ [0, 0, 0] ++ leBytes 4 ms) ∧
      t = { applyImage u with dev := t.dev, events := t.events }

/-- A press reset clears the digital state of one press. RESET of an ACTIVE press by M or H, its vat neither PULPING nor
RESETTING and no device reset running, writes zeros to its scratch, felt, AccReg, OutputAcc and LastCodes, clears its
counters, seeds its generator, completes its jobs INTERNAL, counts a press reset and raises RESET_DONE last; plates
(their passes in flight apart), stipple weights, registers, trims, rotation, an engraving, its vat and its state stay,
other presses keep everything but scratch that its jobs' undefined outputs name, and vats stay: no byte of another
press's scratch or of package memory changes that lies outside the output ranges of the stopped jobs, whose contents
are free values (the model's reading, assumption 18). When no job of the press has output in host memory, RESET_DONE
is the only event, and streams and host memory stay. Otherwise it is refused with STATE. -/
def Obligations.PressReset : Prop :=
  ∀ (pr : Principal) (p : Press) (ms : Nat) (s : State), s.dev.started = true → pr = .M ∨ pr = .H →
    ((s.press p).state ≠ .active ∨ s.dev.state = .deviceReset ∨
      (∃ v, (s.press p).vat = some v ∧ ((s.vat v).state = .pulping ∨ (s.vat v).state = .resetting)) →
      exec (.pressReset pr p ms) s = .next (s.answer resState)) ∧
    ((s.press p).state = .active → s.dev.state ≠ .deviceReset →
      (∀ v, (s.press p).vat = some v → (s.vat v).state ≠ .pulping ∧ (s.vat v).state ≠ .resetting) →
      ∃ t : State, exec (.pressReset pr p ms) s = .next (t.answer resOk) ∧
        (t.press p).scratch = [] ∧ (t.press p).felt = [] ∧ (t.press p).draws = 0 ∧
        (∀ m, ((t.press p).macro' m).acc = [] ∧ ((t.press p).macro' m).weights = ((s.press p).macro' m).weights ∧
          ((t.press p).macro' m).valid = ((s.press p).macro' m).valid) ∧
        (∀ b, ((t.press p).bank b).outputAcc = [] ∧ ((t.press p).bank b).lastCodes = [] ∧
          ((t.press p).bank b).passBuffer = none ∧ ((t.press p).bank b).replay = [] ∧
          ((t.press p).bank b).convMse = 0 ∧ ((t.press p).bank b).clipCount = 0 ∧
          ((t.press p).bank b).regs = ((s.press p).bank b).regs ∧ ((t.press p).bank b).trim = ((s.press p).bank b).trim ∧
          ((t.press p).bank b).sliceTrim = ((s.press p).bank b).sliceTrim ∧
          ((t.press p).bank b).state = ((s.press p).bank b).state) ∧
        (∀ q, (t.press p).plate q = { (s.press p).plate q with integrators := [] }) ∧
        (t.press p).wrapRepeats = 0 ∧ (t.press p).overflowRepeats = 0 ∧ (t.press p).accSaturations = 0 ∧
        (t.press p).drainWaitMax = 0 ∧ (t.press p).eccCorrected = 0 ∧ (t.press p).eccUncorrected = 0 ∧
        (∀ k j, (s.press p).slot k = some j → j.state ≠ .posting →
          ∃ j', (t.press p).slot k = some j' ∧ j'.state = .posting ∧ j'.internal = true) ∧
        (t.press p).state = .active ∧ (t.press p).vat = (s.press p).vat ∧ (t.press p).rotation = (s.press p).rotation ∧
        (t.press p).refreshTarget = (s.press p).refreshTarget ∧ (t.press p).logicalBase = (s.press p).logicalBase ∧
        (t.press p).engraving = (s.press p).engraving ∧ (t.press p).thermal = (s.press p).thermal ∧
        (∀ q : Press, q ≠ p → t.press q = { s.press q with scratch := (t.press q).scratch }) ∧
        (∀ (q : Press) (o : Nat), q ≠ p → (∀ k j e a n i, (s.press p).slot k = some j → j.state ≠ .posting →
          (.scratch e a, n) ∈ undefinedOutputs s p j → i < n → s.physPress j.desc.vat.toNat e = some q.val → a + i ≠ o) →
          tget 0 (t.press q).scratch o = tget 0 (s.press q).scratch o) ∧
        (∀ x : Nat, (∀ k j a n i f, (s.press p).slot k = some j → j.state ≠ .posting →
          (.package a, n) ∈ undefinedOutputs s p j → i < n → s.vatFrame j.desc.vat.toNat ((a + i) / 2048) = some f →
          2048 * f + (a + i) % 2048 ≠ x) → tget 0 t.hubs.mem x = tget 0 s.hubs.mem x) ∧
        t.dev = { s.dev with resetCounts := lset s.dev.resetCounts 2 (satInc (lget 0 s.dev.resetCounts 2)) } ∧
        (∃ u : State, Logged u t evResetDone (some p) none (s.pressVat p) (leBytes 1 3 ++ [0, 0, 0] ++ leBytes 4 ms)) ∧
        ((∀ k j, (s.press p).slot k = some j → hostRanges s p j = []) → t.streams = s.streams ∧ t.hostMem = s.hostMem ∧
          Logged s t evResetDone (some p) none (s.pressVat p) (leBytes 1 3 ++ [0, 0, 0] ++ leBytes 4 ms)) ∧
        t = { s with presses := t.presses, streams := t.streams, counters := t.counters, hubs := t.hubs, free := t.free
                     hostMem := t.hostMem, heldOps := t.heldOps, dev := t.dev, events := t.events } ∧
        t.hubs = { s.hubs with mem := t.hubs.mem, poison := t.hubs.poison, copies := t.hubs.copies })

/-- RETIRE takes a press out of service for good. RETIRE by M of a TESTING or SPARE press makes it RETIRED with cause 4
and raises PRESS_RETIRED, and for the last SPARE press SPARE_PRESSES_EXHAUSTED; other presses stay. An ACTIVE press of
no vat becomes RETIRED, what it was engraving or waiting to engrave is dropped, and PRESS_RETIRED is raised with its
count of jobs in slots, then SPARE_PRESSES_EXHAUSTED where no press is SPARE. An ACTIVE press of a vat takes cause 4;
with a SPARE press, the press becomes RETIRING and the SPARE press with the fewest hops ENGAGING in its place with its
vat and vat-relative number; with none it is RETIRED, of no vat, and its PressMap element reads 0xFF. A press that is
ENGAGING, RETIRING or RETIRED is refused with STATE; the host physical function is refused with RIGHTS. -/
def Obligations.PressRetired : Prop :=
  ∀ (p : Press) (s : State), s.dev.started = true →
    ((s.press p).state = .engaging ∨ (s.press p).state = .retiring ∨ (s.press p).state = .retired →
      exec (.retire .M p) s = .next (s.answer resState)) ∧
    exec (.retire .H p) s = .next (s.answer resRights) ∧
    ((s.press p).state = .testing → ∃ t : State, exec (.retire .M p) s = .next (t.answer resOk) ∧
      t.press p = { s.press p with state := .retired, retireCause := 4, clocked := false } ∧
      (∀ q : Press, q ≠ p → t.press q = s.press q) ∧ t = { s with presses := t.presses, events := t.events } ∧
      Logged s t evPressRetired (some p) none (s.pressVat p) (leBytes 1 4 ++ [0xFF] ++ leBytes 2 0)) ∧
    ((s.press p).state = .spare → ∃ t w : State, exec (.retire .M p) s = .next (t.answer resOk) ∧
      t.press p = { s.press p with state := .retired, retireCause := 4, clocked := false } ∧
      (∀ q : Press, q ≠ p → t.press q = s.press q) ∧ t = { s with presses := t.presses, events := t.events } ∧
      Logged s w evPressRetired (some p) none (s.pressVat p) (leBytes 1 4 ++ [0xFF] ++ leBytes 2 0) ∧
      ((∃ q : Press, q ≠ p ∧ (s.press q).state = .spare) → t.events = w.events) ∧
      ((∀ q : Press, q ≠ p → (s.press q).state ≠ .spare) → Logged w t evSparesExhausted (some p) none none
        (leBytes 1 (allPresses.filter fun q => decide ((t.press q).state = .retired)).length))) ∧
    ((s.press p).state = .active → (s.press p).vat = none → ∃ t w : State, exec (.retire .M p) s = .next (t.answer resOk) ∧
      (t.press p).state = .retired ∧ (t.press p).retireCause = 4 ∧ (t.press p).clocked = false ∧
      (t.press p).engraving = none ∧ t.engQueue = s.engQueue.filter (fun e => decide (e.press.val ≠ p.val)) ∧
      (∀ q : Press, q ≠ p → t.press q = s.press q) ∧
      Logged s w evPressRetired (some p) none none (leBytes 1 4 ++ [0xFF] ++ leBytes 2 (s.press p).jobs.length) ∧
      ((∃ q : Press, (s.press q).state = .spare) → t.events = w.events) ∧
      ((∀ q : Press, (s.press q).state ≠ .spare) → Logged w t evSparesExhausted (some p) none none
        (leBytes 1 (allPresses.filter fun q => decide ((t.press q).state = .retired)).length)) ∧
      t = { s with presses := t.presses, engQueue := t.engQueue, events := t.events }) ∧
    (∀ v, (s.press p).state = .active → (s.press p).vat = some v → ∃ t : State,
      exec (.retire .M p) s = .next (t.answer resOk) ∧ (t.press p).retireCause = 4 ∧
      t.dev = s.dev ∧ t.settings = s.settings ∧ t.mgmt = s.mgmt ∧ t.surveys = s.surveys ∧ t.gov = s.gov ∧
      (∀ y : Press, nearestSpare s p = some y.val → (t.press p).state = .retiring ∧ (t.press p).replacement = some y ∧
        (t.press y).state = .engaging ∧ (t.press y).vat = some v ∧ (t.press y).vatPress = (s.press p).vatPress ∧
        (t.press y).replaces = some p ∧ (t.press y).engagingFor = some p) ∧
      (nearestSpare s p = none → (t.press p).state = .retired ∧ (t.press p).vat = none ∧
        tget 0xFF (t.vat v).pressMap (s.press p).vatPress = 0xFF))

/-- A spare press is checked, engraves and takes the place. ENGAGE_CHECK_DONE of an ENGAGING press whose SRAM passes, and
of which no more than one bank would need the fallback converter, marks its check and asks for engraving power for
every plate it has to engrave, in order; when no slice fails only that press changes, and a trim that the calibration
sets is in its bank; a source of its macros under copy makes it wait; a single failed slice of a WORKING bank with a
free spare slice is substituted and the bank is DEGRADED. When the check fails the press is RETIRED with cause 5, and
the next SPARE press, if any, engages for the same place. SPARE_ENGAGEMENT_DONE waits until the press has checked,
engraved and loaded; then the PressMap element names it, it is ACTIVE, and the press it replaces is RETIRED and of no
vat. -/
def Obligations.SpareEngages : Prop :=
  (∀ (p old : Press) (c : EngageCheck) (s : State), (s.press p).engagingFor = some old → c.ok = true →
    recordsHeld s old p = true → exec (.engageCheckDone p c) s = .next s) ∧
  (∀ (p old : Press) (trims : List (Plate × Fin 129 × BitVec 16)) (s : State), (s.press p).engagingFor = some old →
    (s.press p).state = .engaging → (s.press p).engageChecked = false → calFails (s.press p) [] = false → recordsHeld s old p = false → ∃ t : State,
      exec (.engageCheckDone p ⟨true, [], trims⟩) s = .next t ∧
      (t.press p).state = .engaging ∧ (t.press p).engageChecked = true ∧
      t.engQueue = s.engQueue ++ (s.press p).engageTodo.map (fun e =>
        { cls := 2, press := p, plate := e.1, purpose := .engage, content := some e.2 }) ∧
      (∀ b j w, trims = [(b, j, w)] → tget 0 ((t.press p).bank b.val).sliceTrim j = w) ∧
      (∀ q : Press, q ≠ p → t.press q = s.press q) ∧
      t = { s with presses := t.presses, engQueue := t.engQueue, vats := t.vats, hubs := t.hubs, events := t.events }) ∧
  (∀ (p old : Press) (b : Plate) (j : Fin 129) (s : State), (s.press p).engagingFor = some old →
    (s.press p).state = .engaging → (s.press p).engageChecked = false → calFails (s.press p) [(b, j)] = false → recordsHeld s old p = false →
    j.val < 128 → ((s.press p).bank b).state = .working → ((s.press p).bank b).spareFailed = false →
    ((s.press p).bank b).substituted = 0xFF → ∃ t : State, exec (.engageCheckDone p ⟨true, [(b, j)], []⟩) s = .next t ∧
      (t.press p).state = .engaging ∧ (t.press p).engageChecked = true ∧ ((t.press p).bank b).state = .degraded ∧
      ((t.press p).bank b).substituted = BitVec.ofNat 8 j ∧ tget false ((t.press p).bank b).sliceFailed j = true ∧
      (∀ q : Press, q ≠ p → t.press q = s.press q)) ∧
  (∀ (p old : Press) (ok : Bool) (fails : List (Plate × Fin 129)) (trims : List (Plate × Fin 129 × BitVec 16)) (s : State),
    (s.press p).engagingFor = some old → (s.press p).state = .engaging → old ≠ p →
    (s.press p).engageChecked = false → ok = false ∨ (calFails (s.press p) fails = true ∧ recordsHeld s old p = false) → ∃ t : State,
      exec (.engageCheckDone p ⟨ok, fails, trims⟩) s = .next t ∧
      (t.press p).state = .retired ∧ (t.press p).retireCause = 5 ∧ (t.press p).vat = none ∧
      (∀ (y : Press) (v : Vat), nearestSpare s old = some y.val → (s.press old).vat = some v →
        (t.press y).state = .engaging ∧ (t.press y).engagingFor = some old ∧ (t.press y).engageChecked = false) ∧
      (nearestSpare s old = none → (t.press old).state = .retired) ∧
      t.dev = s.dev ∧ t.settings = s.settings ∧ t.mgmt = s.mgmt) ∧
  (∀ (p : Press) (ms : Nat) (s : State), engageReady s p = false → exec (.spareEngagementDone p ms) s = .next s) ∧
  ∀ (p old : Press) (v : Vat) (ms : Nat) (s : State), engageReady s p = true → (s.press p).engagingFor = some old →
    (s.press p).vat = some v → old ≠ p → ∃ t : State, exec (.spareEngagementDone p ms) s = .next t ∧
      (t.press p).state = .active ∧ (t.press p).engagingFor = none ∧ (t.press p).vat = some v ∧
      (t.press old).state = .retired ∧ (t.press old).vat = none ∧
      tget 0xFF (t.vat v).pressMap (s.press p).vatPress = BitVec.ofNat 8 p.val ∧
      t.dev = s.dev ∧ t.settings = s.settings ∧ t.mgmt = s.mgmt ∧ t.surveys = s.surveys

/-- CONFIGURE takes presses and pages for a vat. CONFIGURE by M of an OFF vat whose PressMap, quota, stream range and
tenant key meet R291 and R344 makes it ALLOCATING with empty activity counts, and gives element e of its PressMap the
vat and the number e; other vats and presses stay. A vat that is not OFF, or a device reset, is answered STATE, unmet
conditions RANGE, both without a change. ALLOCATION_DONE gives each FREE frame of the quota to the vat as its page,
BLANK plates of its presses the epoch 0x0000, and the vat is SERVING with no ream and VAT_CONFIGURED is raised; a
debug entry that waited is ACTIVE. STATE during a device reset is the model's choice (assumption 52). -/
def Obligations.VatConfigured : Prop :=
  (∀ (v : Vat) (s : State), s.dev.started = true → (s.vat v).state ≠ .off ∨ s.dev.state = .deviceReset →
    exec (.configure .M v) s = .next (s.answer resState)) ∧
  (∀ (v : Vat) (s : State), s.dev.started = true → (s.vat v).state = .off → s.dev.state ≠ .deviceReset →
    pressMapOk s v = false ∨ quotaOk s v = false ∨ streamRangeOk s v = false ∨ (s.vat v).tenantKey = 0 →
    exec (.configure .M v) s = .next (s.answer resRange)) ∧
  (∀ (v : Vat) (s : State), s.dev.started = true → (s.vat v).state = .off → s.dev.state ≠ .deviceReset →
    pressMapOk s v = true → quotaOk s v = true → streamRangeOk s v = true → (s.vat v).tenantKey ≠ 0 →
    ∃ t : State, exec (.configure .M v) s = .next (t.answer resOk) ∧
      t.vat v = { s.vat v with state := .allocating, exact := [0, 0, 0, 0, 0], shown := [0, 0, 0, 0, 0], busy := []
                               powerTrace := [], powerSum := 0 } ∧
      (∀ e p, (mapPresses (s.vat v))[e]? = some p →
        t.press p = { s.press p with vat := some v, vatPress := e, clocked := true }) ∧
      (∀ p, p ∉ mapPresses (s.vat v) → t.press p = s.press p) ∧ (∀ w : Vat, w ≠ v → t.vat w = s.vat w) ∧
      t = { s with presses := t.presses, vats := t.vats, hubs := { s.hubs with everConfigured := true } }) ∧
  ∀ (v : Vat) (s : State), (s.vat v).state = .allocating → ∃ t : State, exec (.allocationDone v) s = .next t ∧
    (t.vat v).state = .serving ∧ (t.vat v).currentEpoch = 0 ∧ (t.vat v).incomingEpoch = none ∧
    (t.vat v).active = none ∧ (t.vat v).pendingReam = none ∧
    (∀ i, i < (s.vat v).quotaPages.toNat → (s.pageEntry ((s.vat v).quotaBase.toNat + i)).state = .free →
      (t.pageEntry ((s.vat v).quotaBase.toNat + i)).state = .owned ∧
      (t.pageEntry ((s.vat v).quotaBase.toNat + i)).vat = v ∧
      (t.pageEntry ((s.vat v).quotaBase.toNat + i)).vatPage = i) ∧
    (∀ p : Press, (s.press p).vat = some v → ∀ q : Plate, ((t.press p).plate q).epoch = 0) ∧
    (∀ w : Vat, w ≠ v → t.vat w = s.vat w) ∧
    ((s.vat v).debug = .entering → (t.vat v).debug = .active ∧ (t.vat v).debugCount = satInc (s.vat v).debugCount ∧
      ∀ p : Press, (s.press p).vat ≠ some v → t.press p = { s.press p with banks := (t.press p).banks }) ∧
    ((s.vat v).debug ≠ .entering → (t.vat v).debug = (s.vat v).debug ∧
      (∀ p : Press, (s.press p).vat ≠ some v → t.press p = s.press p) ∧
      Logged s t evVatConfigured none none (some v)
        (leBytes 1 (s.vatPresses v).length ++ [0, 0, 0] ++ leBytes 4 (s.vat v).quotaPages.toNat)) ∧
    t.hubs.mem = s.hubs.mem ∧
    t = { s with presses := t.presses, vats := t.vats, hubs := t.hubs, events := t.events }

/-- Pulping voids everything that a vat holds. PULP by M or H of a SERVING vat makes it PULPING: every job on its presses
completes VAT_PULPING, their scratch, felt and accumulators are zero, its reams, swap, epochs and publisher key are
void, jobs of it that wait in the bridge are marked to end VAT_PULPING, its work counters are 0, every page it owns is
PULPING, and the reading of its power is kept as PadWatts; other vats, the state of every press and device control
stay. When no page is under copy, host memory stays and, but for these marks, streams, and VAT_PULP_STARTED with cause
1 is the only event. A vat that is not SERVING is refused with STATE. -/
def Obligations.VatPulped : Prop :=
  ∀ (pr : Principal) (v : Vat) (s : State), s.dev.started = true → pr = .M ∨ pr = .H →
    ((s.vat v).state ≠ .serving → exec (.pulp pr v) s = .next (s.answer resState)) ∧
    ((s.vat v).state = .serving → ∃ t : State, exec (.pulp pr v) s = .next (t.answer resOk) ∧
      (t.vat v).state = .pulping ∧ (t.vat v).pulpForDebug = false ∧ (t.vat v).active = none ∧
      (t.vat v).pendingReam = none ∧ (t.vat v).swap.active = false ∧ (t.vat v).currentEpoch = 0 ∧
      (t.vat v).incomingEpoch = none ∧ (t.vat v).publisherKey = 0 ∧ (t.vat v).padWatts = BitVec.ofNat 16 (vatPower (s.vat v)) ∧
      (t.vat v).load.state ≠ .fetching ∧ (t.vat v).load.state ≠ .staged ∧
      (∀ c, c < 512 → t.counter (512 * v + c) = {}) ∧
      (∀ f, 65536 ≤ f → (s.pageEntry f).state = .owned → (s.pageEntry f).vat = v → s.hubs.copies = [] →
        (t.pageEntry f).state = .pulping) ∧
      (∀ p : Press, (servingPresses s v).contains p.val →
        (t.press p).scratch = [] ∧ (t.press p).felt = [] ∧ (∀ b, ((t.press p).bank b).outputAcc = []) ∧
        (∀ m, ((t.press p).macro' m).acc = [] ∧ ((t.press p).macro' m).weights = []) ∧
        ∀ k j, (s.press p).slot k = some j → j.state ≠ .posting →
          ∃ j', (t.press p).slot k = some j' ∧ j'.state = .posting ∧ j'.vatPulping = true) ∧
      (∀ p : Press, (t.press p).state = (s.press p).state ∧ (t.press p).vat = (s.press p).vat) ∧
      (∀ w : Vat, w ≠ v → t.vat w = s.vat w) ∧
      t.streams = (markWaiting v (fun j => { j with vatPulping := true }) s).streams ∧ t.hostMem = s.hostMem ∧
      (s.hubs.copies = [] → t.heldOps = s.heldOps ∧ t.free = s.free ∧
        Logged s t evVatPulpStarted none none (some v) (leBytes 1 1)) ∧
      t = { s with presses := t.presses, vats := t.vats, streams := t.streams, engQueue := t.engQueue
                   counters := t.counters, hubs := t.hubs, hostMem := t.hostMem, heldOps := t.heldOps, free := t.free
                   events := t.events })

/-- A pulped vat is OFF once its streams are FREE. PULPING_END changes nothing until no plate, page or job of the vat is
left. Then, after debug entry, the vat is ALLOCATING again, its presses and streams stay, and VAT_PULP_DONE is raised
with cause 2. After PULP, each stream of its range that is ALLOCATED or KEYING is FREE, and with all of them FREE the
vat is OFF, its presses are of no vat and VAT_PULP_DONE is raised with cause 1 (no event under a device reset, which
pulps every vat: R448); OPEN and REKEY streams are CLOSING and, while a stream of the range is not FREE, the vat stays
PULPING and only streams and the bridge change. That it waits for a press that is ENGAGING or RETIRING, that the
counters are cleared once more, and that a device reset raises no such event, is the model's choice (assumption 52). -/
def Obligations.PulpingEnds : Prop :=
  (∀ (v : Vat) (s : State), (s.vat v).state ≠ .pulping ∨ platesPulped s v .vatPulp ≠ 0 ∨ vatFrames s v .pulping ≠ [] ∨
    vatFrames s v .owned ≠ [] ∨ vatDrained s v = false → exec (.pulpingEnd v) s = .next s) ∧
  ∀ (v : Vat) (s : State), (s.vat v).state = .pulping → platesPulped s v .vatPulp = 0 → vatFrames s v .pulping = [] →
    vatFrames s v .owned = [] → vatDrained s v = true →
    ((s.vat v).pulpForDebug = true → ∃ t : State, exec (.pulpingEnd v) s = .next t ∧
      t.vat v = { s.vat v with state := .allocating, padHold := 2, voidActive := 0, voidPending := 0 } ∧
      (∀ w : Vat, w ≠ v → t.vat w = s.vat w) ∧ (∀ c, c < 512 → t.counter (512 * v + c) = {}) ∧
      (∀ p : Press, (t.press p).vat = (s.press p).vat ∧ (t.press p).state = (s.press p).state) ∧
      (∀ p : Press, (s.press p).vat ≠ some v → t.press p = s.press p) ∧
      ((s.vat v).pulpForReset = false → Logged s t evVatPulpDone none none (some v) (leBytes 1 2)) ∧
      ((s.vat v).pulpForReset = true → t.events = s.events) ∧
      t = { s with presses := t.presses, vats := t.vats, counters := t.counters, events := t.events }) ∧
    ((s.vat v).pulpForDebug = false → (∀ i, i < (s.vat v).streamCount.toNat → ∀ st : StreamId,
        st = Fin.ofNat 4096 ((s.vat v).streamBase.toNat + i) →
        (s.stream st).state = .free ∨ (s.stream st).state = .allocated ∨ (s.stream st).state = .keying) →
      (s.vat v).streamBase.toNat + (s.vat v).streamCount.toNat ≤ 4096 → ∃ t : State, exec (.pulpingEnd v) s = .next t ∧
      t.vat v = { s.vat v with state := .off, padHold := 2, voidActive := 0, voidPending := 0 } ∧
      (∀ w : Vat, w ≠ v → t.vat w = s.vat w) ∧ (∀ c, c < 512 → t.counter (512 * v + c) = {}) ∧
      (∀ p : Press, (s.press p).vat = some v → (t.press p).vat = none) ∧
      (∀ p : Press, (s.press p).vat ≠ some v → t.press p = s.press p) ∧
      (∀ i, i < (s.vat v).streamCount.toNat → (t.stream ((s.vat v).streamBase.toNat + i)).state = .free) ∧
      ((s.vat v).pulpForReset = false → Logged s t evVatPulpDone none none (some v) (leBytes 1 1)) ∧
      ((s.vat v).pulpForReset = true → t.events = s.events) ∧
      t = { s with presses := t.presses, vats := t.vats, counters := t.counters, streams := t.streams
                   bridge := t.bridge, events := t.events }) ∧
    ∀ i, (s.vat v).pulpForDebug = false → i < (s.vat v).streamCount.toNat →
      (s.vat v).streamBase.toNat + (s.vat v).streamCount.toNat ≤ 4096 →
      (s.stream ((s.vat v).streamBase.toNat + i)).state = .opened ∨
        (s.stream ((s.vat v).streamBase.toNat + i)).state = .rekey ∨
        (s.stream ((s.vat v).streamBase.toNat + i)).state = .closing → ∃ t : State, exec (.pulpingEnd v) s = .next t ∧
      (t.stream ((s.vat v).streamBase.toNat + i)).state = .closing ∧
      t = { s with streams := t.streams, bridge := t.bridge }

/-- A vat reset keeps pages and streams. RESET by M or H of a SERVING vat makes it RESETTING: its jobs complete
VAT_RESETTING, the arrays of its presses are zero, its reams and work counters are void, every byte of its staging
pages reads zero and one more vat reset is counted, while the other vats, the page map and the state of every press
stay; when no job of the vat has failed or has output in host memory, its streams stay, but for the marks of jobs that
wait in the bridge to end VAT_RESETTING, and host memory and its other pages stay too; a vat that is not SERVING is
refused with STATE. VAT_RESET_END changes nothing until plates and jobs are done; then the vat is SERVING, its plates
have the epoch 0x0000, and RESET_DONE is raised. That it waits until no press is ENGAGING or RETIRING (vatDrained) is
the model's choice (assumption 52). -/
def Obligations.VatReset : Prop :=
  (∀ (pr : Principal) (v : Vat) (s : State), s.dev.started = true → pr = .M ∨ pr = .H →
    ((s.vat v).state ≠ .serving → exec (.vatReset pr v) s = .next (s.answer resState)) ∧
    ((s.vat v).state = .serving → ∃ t : State, exec (.vatReset pr v) s = .next (t.answer resOk) ∧
      (t.vat v).state = .resetting ∧ (t.vat v).active = none ∧ (t.vat v).pendingReam = none ∧
      (t.vat v).swap.active = false ∧ (t.vat v).publisherKey = (s.vat v).publisherKey ∧
      (∀ c, c < 512 → t.counter (512 * v + c) = {}) ∧
      (∀ p : Press, (servingPresses s v).contains p.val →
        (t.press p).scratch = [] ∧ (t.press p).felt = [] ∧ (t.press p).draws = 0 ∧
        ∀ k j, (s.press p).slot k = some j → j.state ≠ .posting →
          ∃ j', (t.press p).slot k = some j' ∧ j'.state = .posting ∧ j'.vatResetting = true) ∧
      (∀ p : Press, (t.press p).state = (s.press p).state ∧ (t.press p).vat = (s.press p).vat) ∧
      (∀ w : Vat, w ≠ v → t.vat w = s.vat w) ∧ (∀ f, t.pageEntry f = s.pageEntry f) ∧
      (∀ f, (s.pageEntry f).state = .owned → (s.pageEntry f).vat = v → (s.pageEntry f).use = .staging →
        t.frameRead f 0 2048 = List.replicate 2048 0) ∧
      ((∀ p : Press, (servingPresses s v).contains p.val → StopsQuietly s p) →
        t.streams = (markWaiting v (fun j => { j with vatResetting := true }) s).streams ∧ t.hostMem = s.hostMem ∧
        ∀ f i, i < 2048 → (∀ e ∈ s.hubs.map, e.1 = f → e.2.use ≠ .staging) → t.frameRead f i 1 = s.frameRead f i 1) ∧
      t.dev = { s.dev with resetCounts := lset s.dev.resetCounts 1 (satInc (lget 0 s.dev.resetCounts 1)) } ∧
      t.settings = s.settings ∧ t.mgmt = s.mgmt)) ∧
  (∀ (v : Vat) (ms : Nat) (s : State), (s.vat v).state ≠ .resetting ∨ platesPulped s v .resetPulp ≠ 0 ∨
    vatDrained s v = false → exec (.vatResetEnd v ms) s = .next s) ∧
  ∀ (v : Vat) (ms : Nat) (s : State), (s.vat v).state = .resetting → platesPulped s v .resetPulp = 0 →
    vatDrained s v = true → ∃ t : State, exec (.vatResetEnd v ms) s = .next t ∧ (t.vat v).state = .serving ∧
      (∀ p : Press, (s.press p).vat = some v → ∀ q : Plate, ((t.press p).plate q).epoch = 0) ∧
      (∀ p : Press, (s.press p).vat ≠ some v → t.press p = s.press p) ∧ (∀ w : Vat, w ≠ v → t.vat w = s.vat w) ∧
      Logged s t evResetDone none none (some v) (leBytes 1 2 ++ [0, 0, 0] ++ leBytes 4 ms) ∧
      t = { s with presses := t.presses, vats := t.vats, counters := t.counters, events := t.events }

/-- Debug entry pulps a vat that holds a protected ream. DEBUG_REQUEST TRUE by M or H on a SERVING vat first ends a load
that no running swap engraves, whose staging pages read zero (that a load which a running swap engraves stays is the
model's choice, assumption 52). With no protected ream left it makes DebugState ACTIVE, counts, puts the statistics
units of the vat's ACTIVE presses in the mode that StatsDebugMaxAbs gives, and raises DEBUG_ENTERED; with one,
DebugState is ENTERING and the vat PULPING. On a vat that is not SERVING it is refused with STATE. FALSE makes
DebugState OFF, puts those units in MSE mode and raises DEBUG_LEFT. Other vats stay. -/
def Obligations.DebugRequests : Prop :=
  (∀ (pr : Principal) (v : Vat) (s : State) (kept held : Bool), s.dev.started = true → pr = .M ∨ pr = .H →
    kept = ((s.vat v).swap.active && (s.vat v).swap.fromPending) →
    held = (((s.vat v).active.any fun x => x.isProtected) || (kept && (s.vat v).pendingReam.any fun x => x.isProtected)) →
    ((s.vat v).state ≠ .serving → exec (.debugRequestTrue pr v) s = .next (s.answer resState)) ∧
    ((s.vat v).state = .serving → held = false → ∃ t : State,
      exec (.debugRequestTrue pr v) s = .next (t.answer resOk) ∧ (t.vat v).debug = .active ∧ (t.vat v).state = .serving ∧
      (t.vat v).debugCount = satInc (s.vat v).debugCount ∧ (t.vat v).active = (s.vat v).active ∧
      (kept = true → (t.vat v).load = (s.vat v).load ∧ (t.vat v).pendingReam = (s.vat v).pendingReam) ∧
      (kept = false → (t.vat v).pendingReam = none ∧ (t.vat v).load.state ≠ .fetching ∧ (t.vat v).load.state ≠ .staged) ∧
      (∀ w : Vat, w ≠ v → t.vat w = s.vat w) ∧
      (∀ (p : Press) (b : Plate), (s.press p).state = .active → (s.press p).vat = some v →
        ((t.press p).bank b).maxAbsMode = decide (s.settings.statsDebugMaxAbs = 1)) ∧
      (∀ p : Press, t.press p = { s.press p with banks := (t.press p).banks }) ∧
      Logged s t evDebugEntered none none (some v) (leBytes 2 (t.vat v).debugCount.toNat) ∧
      (kept = true → t.hubs = s.hubs) ∧
      (∀ f ∈ stagingFrames s v (((s.vat v).pendingReam.map Ream.held).getD []), kept = false →
        t.frameRead f 0 2048 = List.replicate 2048 0) ∧
      (∀ f i, f ∉ stagingFrames s v (((s.vat v).pendingReam.map Ream.held).getD []) → i < 2048 →
        t.frameRead f i 1 = s.frameRead f i 1) ∧
      t = { s with vats := t.vats, presses := t.presses, events := t.events,
                   hubs := { s.hubs with mem := t.hubs.mem, poison := t.hubs.poison } }) ∧
    ((s.vat v).state = .serving → held = true → ∃ t : State,
      exec (.debugRequestTrue pr v) s = .next (t.answer resOk) ∧ (t.vat v).debug = .entering ∧
      (t.vat v).state = .pulping ∧ (t.vat v).pulpForDebug = true ∧ (t.vat v).active = none ∧
      (t.vat v).pendingReam = none ∧ (t.vat v).debugCount = (s.vat v).debugCount ∧
      (∀ w : Vat, w ≠ v → t.vat w = s.vat w) ∧ t.dev = s.dev)) ∧
  ∀ (pr : Principal) (v : Vat) (s : State), s.dev.started = true → pr = .M ∨ pr = .H → ∃ t : State,
    exec (.debugRequestFalse pr v) s = .next (t.answer resOk) ∧ t.vat v = { s.vat v with debug := .off } ∧
    (∀ w : Vat, w ≠ v → t.vat w = s.vat w) ∧
    (∀ (p : Press) (b : Plate), (s.press p).state = .active → (s.press p).vat = some v →
      ((t.press p).bank b).maxAbsMode = false) ∧
    (∀ p : Press, t.press p = { s.press p with banks := (t.press p).banks }) ∧
    Logged s t evDebugLeft none none (some v) (leBytes 2 (s.vat v).debugCount.toNat) ∧
    t = { s with vats := t.vats, presses := t.presses, events := t.events }

/-- StreamOpen takes the lowest FREE stream of a vat. A read of StreamOpen of 4 bytes through a function that decodes its
BAR0 and serves the vat, while ServiceReady is 1, sets the lowest FREE stream of the vat's range to ALLOCATED and
returns Opened with its number, all its counters 0; with no FREE stream in the range, or the vat not SERVING, it
returns STREAM_LIMIT and changes nothing; with ServiceReady 0 it returns 0 with no effect. No other stream and nothing
else in the device changes. A read of another size, or through a function that does not serve the vat, returns 0 and
takes no stream. -/
def Obligations.StreamOpens : Prop :=
  ∀ (a : BarAccess) (v : Vat) (s : State),
    (a.size ≠ .four ∨ fnDecodes s a.fn.val = false ∨ serves s a.fn.val v.val = false ∨ s.dev.serviceReady = false →
      exec (.streamOpen a v) s = .next { s with bridge := { s.bridge with lastRead := 0 } }) ∧
    (a.size = .four → fnDecodes s a.fn.val = true → serves s a.fn.val v.val = true → s.dev.serviceReady = true →
      (s.vat v).state ≠ .serving ∨
      (∀ i, (s.vat v).streamBase.toNat ≤ i → i < (s.vat v).streamBase.toNat + (s.vat v).streamCount.toNat →
        (s.stream i).state ≠ .free) →
      exec (.streamOpen a v) s = .next { s with bridge := { s.bridge with lastRead := 0x200000 } }) ∧
    (a.size = .four → fnDecodes s a.fn.val = true → serves s a.fn.val v.val = true → s.dev.serviceReady = true →
      (s.vat v).state = .serving →
      ∀ i, (s.vat v).streamBase.toNat ≤ i → i < (s.vat v).streamBase.toNat + (s.vat v).streamCount.toNat →
        (s.stream i).state = .free →
        (∀ k, (s.vat v).streamBase.toNat ≤ k → k < i → (s.stream k).state ≠ .free) →
        ∃ t : State, exec (.streamOpen a v) s = .next t ∧ t.bridge = { s.bridge with lastRead := BitVec.ofNat 64 (2 ^ 31 + i) } ∧
          t.stream i = { state := .allocated } ∧ (∀ k, k ≠ i → t.stream k = s.stream k) ∧
          t = { s with bridge := t.bridge, streams := t.streams })

/-- Start keys an ALLOCATED stream whose configuration passes. A write of StreamControl of 4 bytes, through the function
that serves the stream, with Start and neither Close nor Reset: an ALLOCATED stream whose configuration passes the
checks of R256 is KEYING and its key exchange waits last in order, else it stays ALLOCATED with ConfigError. In KEYING
with no exchange running, and in REKEY with none running and no key waiting, Start asks for a new exchange; in OPEN,
CLOSING and RESETTING it is ignored. The configuration is unchanged and other streams stay. A write that sets Reset,
or Close and no Reset, does what that request does. What host software wrote before takes effect first. -/
def Obligations.StreamStarts : Prop :=
  ∀ (a : BarAccess) (st : StreamId) (word : BitVec 32) (hw : HostWrites) (s u : State), u = s.hostWrites hw →
    a.size = .four → windowOpen u a.fn.val st.val = true →
    (word.getLsbD 2 = true → exec (.streamStart ⟨a, st⟩ word hw) s = exec (.streamReset ⟨a, st, word⟩) u) ∧
    (word.getLsbD 2 = false → word.getLsbD 1 = true → exec (.streamStart ⟨a, st⟩ word hw) s = exec (.streamClose ⟨a, st, word⟩) u) ∧
    (word.getLsbD 2 = false → word.getLsbD 1 = false → (u.stream st).state = .allocated →
      configOk (u.stream st).cfg ((u.streamFn st).getD 0) = true → ∃ t : State,
      exec (.streamStart ⟨a, st⟩ word hw) s = .next t ∧
      t.stream st = { u.stream st with state := .keying, configError := false, phase := true, exchange := true } ∧
      (∀ i, i ≠ st.val → t.stream i = u.stream i) ∧
      t = { u with streams := t.streams, bridge := { u.bridge with exchanges := u.bridge.exchanges ++ [st] } }) ∧
    (word.getLsbD 2 = false → word.getLsbD 1 = false → (u.stream st).state = .allocated →
      configOk (u.stream st).cfg ((u.streamFn st).getD 0) = false → ∃ t : State,
      exec (.streamStart ⟨a, st⟩ word hw) s = .next t ∧ t.stream st = { u.stream st with configError := true } ∧
      (∀ i, i ≠ st.val → t.stream i = u.stream i) ∧ t = { u with streams := t.streams }) ∧
    (word.getLsbD 2 = false → word.getLsbD 1 = false → (u.stream st).state = .keying ∨ (u.stream st).state = .rekey →
      (u.stream st).exchange = false → (u.stream st).newKey = none → ∃ t : State,
      exec (.streamStart ⟨a, st⟩ word hw) s = .next t ∧ t.stream st = { u.stream st with exchange := true } ∧
      (∀ i, i ≠ st.val → t.stream i = u.stream i) ∧
      t = { u with streams := t.streams, bridge := { u.bridge with exchanges := u.bridge.exchanges ++ [st] } }) ∧
    (word.getLsbD 2 = false → word.getLsbD 1 = false →
      (u.stream st).state = .opened ∨ (u.stream st).state = .closing ∨ (u.stream st).state = .resetting →
      exec (.streamStart ⟨a, st⟩ word hw) s = .next u)

/-- A key exchange gives a stream its key or an answer with a cause. KEY_EXCHANGE_DONE for the stream first in order ends
its exchange. An offer that fails step 3 of R349 leaves the stream in its state, writes the answer with the Result and
raises KEY_EXCHANGE_FAILED. A good offer in KEYING makes the stream OPEN with the derived key and both counters 0; in
REKEY the key waits. NEW_KEY_INSTALL waits until no fetched job is unposted, then puts the waiting key in force with
both counters 0 and the stream is OPEN. Descriptors that stand in the ring are then handled under R264; only a
CREDIT_VIOLATION record that this posts uses an outbound counter. Another stream's turn changes nothing. -/
def Obligations.KeyExchange : Prop :=
  (∀ (st : StreamId) (s : State), s.bridge.exchanges.head? ≠ some st → exec (.keyExchangeDone st) s = .next s) ∧
  (∀ (st : StreamId) (s : State), s.bridge.exchanges.head? = some st →
    (s.stream st).state = .keying ∨ (s.stream st).state = .rekey →
    offerResult s (s.streamVat st) (s.hostRead (s.stream st).keyArea 256) ≠ 0 → ∃ t : State,
    exec (.keyExchangeDone st) s = .next t ∧ t.stream st = { s.stream st with exchange := false } ∧
      t.hostRead ((s.stream st).keyArea + 256) 256 =
        answerBytes (offerResult s (s.streamVat st) (s.hostRead (s.stream st).keyArea 256)) [] ∧
      Logged s t evKeyExchangeFailed none none (s.streamVat st)
        (leBytes 2 st.val ++ leBytes 1 (offerResult s (s.streamVat st) (s.hostRead (s.stream st).keyArea 256))) ∧
      (∀ i, i ≠ st.val → t.stream i = s.stream i) ∧
      t = { s with streams := t.streams, bridge := { s.bridge with exchanges := s.bridge.exchanges.filter (· ≠ st) }
                   hostMem := t.hostMem, events := t.events }) ∧
  (∀ (st : StreamId) (s : State) (eph : BitVec 512) (conf : BitVec 256) (shared : BitVec 384),
    s.bridge.exchanges.head? = some st → (s.stream st).state = .keying ∨ (s.stream st).state = .rekey →
    offerResult s (s.streamVat st) (s.hostRead (s.stream st).keyArea 256) = 0 →
    Config.sm2Exchange (s.dev.identityKey.getD 0) s.otp.serial
      (ofBytes 512 (slice (s.hostRead (s.stream st).keyArea 256) 8 64))
      (ofBytes 512 (slice (s.hostRead (s.stream st).keyArea 256) 72 64))
      (slice (s.hostRead (s.stream st).keyArea 256) 136 16) (Config.randomBits s.free) = (eph, conf, shared) →
    ∃ t : State, exec (.keyExchangeDone st) s = .next t ∧ t.free = s.free + 1 ∧ (t.stream st).exchange = false ∧
      ((s.stream st).state = .keying → ∃ u : State, t = beginHandling st u ∧ (u.stream st).state = .opened ∧
        (u.stream st).inbound = 0 ∧ (u.stream st).outbound = 0 ∧ (u.stream st).key = (t.stream st).key ∧
        ((s.stream st).sqHead = (s.stream st).sqTail ∨ (s.stream st).inFlight < cfgCreditLimit (s.stream st).cfg →
          (t.stream st).outbound = 0) ∧ (t.stream st).state = .opened ∧ (t.stream st).inbound = 0 ∧
        (t.stream st).key = some (streamKey s.otp.masterSecret ((s.streamVat st).getD 0) st (BitVec.ofNat 256 shared.toNat))) ∧
      ((s.stream st).state = .rekey → (t.stream st).state = .rekey ∧ (t.stream st).key = (s.stream st).key ∧
        (t.stream st).newKey =
          some (streamKey s.otp.masterSecret ((s.streamVat st).getD 0) st (BitVec.ofNat 256 shared.toNat))) ∧
      (∀ i, i ≠ st.val → t.stream i = s.stream i) ∧ t.dev = s.dev ∧
      ((t.stream st).outbound = 0 → t.vats = s.vats) ∧ t.presses = s.presses) ∧
  (∀ (st : StreamId) (s : State) (key : BitVec 128), (s.stream st).state = .rekey → (s.stream st).newKey = some key →
    (unposted s st = true → exec (.newKeyInstall st) s = .next s) ∧
    (unposted s st = false → ∃ t : State, exec (.newKeyInstall st) s = .next t ∧ (t.stream st).state = .opened ∧
      (t.stream st).key = some key ∧ (t.stream st).newKey = none ∧ (t.stream st).inbound = 0 ∧
      (∃ u : State, t = endHandling st u ∧ (u.stream st).state = .opened ∧ (u.stream st).key = some key ∧
        (u.stream st).inbound = 0 ∧ (u.stream st).outbound = 0) ∧
      ((s.stream st).sqHead = (s.stream st).sqTail → (s.stream st).condemned = 0 → (t.stream st).outbound = 0) ∧
      (∀ i, i ≠ st.val → t.stream i = s.stream i) ∧ t.dev = s.dev ∧
      ((t.stream st).outbound = 0 → t.vats = s.vats) ∧ t.presses = s.presses))

/-- Close drops pending descriptors and frees the stream when its jobs have posted. A write of StreamControl with Close
and no Reset, of 4 bytes and through the function that serves the stream, makes an ALLOCATED or KEYING stream FREE at
once; an OPEN or REKEY stream is CLOSING, the descriptors from SqHead to SqTail count as Dropped and none is fetched;
in any other state it changes nothing. CLOSING_END waits until no fetched job is unposted; then keys, records and
mailboxes are gone and the stream is FREE. -/
def Obligations.StreamCloses : Prop :=
  (∀ (a : BarAccess) (st : StreamId) (word : BitVec 32) (s : State), a.size = .four → windowOpen s a.fn.val st.val = true →
    word.getLsbD 2 = false → (s.stream st).state = .allocated ∨ (s.stream st).state = .keying →
    ∃ t : State, exec (.streamClose ⟨a, st, word⟩) s = .next t ∧ t.stream st = {} ∧ (∀ i, i ≠ st.val → t.stream i = s.stream i) ∧
      t = { s with streams := t.streams, bridge := { s.bridge with exchanges := s.bridge.exchanges.filter (· ≠ st) } }) ∧
  (∀ (a : BarAccess) (st : StreamId) (word : BitVec 32) (s : State), a.size = .four → windowOpen s a.fn.val st.val = true →
    word.getLsbD 2 = false → (s.stream st).state = .opened ∨ (s.stream st).state = .rekey →
    ∃ t : State, exec (.streamClose ⟨a, st, word⟩) s = .next t ∧
      t.stream st = { s.stream st with
        state := .closing, exchange := false, sqHead := (s.stream st).sqTail, grant := 0, condemned := 0
        dropped := (s.stream st).dropped + BitVec.ofNat 32 ((s.stream st).sqTail - (s.stream st).sqHead).toNat } ∧
      t.bridge.droppedTotal = satAdd s.bridge.droppedTotal ((s.stream st).sqTail - (s.stream st).sqHead).toNat ∧
      (∀ i, i ≠ st.val → t.stream i = s.stream i) ∧ t = { s with streams := t.streams, bridge := t.bridge }) ∧
  (∀ (a : BarAccess) (st : StreamId) (word : BitVec 32) (s : State), word.getLsbD 2 = false → (s.stream st).state = .free ∨
    (s.stream st).state = .closing ∨ (s.stream st).state = .resetting → exec (.streamClose ⟨a, st, word⟩) s = .next s) ∧
  (∀ (st : StreamId) (s : State), (s.stream st).state = .closing → unposted s st = true →
    exec (.closingEnd st) s = .next s) ∧
  ∀ (st : StreamId) (s : State), (s.stream st).state = .closing → unposted s st = false → ∃ t : State,
    exec (.closingEnd st) s = .next t ∧ t.stream st = {} ∧ (∀ i, i ≠ st.val → t.stream i = s.stream i) ∧
      t = { s with streams := t.streams, bridge := { s.bridge with exchanges := s.bridge.exchanges.filter (· ≠ st) } }

/-- A stream reset stops the stream's jobs and returns its credits. STREAM_RESET of a stream that is neither FREE nor
RESETTING, of 4 bytes and through the function that serves it, while no device reset runs, counts a stream reset,
drops the pending descriptors unless the stream was ALLOCATED or KEYING, frees every slot that holds one of its jobs
without a completion and leaves the other jobs, sets CqHead to CqTail and Returned to Fetched, frees the mailbox
entries, erases the keys and makes the stream RESETTING; of a RESETTING stream, or while a device reset runs (R444),
it changes nothing. STREAM_RESET_DONE makes it ALLOCATED with its configuration, or FREE when the reset was begun in
CLOSING. FUNCTION_LEVEL_RESET does the same to every stream of the function, masks its vectors, discards its pending
messages and a dictionary request that has not begun, and sets Max Read Request Size to 512 bytes; while a device
reset runs, it resets no stream. The model's choices, not the spec's: that pending and held messages are discarded,
and that D3hot, the message addresses and NumVFs stay (log entry 31), that the reset is counted when it begins (log
entry 32), and that Max Read Request Size is reset to 512 bytes (log entry 73). -/
def Obligations.StreamResets : Prop :=
  (∀ (a : BarAccess) (st : StreamId) (word : BitVec 32) (s : State), a.size = .four → windowOpen s a.fn.val st.val = true →
    (s.stream st).state = .resetting ∨ s.dev.state = .deviceReset → exec (.streamReset ⟨a, st, word⟩) s = .next s) ∧
  (∀ (a : BarAccess) (st : StreamId) (word : BitVec 32) (s : State), a.size = .four → windowOpen s a.fn.val st.val = true →
    (s.stream st).state ≠ .resetting → s.dev.state ≠ .deviceReset → ∃ t : State,
      exec (.streamReset ⟨a, st, word⟩) s = .next t ∧ (t.stream st).state = .resetting ∧
      (t.stream st).resetFromClosing = decide ((s.stream st).state = .closing) ∧ (t.stream st).key = none ∧
      (t.stream st).newKey = none ∧ (t.stream st).records = [] ∧
      ((s.stream st).state = .allocated ∨ (s.stream st).state = .keying → (t.stream st).sqHead = (s.stream st).sqHead ∧
        (t.stream st).dropped = (s.stream st).dropped ∧ t.bridge.droppedTotal = s.bridge.droppedTotal) ∧
      ((s.stream st).state ≠ .allocated → (s.stream st).state ≠ .keying → (t.stream st).sqHead = (s.stream st).sqTail ∧
        (t.stream st).dropped = (s.stream st).dropped + BitVec.ofNat 32 ((s.stream st).sqTail - (s.stream st).sqHead).toNat ∧
        t.bridge.droppedTotal = satAdd s.bridge.droppedTotal ((s.stream st).sqTail - (s.stream st).sqHead).toNat) ∧
      (t.stream st).cqHead = (s.stream st).cqTail ∧ (t.stream st).returned = (s.stream st).fetched ∧ (t.stream st).fetched = (s.stream st).fetched ∧
      (t.stream st).cfg = (s.stream st).cfg ∧ (t.stream st).bridge = [] ∧ (t.stream st).ended = [] ∧
      (∀ e, (tget {} (t.stream st).mailboxes e).state = .free ∧
        (tget {} (t.stream st).mailboxes e).generation = (tget {} (s.stream st).mailboxes e).generation) ∧
      (∀ (p : Press) k j, (s.press p).slot k = some j → j.stream = st → (t.press p).slot k = none) ∧
      (NoSwap s → (∀ (p : Press) k j, (s.press p).slot k = some j → j.stream ≠ st → (t.press p).slot k = some j) ∧
        t.dev = { s.dev with resetCounts := lset s.dev.resetCounts 3 (satInc (lget 0 s.dev.resetCounts 3)) } ∧
        t.hubs = { s.hubs with copies := t.hubs.copies, gathers := t.hubs.gathers }) ∧
      lget 0 t.dev.resetCounts 3 = satInc (lget 0 s.dev.resetCounts 3) ∧
      (∀ i, i ≠ st.val → t.stream i = s.stream i) ∧ t.hostMem = s.hostMem ∧ t.mgmt = s.mgmt) ∧
  (∀ (st : StreamId) (s : State), (s.stream st).state = .resetting → ∃ t : State, exec (.streamResetDone st) s = .next t ∧
      ((s.stream st).resetFromClosing = true → t.stream st = {}) ∧
      ((s.stream st).resetFromClosing = false → t.stream st = { s.stream st with state := .allocated }) ∧
      (∀ i, i ≠ st.val → t.stream i = s.stream i) ∧ t = { s with streams := t.streams }) ∧
  (∀ (st : StreamId) (s : State), (s.stream st).state ≠ .resetting → exec (.streamResetDone st) s = .next s) ∧
  ∀ (f : Fn) (s : State), ∃ t : State, exec (.functionLevelReset f) s = .next t ∧
    (s.dev.state ≠ .deviceReset → ∀ st : StreamId, s.streamFn st = some f → (s.stream st).state ≠ .free →
      (t.stream st).state = .resetting) ∧
    (s.dev.state = .deviceReset → t.streams = s.streams) ∧
    (∀ st : StreamId, s.streamFn st ≠ some f.val → t.stream st = s.stream st) ∧
    t.fn f = { s.fn f with unmasked := [], pendingBits := [], held := [], busy := false, sealedData := none, maxReadRequest := 2 } ∧
    (∀ g : Fn, g ≠ f → t.fn g = s.fn g) ∧ t.hostMem = s.hostMem ∧ t.mgmt = s.mgmt ∧
    (NoSwap s → t.hubs = { s.hubs with copies := t.hubs.copies, gathers := t.hubs.gathers })

/-- A doorbell moves SqTail and counts each descriptor once. With n and a as R262 forms them, a write of SqTail of 4 bytes
through the function that serves the stream, with n beyond the ring or a beyond n, only counts in DoorbellRejects; any
other sets SqTail, adds a to Submitted, and in a stream that is not OPEN does nothing else. In an OPEN stream with
nothing in hand, f descriptors are granted and the rest condemned; with f = 0 all of them are dropped at once, with
one CREDIT_VIOLATION record unless one is unconsumed. While granted or condemned descriptors of an earlier doorbell
are in hand, the new ones wait for them. Other streams stay. A write of another size does nothing. -/
def Obligations.Doorbells : Prop :=
  (∀ (a : BarAccess) (st : StreamId) (tail : BitVec 16) (hw : HostWrites) (s : State), a.size ≠ .four →
    exec (.doorbell ⟨a, st⟩ tail hw) s = .next (s.hostWrites hw)) ∧
  ∀ (a : BarAccess) (st : StreamId) (tail : BitVec 16) (hw : HostWrites) (s u : State), u = s.hostWrites hw →
    a.size = .four → windowOpen u a.fn.val st.val = true →
    (cfgSqEntries (u.stream st).cfg < (tail - (u.stream st).sqHead).toNat ∨
      (tail - (u.stream st).sqHead).toNat < (tail - (u.stream st).sqTail).toNat → ∃ t : State,
      exec (.doorbell ⟨a, st⟩ tail hw) s = .next t ∧
      t.stream st = { u.stream st with doorbellRejects := satInc (u.stream st).doorbellRejects } ∧
      (∀ i, i ≠ st.val → t.stream i = u.stream i) ∧ t = { u with streams := t.streams }) ∧
    ((tail - (u.stream st).sqHead).toNat ≤ cfgSqEntries (u.stream st).cfg →
      (tail - (u.stream st).sqTail).toNat ≤ (tail - (u.stream st).sqHead).toNat → ∃ t : State,
      exec (.doorbell ⟨a, st⟩ tail hw) s = .next t ∧ (t.stream st).sqTail = tail ∧
      (t.stream st).submitted = (u.stream st).submitted + BitVec.ofNat 32 (tail - (u.stream st).sqTail).toNat ∧
      (t.stream st).doorbellRejects = (u.stream st).doorbellRejects ∧
      ((u.stream st).state ≠ .opened → t.stream st = { u.stream st with sqTail := tail, submitted := (t.stream st).submitted } ∧
        t = { u with streams := t.streams }) ∧
      ((u.stream st).state = .opened → (u.stream st).grant = 0 → (u.stream st).condemned = 0 →
        (u.stream st).sqHead ≠ tail → (u.stream st).inFlight < cfgCreditLimit (u.stream st).cfg →
        (t.stream st).grant = min (tail - (u.stream st).sqHead).toNat
          (cfgCreditLimit (u.stream st).cfg - (u.stream st).inFlight) ∧
        (t.stream st).condemned = (tail - (u.stream st).sqHead).toNat - (t.stream st).grant ∧
        (t.stream st).sqHead = (u.stream st).sqHead ∧ t = { u with streams := t.streams }) ∧
      ((u.stream st).state = .opened → (u.stream st).grant = 0 → (u.stream st).condemned = 0 →
        (u.stream st).sqHead ≠ tail → cfgCreditLimit (u.stream st).cfg ≤ (u.stream st).inFlight →
        (t.stream st).sqHead = tail ∧ Condemned u t st (u.stream st).sqHead (tail - (u.stream st).sqHead).toNat ∧
        (t.stream st).fetched = (u.stream st).fetched ∧ t.presses = u.presses ∧ t.hubs = u.hubs ∧ t.dev = u.dev) ∧
      ((u.stream st).state = .opened → (u.stream st).grant ≠ 0 ∨ (u.stream st).condemned ≠ 0 ∨ (u.stream st).sqHead = tail →
        t.stream st = { u.stream st with sqTail := tail, submitted := (t.stream st).submitted } ∧
          t = { u with streams := t.streams }) ∧
      (∀ i, i ≠ st.val → t.stream i = u.stream i))

/-- A fetched descriptor is unsealed, admitted and takes a credit. DESCRIPTOR_FETCH serves the stream that the round-robin
reaches: Fetched and SqHead advance by 1. With the last granted descriptor the condemned ones behind it are dropped,
with one CREDIT_VIOLATION record unless one is unconsumed, and what later doorbells added is handled in its turn;
while the function of the stream is in D3hot they wait, and a later turn of the round-robin drops them. A descriptor
that does not authenticate ends SEAL_FAIL and leaves the inbound counter; one that does sets it and waits in the
bridge, where it reserves the mailbox entry that it can have, or ends there with the status and cause that the first
failing check of R216 gives. While an image is ACTIVATING nothing is fetched. Other streams stay. That a VECTOR job
names the entry that its parameter block names when it is admitted is the model's reading (log entry 28). -/
def Obligations.DescriptorsFetched : Prop :=
  (∀ s : State, s.dev.state = .activating ∨ nextFetch s = none → exec .descriptorFetch s = .next s) ∧
  (∀ (st : StreamId) (s : State), s.dev.state ≠ .activating → nextFetch s = some st.val → (s.stream st).grant = 0 →
    ∃ t u : State, exec .descriptorFetch s = .next t ∧ t = beginHandling st u ∧
      Condemned s u st (s.stream st).sqHead (s.stream st).condemned ∧ (u.stream st).fetched = (s.stream st).fetched ∧
      t.bridge.rr = (st.val + 1) % 4096 ∧
      (∀ i, i ≠ st.val → t.stream i = s.stream i) ∧ t.presses = s.presses ∧ t.hubs = s.hubs ∧ t.dev = s.dev) ∧
  ∀ (st : StreamId) (s : State), s.dev.state ≠ .activating → nextFetch s = some st.val → 0 < (s.stream st).grant →
    ∃ t : State, exec .descriptorFetch s = .next t ∧ t.bridge.rr = (st.val + 1) % 4096 ∧
      (t.stream st).fetched = (s.stream st).fetched + 1 ∧ (t.stream st).returned = (s.stream st).returned ∧
      (2 ≤ (s.stream st).grant → (t.stream st).sqHead = (s.stream st).sqHead + 1 ∧
        (t.stream st).grant = (s.stream st).grant - 1 ∧ (t.stream st).condemned = (s.stream st).condemned ∧
        (t.stream st).dropped = (s.stream st).dropped) ∧
      ((s.stream st).grant = 1 → postsHeld s st = false → ∃ u : State, t = beginHandling st u ∧
        Condemned s u st ((s.stream st).sqHead + 1) (s.stream st).condemned ∧
        (((s.stream st).sqTail - (s.stream st).sqHead).toNat = 1 + (s.stream st).condemned →
          t = u ∧ (t.stream st).sqHead = (s.stream st).sqTail)) ∧
      ((s.stream st).grant = 1 → postsHeld s st = true → ∃ u : State, t = beginHandling st u ∧
        (u.stream st).sqHead = (s.stream st).sqHead + 1 ∧ (u.stream st).grant = 0 ∧
        (u.stream st).condemned = (s.stream st).condemned ∧ (u.stream st).dropped = (s.stream st).dropped) ∧
      (unsealed s st = none → (t.stream st).inbound = (s.stream st).inbound ∧ (t.stream st).bridge = (s.stream st).bridge ∧
        ∃ j, (t.stream st).ended = (s.stream st).ended ++ [j] ∧ j.sqIndex = (s.stream st).sqHead ∧
          j.checkStatus = some stSealFail ∧ j.state = .posting) ∧
      (∀ l, unsealed s st = some l → (t.stream st).inbound = ringCounter s st ∧
        (admission s st (usedFields (decodeDescriptor l)) = none → (t.stream st).ended = (s.stream st).ended ∧
          ((t.stream st).bridge, (t.stream st).mailboxes) =
            reserveJobs ((s.stream st).bridge ++ [{ fetchedJob s st l with names := namedAtAdmission s (fetchedJob s st l) }])
              (s.stream st).mailboxes) ∧
        (∀ status cause, admission s st (usedFields (decodeDescriptor l)) = some (status, cause) →
          (t.stream st).bridge = (s.stream st).bridge ∧
          (t.stream st).ended = (s.stream st).ended ++ [{ fetchedJob s st l with checkStatus := some status, cause := cause, state := .posting }])) ∧
      (∀ i, i ≠ st.val → t.stream i = s.stream i) ∧ t.presses = s.presses ∧ t.hubs = s.hubs ∧ t.dev = s.dev

/-- Submitted = Fetched + Dropped + pending at every moment. For every stream, Submitted equals Fetched + Dropped +
(SqTail − SqHead), and what the bridge has granted and condemned does not exceed SqTail − SqHead: every step keeps
this (the second part is the model's own, for the doorbell in hand). -/
def Obligations.CreditsConserved : Prop :=
  ∀ s t : State, step s = .next t →
    (∀ i, (s.stream i).submitted = (s.stream i).fetched + (s.stream i).dropped +
        ((s.stream i).sqTail - (s.stream i).sqHead).setWidth 32 ∧
      (s.stream i).grant + (s.stream i).condemned ≤ ((s.stream i).sqTail - (s.stream i).sqHead).toNat) →
    ∀ i, (t.stream i).submitted = (t.stream i).fetched + (t.stream i).dropped +
        ((t.stream i).sqTail - (t.stream i).sqHead).setWidth 32 ∧
      (t.stream i).grant + (t.stream i).condemned ≤ ((t.stream i).sqTail - (t.stream i).sqHead).toNat

/-- The bridge places a job in the lowest FREE slot. JOB_PLACEMENT takes the first waiting job of a stream. With its vat
PULPING or RESETTING, or a pulp or vat reset of it begun since the job was admitted, it ends there with that status.
With its press ACTIVE, its mailbox entry its own or FREE, no page under copy that its check reads and a FREE slot, it
enters the lowest FREE slot with the press's next placement number, WAITING or, when a check of R218 fails, ready to
post; other slots, presses and streams stay. With the press not ACTIVE or no FREE slot it waits. -/
def Obligations.JobPlaced : Prop :=
  ∀ (st : StreamId) (s : State) (j : Job) (rest : List Job), (s.stream st).bridge = j :: rest →
    (j.vatPulping = true ∨ (s.vat j.desc.vat.toNat).state = .pulping → ∃ t : State, exec (.jobPlacement st) s = .next t ∧
      ((t.stream st).bridge, (t.stream st).mailboxes) = reserveJobs rest (s.stream st).mailboxes ∧ t.presses = s.presses ∧
      (t.stream st).ended = (s.stream st).ended ++ [{ j with checkStatus := some stVatPulping, cause := 0, state := .posting }]) ∧
    (j.vatPulping = false → (s.vat j.desc.vat.toNat).state ≠ .pulping →
      j.vatResetting = true ∨ (s.vat j.desc.vat.toNat).state = .resetting → ∃ t : State, exec (.jobPlacement st) s = .next t ∧
      ((t.stream st).bridge, (t.stream st).mailboxes) = reserveJobs rest (s.stream st).mailboxes ∧ t.presses = s.presses ∧
      (t.stream st).ended = (s.stream st).ended ++ [{ j with checkStatus := some stVatResetting, cause := 0, state := .posting }]) ∧
    ∀ p : Press, j.vatPulping = false → j.vatResetting = false →
      (s.vat j.desc.vat.toNat).state ≠ .pulping → (s.vat j.desc.vat.toNat).state ≠ .resetting →
      s.physPress j.desc.vat.toNat j.desc.pressIndex.toNat = some p.val →
      ((s.press p).state ≠ .active ∨ freeSlot (s.press p) = none → exec (.jobPlacement st) s = .next s) ∧
      ∀ k, (s.press p).state = .active → freeSlot (s.press p) = some k →
        (∀ e, namedMailbox s p j = some e → j.mailbox.isSome = true ∨ (tget {} (s.stream st).mailboxes e.val).state = .free) →
        placementHeld s j = false → ∃ t : State, exec (.jobPlacement st) s = .next t ∧
          ((t.stream st).bridge.map fun x => x.desc) = (rest.map fun x => x.desc) ∧
          (∃ j', (t.press p).slot k = some j' ∧ (j'.state = .waiting ∨ j'.state = .posting) ∧ j'.desc = j.desc ∧
            j'.sqIndex = j.sqIndex ∧ j'.order = (s.press p).placed) ∧
          (t.press p).placed = (s.press p).placed + 1 ∧ (∀ i, i ≠ k → (t.press p).slot i = (s.press p).slot i) ∧
          (∀ q : Press, q ≠ p → t.press q = s.press q) ∧ (∀ i, i ≠ st.val → t.stream i = s.stream i) ∧
          t.dev = s.dev ∧ t.mgmt = s.mgmt ∧ t.hostMem = s.hostMem

/-- A job that has ended posts once and leaves its slot. COMPLETION_POST of a job in POSTING, its stream keyed and its
function in D0, empties its slot. A job without a mailbox entry writes one sealed 64-byte record with its status at
cqBase + 64 · (CqTail mod entries) under the next outbound counter, and no other byte of host memory; CqTail, the
counter and the unconsumed records advance; a job with a mailbox entry makes the entry VALID with the next Generation
and its status. A job that has not ended, whose signal waits for a held write, or whose function is in D3hot, does not
post. A job that the bridge ended posts from there in order. -/
def Obligations.CompletionsPost : Prop :=
  (∀ (p : Press) (k : Slot) (s : State) (j : Job), (s.press p).slot k = some j →
    j.state ≠ .posting ∨ j.signalDue = true ∨ postsHeld s j.stream = true → exec (.completionPost (.slot p k)) s = .next s) ∧
  (∀ (p : Press) (k : Slot) (s : State) (j : Job) (key : BitVec 128), (s.press p).slot k = some j → j.state = .posting →
    j.signalDue = false → postsHeld s j.stream = false → (s.stream j.stream).key = some key → ∃ t : State,
    exec (.completionPost (.slot p k)) s = .next t ∧ (t.press p).slot k = none ∧
      (t.stream j.stream).outbound = (s.stream j.stream).outbound + 1 ∧
      (j.mailbox = none →
        RecordPosted s t j.stream (jobStatus j) j.desc.epoch j.sqIndex 0 j.desc.hostTag (completionDetail j) false) ∧
      (∀ e, j.mailbox = some e → t.hostMem = s.hostMem ∧ (t.stream j.stream).cqTail = (s.stream j.stream).cqTail ∧
        (tget {} (t.stream j.stream).mailboxes e.val).state = .valid ∧
        (tget {} (t.stream j.stream).mailboxes e.val).status = jobStatus j ∧
        (tget {} (t.stream j.stream).mailboxes e.val).generation =
          (tget {} (s.stream j.stream).mailboxes e.val).generation + 1) ∧
      (∀ i, i ≠ j.stream.val → t.stream i = s.stream i) ∧ t.mgmt = s.mgmt ∧ (NoSwap s → t.hubs = s.hubs ∧ t.dev = s.dev)) ∧
  ∀ (st : StreamId) (s : State) (j : Job) (rest : List Job) (key : BitVec 128), (s.stream st).ended = j :: rest →
    postsHeld s st = false → (s.stream st).key = some key → ∃ t : State,
    exec (.completionPost (.bridge st)) s = .next t ∧ (t.stream st).ended = rest ∧
      (t.stream st).outbound = (s.stream st).outbound + 1 ∧
      (j.mailbox = none →
        RecordPosted s t st (jobStatus j) j.desc.epoch j.sqIndex 0 j.desc.hostTag (completionDetail j) false) ∧
      (j.mailbox.isSome = true → t.hostMem = s.hostMem ∧ (t.stream st).cqTail = (s.stream st).cqTail) ∧
      t.presses = s.presses ∧
      (∀ i, i ≠ st.val → t.stream i = s.stream i) ∧ t.hubs = s.hubs ∧ t.dev = s.dev ∧ t.mgmt = s.mgmt

/-- A write of CqHead returns one credit for each consumed record. With c = (CqHead − previous CqHead) mod 65,536, a write
of CqHead of 4 bytes through the function that serves the stream with c at most the records written and not yet
consumed consumes them: one credit returns for each that is no CREDIT_VIOLATION record and is added to Returned. Any
other write is ignored and counted in DoorbellRejects. -/
def Obligations.RecordsConsumed : Prop :=
  ∀ (a : BarAccess) (st : StreamId) (head : BitVec 16) (s : State), a.size = .four → windowOpen s a.fn.val st.val = true →
    ((head - (s.stream st).cqHead).toNat ≤ (s.stream st).records.length → ∃ t : State,
      exec (.cqHeadWrite ⟨a, st⟩ head) s = .next t ∧
      t.stream st = { s.stream st with
        cqHead := head, records := (s.stream st).records.drop (head - (s.stream st).cqHead).toNat
        returned := (s.stream st).returned + BitVec.ofNat 32
          (((s.stream st).records.take (head - (s.stream st).cqHead).toNat).count false) } ∧
      (∀ i, i ≠ st.val → t.stream i = s.stream i) ∧ t = { s with streams := t.streams }) ∧
    ((s.stream st).records.length < (head - (s.stream st).cqHead).toNat → ∃ t : State,
      exec (.cqHeadWrite ⟨a, st⟩ head) s = .next t ∧
      t.stream st = { s.stream st with doorbellRejects := satInc (s.stream st).doorbellRejects } ∧
      (∀ i, i ≠ st.val → t.stream i = s.stream i) ∧ t = { s with streams := t.streams })

/-- A read of MailboxHead consumes a fill once. A read of 8 bytes of MailboxHead of a VALID entry, through the function
that serves the stream, returns Valid 1, the job's status and the Generation of the fill, makes the entry FREE and
returns its credit; the next waiting jobs of the stream then reserve what they can have, and with no waiting job the
entry stays FREE with its Generation, Epoch, OutputLength and record words. A read of a RESERVED entry returns
NOT_READY and one of a FREE entry EMPTY, which the entries of a FREE stream are, both with Valid 0 and the Generation
of the last fill and without effect. A read of another size returns 0 and consumes nothing. The word has the fields of
R275. -/
def Obligations.MailboxRead : Prop :=
  (∀ (m : Mailbox) (status : BitVec 8) (valid : Bool), mailboxHead m status valid < 2 ^ 64 ∧
    field (mailboxHead m status valid) 63 48 = m.generation.toNat ∧ field (mailboxHead m status valid) 47 40 = status.toNat ∧
    field (mailboxHead m status valid) 39 24 = m.epoch.toNat ∧ field (mailboxHead m status valid) 23 16 = m.outputLength.toNat ∧
    field (mailboxHead m status valid) 15 1 = 0 ∧ field (mailboxHead m status valid) 0 0 = bitOf valid) ∧
  (∀ (a : BarAccess) (st : StreamId) (e : Fin 4) (s : State), a.size ≠ .eight ∨ windowServed s a.fn.val st.val = false →
    exec (.mailboxHeadRead ⟨a, st⟩ e) s = .next { s with bridge := { s.bridge with lastRead := 0 } }) ∧
  ∀ (a : BarAccess) (st : StreamId) (e : Fin 4) (s : State), a.size = .eight → windowServed s a.fn.val st.val = true →
    ((tget {} (s.stream st).mailboxes e.val).state = .valid → ∃ u t : State, exec (.mailboxHeadRead ⟨a, st⟩ e) s = .next t ∧
      t.bridge.lastRead = BitVec.ofNat 64 (mailboxHead (tget {} (s.stream st).mailboxes e.val)
        (tget {} (s.stream st).mailboxes e.val).status true) ∧
      tget {} (u.stream st).mailboxes e.val = { tget {} (s.stream st).mailboxes e.val with state := .free } ∧
      (∀ i, i ≠ e.val → tget {} (u.stream st).mailboxes i = tget {} (s.stream st).mailboxes i) ∧
      u.stream st = { s.stream st with mailboxes := (u.stream st).mailboxes, returned := (s.stream st).returned + 1 } ∧
      (t.stream st).returned = (s.stream st).returned + 1 ∧
      t.stream st = (reserveWaiting st u).stream st ∧ ((s.stream st).bridge = [] → t.stream st = u.stream st) ∧
      (∀ i, i ≠ st.val → t.stream i = s.stream i) ∧
      t = { s with streams := t.streams, bridge := { s.bridge with lastRead := t.bridge.lastRead } }) ∧
    ((tget {} (s.stream st).mailboxes e.val).state = .reserved → exec (.mailboxHeadRead ⟨a, st⟩ e) s =
      .next { s with bridge := { s.bridge with
        lastRead := BitVec.ofNat 64 (mailboxHead (tget {} (s.stream st).mailboxes e.val) stNotReady false) } }) ∧
    ((tget {} (s.stream st).mailboxes e.val).state = .free → exec (.mailboxHeadRead ⟨a, st⟩ e) s =
      .next { s with bridge := { s.bridge with
        lastRead := BitVec.ofNat 64 (mailboxHead (tget {} (s.stream st).mailboxes e.val) stEmpty false) } })

/-- Streamed blocks arrive by pairs, or the job is skewed. BLOCK_POST of 4 bytes, through the function that serves the
stream, sets the posted number of its channel; with no running streamed job of the stream that is all. For the one
running streamed job with a token left, each block of its next pair that verifies with its number has arrived, and one
that verifies with another number has not; a block that does not verify marks the job SEAL_FAIL, which ends once the
tokens that it has started are committed. SKEW_TIMEOUT of a job that has one block of its next pair and not the other
marks it SCALE_SKEW, and it ends once its started tokens are committed; it changes nothing when both or neither have
arrived. JOB_QUERY sets the queried index and nothing else. That the tokens which a job has started are committed
before it ends SEAL_FAIL or SCALE_SKEW is the model's reading (log entry 18). -/
def Obligations.StreamedBlocks : Prop :=
  (∀ (a : BarAccess) (st : StreamId) (c : Channel) (q : BitVec 16) (hw : HostWrites) (s u w : State),
    u = s.hostWrites hw → a.size = .four → windowOpen u a.fn.val st.val = true →
    w.stream st = (match c with
        | .data => { u.stream st with dataPosted := q }
        | .scale => { u.stream st with scalePosted := q }) →
    (∀ i, i ≠ st.val → w.stream i = u.stream i) → w = { u with streams := w.streams } →
    (streamedJobs u st = [] → ∃ t : State, exec (.blockPost ⟨a, st⟩ c q hw) s = .next t ∧ t.stream st = w.stream st ∧
      (∀ i, i ≠ st.val → t.stream i = u.stream i) ∧ t = { u with streams := t.streams }) ∧
    ∀ (p : Press) (k : Slot) (j : Job) (d e : BlockRead), streamedJobs u st = [(p.val, k.val)] →
      (u.press p).slot k = some j → j.sealFail = false → j.scaleSkew = false → j.next < j.m →
      d = blockFound w (clearStale c j) .data (nextBlock u p j) → e = blockFound w (clearStale c j) .scale (nextBlock u p j) →
      ∃ t : State, exec (.blockPost ⟨a, st⟩ c q hw) s = .next t ∧
        (t.stream st).dataPosted = (w.stream st).dataPosted ∧ (t.stream st).scalePosted = (w.stream st).scalePosted ∧
        (∀ i, i ≠ st.val → t.stream i = u.stream i) ∧
        (d = .bad ∨ e = .bad → ∃ j', (t.press p).slot k = some j' ∧ j'.sealFail = true ∧
          (j.leading = j.next → j'.state = .posting) ∧ (j.leading ≠ j.next → j'.state = .running ∧ j'.next = j.next)) ∧
        (d ≠ .bad → e ≠ .bad → ∃ j', (t.press p).slot k = some j' ∧ j'.state = .running ∧
          tget false j'.arrived (channelKey .data (nextBlock u p j)) = decide (d = .arrived) ∧
          tget false j'.arrived (channelKey .scale (nextBlock u p j)) = decide (e = .arrived) ∧
          (∀ l, l ≠ k.val → (t.press p).slot l = (u.press p).slot l) ∧
          t = { u with streams := t.streams, presses := t.presses })) ∧
  (∀ (p : Press) (k : Slot) (s : State) (j : Job), (s.press p).slot k = some j → j.state = .running →
    j.desc.scaleSource = 2 → j.next < j.m → j.sealFail = false →
    (tget false j.arrived (channelKey .data (nextBlock s p j)) ≠ tget false j.arrived (channelKey .scale (nextBlock s p j)) →
      ∃ t : State, exec (.skewTimeout p k) s = .next t ∧ ∃ j', (t.press p).slot k = some j' ∧ j'.scaleSkew = true ∧
        (j.leading = j.next → j'.state = .posting) ∧ (j.leading ≠ j.next → j'.state = .running ∧
          t = { s with presses := t.presses } ∧ ∀ q : Press, q ≠ p → t.press q = s.press q)) ∧
    (tget false j.arrived (channelKey .data (nextBlock s p j)) = tget false j.arrived (channelKey .scale (nextBlock s p j)) →
      exec (.skewTimeout p k) s = .next s)) ∧
  ∀ (a : BarAccess) (st : StreamId) (i : BitVec 16) (s : State), a.size ≠ .other → windowOpen s a.fn.val st.val = true →
    ∃ t : State, exec (.jobQuery ⟨a, st⟩ i) s = .next t ∧ t.stream st = { s.stream st with query := i } ∧
    (∀ n, n ≠ st.val → t.stream n = s.stream n) ∧ t = { s with streams := t.streams }

/-- Functions, power states, vectors and the link. NUMVFS_WRITE takes effect only while every stream of the vats it moves
is FREE, else NumVFs keeps its value. D3hot changes only the function; back in D0 its held messages leave in order.
LINK_TRAINING with PERST# high sets width and speed, counts a retraining after the first and raises LINK_DEGRADED
below x8 or 32 GT/s; LINK_DOWN takes the link down; an AER error is logged, its status bit set, and PCIE_UNCORRECTABLE
raised with the first error pointer, which stays at the first error that has not been cleared. MSIX_UNMASK of 4 bytes
of a vector that the function has, through that function, unmasks it and sends a pending message once. The model's
choices, not the spec's: the place of the AER status bit and how the first error pointer stands until it is cleared
(log entry 73), and what becomes of held messages (log entry 31). -/
def Obligations.FunctionsAndLink : Prop :=
  (∀ (n : Fn) (s : State), (∀ v : Vat, decide (v.val < s.bridge.numVfs.val) ≠ decide (v.val < n.val) →
      ∀ e ∈ s.streams, s.streamVat e.1 = some v.val → e.2.state = .free) →
    exec (.numvfsWrite n) s = .next { s with bridge := { s.bridge with numVfs := n } }) ∧
  (∀ (n : Fn) (s : State), (∃ v : Vat, decide (v.val < s.bridge.numVfs.val) ≠ decide (v.val < n.val) ∧
      ∃ e ∈ s.streams, s.streamVat e.1 = some v.val ∧ e.2.state ≠ .free) → exec (.numvfsWrite n) s = .next s) ∧
  (∀ (f : Fn) (s : State), ∃ t : State, exec (.functionPowerState f true) s = .next t ∧
    t.fn f = { s.fn f with d3hot := true } ∧ (∀ g : Fn, g ≠ f → t.fn g = s.fn g) ∧
    t = { s with bridge := { s.bridge with fns := t.bridge.fns } }) ∧
  (∀ (f : Fn) (s : State), ∃ t : State, exec (.functionPowerState f false) s = .next t ∧
    (t.fn f).d3hot = false ∧ (t.fn f).held = [] ∧
    t = forL (s.fn f).held (fun vec r => sendMsix f.val vec r) (s.updFn f.val fun r => { r with d3hot := false, held := [] }) ∧
    (∀ vec, tget false (s.fn f).unmasked vec = true →
      tget 0 (t.fn f).sent vec = tget 0 (s.fn f).sent vec + (s.fn f).held.count vec) ∧
    (∀ vec, vec ∈ (s.fn f).held → tget false (s.fn f).unmasked vec = false → tget false (t.fn f).pendingBits vec = true) ∧
    (∀ g : Fn, g ≠ f → t.fn g = s.fn g) ∧ t = { s with bridge := { s.bridge with fns := t.bridge.fns } }) ∧
  (∀ (w : LinkWidth) (g : LinkSpeed) (s : State), s.dev.perstHigh = true → s.dev.started = true → ∃ t : State,
    exec (.linkTraining w g) s = .next t ∧
    t.bridge = { s.bridge with
      link := some (w, g), trainedOnce := true
      linkRetrains := if s.bridge.trainedOnce then satInc s.bridge.linkRetrains else s.bridge.linkRetrains } ∧
    (w ≠ .x8 ∨ g ≠ .gt32 → Logged s t evLinkDegraded none none none (leBytes 2 (linkWord (some (w, g))))) ∧
    (w = .x8 → g = .gt32 → t.events = s.events) ∧ t = { s with bridge := t.bridge, events := t.events }) ∧
  (∀ s : State, exec .linkDown s = .next { s with bridge := { s.bridge with link := none } }) ∧
  (∀ (ptr : BitVec 8) (s : State), ∃ t : State, exec (.aerErrorLogged ptr) s = .next t ∧
    Logged s t evPcieUncorrectable none none none [s.bridge.aer.getD ptr] ∧
    t = { s with
      bridge := { s.bridge with aer := some (s.bridge.aer.getD ptr), aerStatus := s.bridge.aerStatus ||| BitVec.ofNat 32 (2 ^ ptr.toNat) }
      events := t.events }) ∧
  ∀ (a : BarAccess) (f : Fn) (vec : Fin 32) (s : State), a.fn = f → a.size = .four → fnDecodes s f.val = true →
    vec.val < vectorsOf f → ∃ t : State, exec (.msixUnmask a vec) s = .next t ∧ tget false (t.fn f).unmasked vec.val = true ∧
    tget false (t.fn f).pendingBits vec.val = false ∧
    tget 0 (t.fn f).sent vec.val = tget 0 (s.fn f).sent vec.val + bitOf (tget false (s.fn f).pendingBits vec.val) ∧
    (∀ i, i ≠ vec.val → tget false (t.fn f).unmasked i = tget false (s.fn f).unmasked i ∧
      tget false (t.fn f).pendingBits i = tget false (s.fn f).pendingBits i ∧
      tget 0 (t.fn f).sent i = tget 0 (s.fn f).sent i) ∧
    (∀ g : Fn, g ≠ f → t.fn g = s.fn g) ∧ t = { s with bridge := { s.bridge with fns := t.bridge.fns } }

/-- StagingPages and RetireAtStart. STAGING_PAGES_WRITE by M is refused with STATE while the vat holds a ream or a load
that is FETCHING or STAGED, and with RANGE above the quota of a vat that is not OFF; else the vat has n staging pages,
the last n pages of its quota are its staging area, and a page that changes use reads zeros while every other page
keeps its bytes. RETIRE_AT_START by M is refused with LENGTH for a piece of more than 1,024 bytes or that is no
sequence of words in 4,096 bytes, with STATE once a vat has been configured, with RANGE for a frame that does not
exist or holds the map; else each frame that it names and that is not OWNED is RETIRED, and no other frame changes.
RANGE for a frame that holds the map and for a number of 2^24 and above is the model's choice (log entry 54). -/
def Obligations.StagingAndRetiredFrames : Prop :=
  (∀ (v : Vat) (n : BitVec 32) (s : State), s.dev.started = true →
    ((s.vat v).active.isSome = true ∨ (s.vat v).pendingReam.isSome = true ∨ (s.vat v).load.state = .fetching ∨
      (s.vat v).load.state = .staged → exec (.stagingPagesWrite .M v n) s = .next (s.answer resState)) ∧
    ((s.vat v).active = none → (s.vat v).pendingReam = none → (s.vat v).load.state ≠ .fetching →
      (s.vat v).load.state ≠ .staged →
      ((s.vat v).state ≠ .off → (s.vat v).quotaPages.toNat < n.toNat →
        exec (.stagingPagesWrite .M v n) s = .next (s.answer resRange)) ∧
      ((s.vat v).state = .off ∨ n.toNat ≤ (s.vat v).quotaPages.toNat → twf ({} : PageEntry) s.hubs.map = true →
        ∃ t : State, exec (.stagingPagesWrite .M v n) s = .next (t.answer resOk) ∧
        t.vat v = { s.vat v with stagingPages := n } ∧ (∀ w : Vat, w ≠ v → t.vat w = s.vat w) ∧
        (∀ f, 65536 ≤ f → (s.pageEntry f).state = .owned → (s.pageEntry f).vat = v.val →
          t.pageEntry f = { s.pageEntry f with use := useOfPage (t.vat v) (s.pageEntry f).vatPage } ∧
          ((t.pageEntry f).use = (s.pageEntry f).use → t.frameRead f 0 2048 = s.frameRead f 0 2048) ∧
          ((t.pageEntry f).use ≠ (s.pageEntry f).use → t.frameRead f 0 2048 = List.replicate 2048 0)) ∧
        (∀ f, f < 65536 ∨ (s.pageEntry f).state ≠ .owned ∨ (s.pageEntry f).vat ≠ v.val →
          t.pageEntry f = s.pageEntry f ∧ t.frameRead f 0 2048 = s.frameRead f 0 2048) ∧
        t = { s with vats := t.vats, hubs := t.hubs }))) ∧
  ∀ (off : Nat) (data : List Byte) (s : State), s.dev.started = true →
    (1024 < data.length ∨ off % 4 ≠ 0 ∨ data.length % 4 ≠ 0 ∨ 4096 < off + data.length →
      exec (.retireAtStart .M off data) s = .next (s.answer resLength)) ∧
    (data.length ≤ 1024 → off % 4 = 0 → data.length % 4 = 0 → off + data.length ≤ 4096 →
      (s.hubs.everConfigured = true → exec (.retireAtStart .M off data) s = .next (s.answer resState)) ∧
      (s.hubs.everConfigured = false → (∃ i, 4 * i < data.length ∧
        (leAt data (4 * i) 4 < 65536 ∨ 16777216 ≤ leAt data (4 * i) 4)) →
        exec (.retireAtStart .M off data) s = .next (s.answer resRange)) ∧
      (s.hubs.everConfigured = false → s.hubs.copies = [] → (∀ i, 4 * i < data.length → 65536 ≤ leAt data (4 * i) 4 ∧
        leAt data (4 * i) 4 < 16777216 ∧ (s.pageEntry (leAt data (4 * i) 4)).state ≠ .owned) →
        ∃ t : State, exec (.retireAtStart .M off data) s = .next (t.answer resOk) ∧
          (∀ i, 4 * i < data.length → (t.pageEntry (leAt data (4 * i) 4)).state = .retired) ∧
          (∀ f, (∀ i, 4 * i < data.length → leAt data (4 * i) 4 ≠ f) → t.pageEntry f = s.pageEntry f) ∧
          t.hubs.mem = s.hubs.mem ∧ t = { s with hubs := t.hubs, events := t.events }))

/-- COUNTER_SET, polling and claims. COUNTER_SET (R237) waits for an empty claim ledger, then sets Value 0, Limit M and an
empty return list, and its job ends DONE. A poll lets a waiting job go on once the counter has reached WaitValue. A
claim fetch-add, or the retry after LEDGER_FULL, of a running claimed job without a chunk takes the oldest returned
index, else the Value, which it advances, and notes the claim in the ledger; with a full ledger the job waits; with
Value at Limit and no returned index the job ends. No other counter, press or job changes. That a full ledger answers
before an exhausted counter does is the model's reading (log entry 17). -/
def Obligations.CountersAndClaims : Prop :=
  (∀ (p : Press) (k : Slot) (s : State) (j : Job), (s.press p).slot k = some j → j.desc.opcode = opCounterSet →
    startReady s p j = true → pressIssues s p = true →
    ((s.counter (counterNo j.desc.vat.toNat j.desc.claimCounter.toNat)).ledger ≠ [] →
      exec (.counterSet p k) s = .next s) ∧
    ((s.counter (counterNo j.desc.vat.toNat j.desc.claimCounter.toNat)).ledger = [] → usedFields j.desc = j.desc →
      CleanJob j → ∃ t : State, exec (.counterSet p k) s = .next t ∧
        t.counter (counterNo j.desc.vat.toNat j.desc.claimCounter.toNat) = { limit := BitVec.ofNat 64 j.m } ∧
        (∀ c, c ≠ counterNo j.desc.vat.toNat j.desc.claimCounter.toNat → t.counter c = s.counter c) ∧
        JobEnded s t p k j (jobStatus j) ∧ (j.reissued = false → jobStatus j = stDone) ∧
        (∀ q : Press, q ≠ p → t.press q = s.press q) ∧
        PressKept (s.press p) (t.press p) ∧ t = { s with counters := t.counters, presses := t.presses })) ∧
  (∀ (p : Press) (k : Slot) (s : State) (j : Job), (s.press p).slot k = some j →
    (j.state = .waiting → j.counterMet = false → j.desc.waitValue.toNat ≤
        (s.counter (counterNo j.desc.vat.toNat j.desc.syncCounter.toNat)).value.toNat →
      ∃ t : State, exec (.counterPoll p k) s = .next t ∧ (t.press p).slot k = some { j with counterMet := true } ∧
        (∀ i, i ≠ k.val → (t.press p).slot i = (s.press p).slot i) ∧ (∀ q : Press, q ≠ p → t.press q = s.press q) ∧
        PressKept (s.press p) (t.press p) ∧ t = { s with presses := t.presses }) ∧
    (j.counterMet = true ∨ (s.counter (counterNo j.desc.vat.toNat j.desc.syncCounter.toNat)).value.toNat <
        j.desc.waitValue.toNat → exec (.counterPoll p k) s = .next s)) ∧
  ∀ (p : Press) (k : Slot) (s : State) (j : Job) (c : Nat) (r : Counter) (cmd : Instr), (s.press p).slot k = some j →
    j.state = .running → j.desc.claimed = true → j.chunk = none → pressIssues s p = true →
    c = counterNo j.desc.vat.toNat j.desc.claimCounter.toNat → r = s.counter c →
    (cmd = .claimFetchAdd p k ∧ j.ledgerFull = false) ∨ (cmd = .ledgerFullRetry p k ∧ j.ledgerFull = true) →
    (256 ≤ r.ledger.length → ∃ t : State, exec cmd s = .next t ∧
      (t.press p).slot k = some { j with ledgerFull := true } ∧ t = { s with presses := t.presses } ∧
      ∀ q : Press, q ≠ p → t.press q = s.press q) ∧
    (∀ i, r.ledger.length < 256 →
      (r.returns.head? = some i ∨ (r.returns = [] ∧ r.value < r.limit ∧ i = r.value.toNat)) → i < j.limit →
      ∃ t : State, exec cmd s = .next t ∧
        (t.press p).slot k = some { j with
          chunk := some i, next := 0, doneTokens := 0, tokensDone := [], arrived := [], stale := [], hostDone := [], fed := []
          ledgerFull := false } ∧
        t.counter c = { r with
          ledger := r.ledger ++ [(p, i)], returns := r.returns.tail
          value := if r.returns = [] then r.value + 1 else r.value } ∧
        (∀ n, n ≠ c → t.counter n = s.counter n) ∧ (∀ n, n ≠ k.val → (t.press p).slot n = (s.press p).slot n) ∧
        (∀ q : Press, q ≠ p → t.press q = s.press q) ∧ t = { s with counters := t.counters, presses := t.presses }) ∧
    (r.ledger.length < 256 → r.returns = [] → r.limit ≤ r.value → CleanJob j → hostRanges s p j = [] →
      ∃ t : State, exec cmd s = .next t ∧ JobEnded s t p k j (jobStatus j) ∧ (t.counter c).ledger = r.ledger ∧
        (∀ q : Press, q ≠ p → t.press q = s.press q) ∧ PressKept (s.press p) (t.press p) ∧
        (j.desc.signalOnDone = false → t.counters = s.counters) ∧
        t = { s with counters := t.counters, presses := t.presses })

/-- Remote operations reach counters, scratch and package memory. An operation of a press that belongs to its vat, or of
the host bridge, to a counter adds, adds and answers the old value, or compares and swaps, and signals add 1; put and
get write and read the scratch of the vat's press and the vat's pages. Nothing else changes. An operation to a press
that is RETIRING is held in order of arrival; one to a page under copy waits with the page, and of one over several
pages each page under copy holds its part while the others take effect; one beyond the vat's quota and one of a press
of another vat have no effect. -/
def Obligations.RemoteOperations : Prop :=
  (∀ (op : RemoteOp) (s : State), issuerOk s op = false → exec (.remoteOperation op) s = .next s) ∧
  (∀ (op : RemoteOp) (s : State), issuerOk s op = true → destinationHeld s op = true →
    exec (.remoteOperation op) s = .next { s with heldOps := s.heldOps ++ [op] }) ∧
  (∀ (src : Option (Press × Slot)) (v : Vat) (c : Fin 512) (s : State), issuerOk s ⟨src, v, .counter c, .signal⟩ = true →
    (∀ x : BitVec 64,
      (∃ t : State, exec (.remoteOperation ⟨src, v, .counter c, .add x⟩) s = .next t ∧ t.remoteReply = [] ∧
        t.counter (512 * v.val + c) = { s.counter (512 * v.val + c) with value := (s.counter (512 * v.val + c)).value + x } ∧
        (∀ n, n ≠ 512 * v.val + c.val → t.counter n = s.counter n) ∧
        t = { s with counters := t.counters, remoteReply := t.remoteReply }) ∧
      (∃ t : State, exec (.remoteOperation ⟨src, v, .counter c, .fetchAdd x⟩) s = .next t ∧
        t.remoteReply = leBytes 8 (s.counter (512 * v.val + c)).value.toNat ∧
        t.counter (512 * v.val + c) = { s.counter (512 * v.val + c) with value := (s.counter (512 * v.val + c)).value + x } ∧
        (∀ n, n ≠ 512 * v.val + c.val → t.counter n = s.counter n) ∧
        t = { s with counters := t.counters, remoteReply := t.remoteReply }) ∧
      (∀ e : BitVec 64, ∃ t : State, exec (.remoteOperation ⟨src, v, .counter c, .compareSwap e x⟩) s = .next t ∧
        t.remoteReply = leBytes 8 (s.counter (512 * v.val + c)).value.toNat ∧
        (t.counter (512 * v.val + c)).value =
          (if (s.counter (512 * v.val + c)).value = e then x else (s.counter (512 * v.val + c)).value) ∧
        (∀ n, n ≠ 512 * v.val + c.val → t.counter n = s.counter n) ∧
        t = { s with counters := t.counters, remoteReply := t.remoteReply })) ∧
    ∃ t : State, exec (.remoteOperation ⟨src, v, .counter c, .signal⟩) s = .next t ∧
      (t.counter (512 * v.val + c)).value = (s.counter (512 * v.val + c)).value + 1 ∧
      (∀ n, n ≠ 512 * v.val + c.val → t.counter n = s.counter n) ∧
      t = { s with counters := t.counters, remoteReply := t.remoteReply }) ∧
  (∀ (src : Option (Press × Slot)) (v : Vat) (e : Fin 64) (o : BitVec 20) (d : List Byte) (q : Press) (s : State),
    issuerOk s ⟨src, v, .scratch e o, .put d⟩ = true → s.physPress v e = some q.val → (s.press q).state ≠ .retiring →
    o.toNat + d.length ≤ 0xB0000 →
    (∃ t : State, exec (.remoteOperation ⟨src, v, .scratch e o, .put d⟩) s = .next t ∧ ScratchWritten s t q o.toNat d ∧
      t.press q = { s.press q with scratch := (t.press q).scratch } ∧ (∀ r : Press, r ≠ q → t.press r = s.press r) ∧
      t = { s with presses := t.presses, remoteReply := [] }) ∧
    exec (.remoteOperation ⟨src, v, .scratch e o, .get d.length⟩) s =
      .next { s with remoteReply := tgetN 0 (s.press q).scratch o.toNat d.length }) ∧
  (∀ (src : Option (Press × Slot)) (v : Vat) (a : BitVec 46) (n : Nat) (o : RemoteOp) (s : State), issuerOk s o = true →
    (∃ d : List Byte, d.length = n ∧ o = ⟨src, v, .package a, .put d⟩) ∨ o = ⟨src, v, .package a, .get n⟩ →
    ((s.vat v).quotaPages.toNat * 2048 < a.toNat + n → exec (.remoteOperation o) s = .next s) ∧
    (a.toNat + n ≤ (s.vat v).quotaPages.toNat * 2048 → s.copying v a.toNat n = true → (pageParts a.toNat n).length = 1 →
      exec (.remoteOperation o) s = .next (holdRequest v a.toNat n (.remote o) s))) ∧
  (∀ (src : Option (Press × Slot)) (v : Vat) (a : BitVec 46) (d : List Byte) (s : State),
    issuerOk s ⟨src, v, .package a, .put d⟩ = true → a.toNat + d.length ≤ (s.vat v).quotaPages.toNat * 2048 →
    s.badPage v a.toNat d.length = none → s.copying v a.toNat d.length = true → (pageParts a.toNat d.length).length ≠ 1 →
    (∃ t : State, exec (.remoteOperation ⟨src, v, .package a, .put d⟩) s = .next t ∧ t.remoteReply = [] ∧
      (∀ e ∈ pagePieces a.toNat d, s.copying v e.1 e.2.length = false → t.pkgRead v e.1 e.2.length = e.2) ∧
      (∀ e ∈ pagePieces a.toNat d, s.copying v e.1 e.2.length = true →
        t.pkgRead v e.1 e.2.length = s.pkgRead v e.1 e.2.length ∧ ∃ c ∈ t.hubs.copies, c.vat = v ∧
          .remote ⟨src, v, .package (BitVec.ofNat 46 e.1), .put e.2⟩ ∈ c.held) ∧
      (∀ (w : Vat) (b : Nat), w ≠ v ∨ b < a.toNat ∨ a.toNat + d.length ≤ b → t.pkgRead w b 1 = s.pkgRead w b 1) ∧
      t = { s with hubs := t.hubs, vats := t.vats, remoteReply := [] }) ∧
    (s.badWord v a.toNat d.length = none → ∃ (t : State) (g : Nat),
      exec (.remoteOperation ⟨src, v, .package a, .get d.length⟩) s = .next t ∧ t.remoteReply = s.remoteReply ∧
      (∀ e ∈ pageParts a.toNat d.length, s.copying v e.1 e.2 = true →
        ∃ c ∈ t.hubs.copies, c.vat = v ∧ .part g e.1 e.2 ∈ c.held) ∧
      (s.hubs.gathers = [] → t.hubs.gathers =
        [{ id := g, op := ⟨src, v, .package a, .get d.length⟩
           parts := ((pageParts a.toNat d.length).filter fun e => !s.copying v e.1 e.2).map fun e =>
             (e.1, some (s.pkgRead v e.1 e.2)) }]) ∧
      t.hubs.mem = s.hubs.mem ∧ t.hubs.map = s.hubs.map ∧ t = { s with hubs := t.hubs, vats := t.vats })) ∧
  ∀ (src : Option (Press × Slot)) (v : Vat) (a : BitVec 46) (d : List Byte) (s : State),
    issuerOk s ⟨src, v, .package a, .put d⟩ = true → a.toNat + d.length ≤ (s.vat v).quotaPages.toNat * 2048 →
    s.badPage v a.toNat d.length = none → s.copying v a.toNat d.length = false →
    (∃ t : State, exec (.remoteOperation ⟨src, v, .package a, .put d⟩) s = .next t ∧ t.pkgRead v a.toNat d.length = d ∧
      (∀ (w : Vat) (b : Nat), w ≠ v ∨ b < a.toNat ∨ a.toNat + d.length ≤ b → t.pkgRead w b 1 = s.pkgRead w b 1) ∧
      t.hubs = { s.hubs with mem := t.hubs.mem, poison := t.hubs.poison } ∧ (∀ w : Vat, w ≠ v → t.vat w = s.vat w) ∧
      t.vat v = { s.vat v with exact := (t.vat v).exact } ∧
      t = { s with hubs := t.hubs, vats := t.vats, remoteReply := [] }) ∧
    (s.badWord v a.toNat d.length = none → ∃ t : State,
      exec (.remoteOperation ⟨src, v, .package a, .get d.length⟩) s = .next t ∧
      t.remoteReply = s.pkgRead v a.toNat d.length ∧ t.vat v = { s.vat v with exact := (t.vat v).exact } ∧
      (∀ w : Vat, w ≠ v → t.vat w = s.vat w) ∧ t = { s with vats := t.vats, remoteReply := t.remoteReply })

/-- Vector jobs start one at a time in placement order. A vector command for a waiting job of its VectorOp whose waits are
over, on a press that issues, with no earlier vector job, runs it as if it were RUNNING; while a wait holds, the press
does not issue or an earlier vector job has not ended, or for a job of another VectorOp, it changes nothing. -/
def Obligations.VectorJobsWait : Prop :=
  ∀ (p : Press) (k : Slot) (s : State) (j : Job) (v : VectorParams) (e : Nat × Instr), e ∈ vectorCommands p k →
    (s.press p).slot k = some j → j.desc.opcode = opVector → j.vp = some v →
    (v.op.toNat ≠ e.1 → exec e.2 s = .next s) ∧
    (((earlier (s.press p) j).any fun x => decide (x.2.desc.opcode = opVector)) = true → exec e.2 s = .next s) ∧
    (j.state = .waiting → j.barrier = false → startReady s p j = false ∨ pressIssues s p = false →
      exec e.2 s = .next s) ∧
    (v.op.toNat = e.1 → ((earlier (s.press p) j).any fun x => decide (x.2.desc.opcode = opVector)) = false →
      startReady s p j = true → pressIssues s p = true →
      exec e.2 s = exec e.2 (s.setSlot p k (some { j with state := .running })))

/-- A vector job's result lands where Dst says and the job ends. When an operation with one result at a scratch address of
a press of the vat that is not RETIRING ends, the bytes stand there and no other scratch byte changes; its job waits
to be posted with the status its outcomes give, the other slots and presses stay, and neither package nor host memory,
streams nor events change. -/
def Obligations.VectorResultsLand : Prop :=
  ∀ (p k : Nat) (s t : State) (j : Job) (v : VectorParams) (rs : List Range) (x : VecResult) (e o q : Nat) (bytes : List Byte),
    (s.press p).slot k = some j → CleanJob j → j.desc.opcode = opVector → j.vp = some v → v.op.toNat ≠ vopAdamw →
    v.op.toNat ≠ vopSgdm → hostRanges s p j = [] → x.outs = [(.scratch e o, bytes)] →
    s.physPress j.desc.vat.toNat e = some q → (s.press q).state ≠ .retiring → t = endVector p k j v rs x s →
    JobEnded s t p k j (jobStatus { j with rescaled := x.rescaled }) ∧ ScratchWritten s t q o bytes ∧
      (∀ r, r ≠ q → (t.press r).scratch = (s.press r).scratch) ∧ (∀ r, r ≠ p → r ≠ q → t.press r = s.press r) ∧
      (∀ r, PressKept (s.press r) (t.press r)) ∧ (∀ w, t.vat w = { s.vat w with exact := (t.vat w).exact }) ∧
      (∀ w, w ≠ j.desc.vat.toNat → t.vat w = s.vat w) ∧
      (∀ c, c ≠ counterNo j.desc.vat.toNat j.desc.syncCounter.toNat → t.counter c = s.counter c) ∧
      t = { s with free := t.free, presses := t.presses, vats := t.vats, counters := t.counters }

/-- Elementwise operations, CONVERT and QUANTISE. EW_ADD, EW_MUL and EW_FMA give at each position the sum, the product,
and the product of the first two plus the third with one rounding; CONVERT the element. An element of a format that is
no block stands at its position as the word that OutFormat gives its value. QUANTISE writes a scale for each row and
INT8 codes. Each asks its class for the energy of its lane operations and waits while that is not wholly admitted;
then it reads the ranges its parameters name, and a read that fails ends the job, while one that a copy holds is made
again. That the energy of a job is admitted over as many windows as it needs, what has been admitted staying so, is
the model's choice (log entry 93). -/
def Obligations.ElementwiseJobs : Prop :=
  RunsAs .ewAdd vopAdd (ewRead 2) (ewOut 2 fun l => (fAt l 0).add (fAt l 1)) ∧
  RunsAs .ewMul vopMul (ewRead 2) (ewOut 2 fun l => (fAt l 0).mul (fAt l 1)) ∧
  RunsAs .ewFma vopFma (ewRead 3) (ewOut 3 fun l => ((fAt l 0).mul (fAt l 1)).add (fAt l 2)) ∧
  RunsAs .convert vopConvert (ewRead 1) (ewOut 1 fun l => fAt l 0) ∧
  RunsAs .quantise vopQuantise quantiseRead quantiseOut ∧
  (∀ (n : Nat) (f : List FVal → FVal) (c : VecCtx) (v : VectorParams) (ls : List (List Byte)) (i : Nat),
    v.outFormat.toNat < 8 → i < vecElems v →
    (ewOut n f c v ls).outs.map Prod.fst = [vaddr v.dst] ∧
    ∀ bytes ∈ (ewOut n f c v ls).outs.map Prod.snd,
      leAt bytes (i * fmtBytes v.outFormat.toNat) (fmtBytes v.outFormat.toNat) =
        elemWord c v.outFormat.toNat i (f ((ls.take n).map fun l =>
          fAt (elemsOf c v.inFormat.toNat v.decodeBook.toNat (vecElems v) l) i)) %
          2 ^ (8 * fmtBytes v.outFormat.toNat)) ∧
  ∀ (c : VecCtx) (v : VectorParams) (ls : List (List Byte)),
    (quantiseOut c v ls).outs.map (fun o => (o.1, o.2.length)) =
      [(vaddr v.src1, 2 * v.rowCount.toNat), (vaddr v.dst, vecElems v)]

/-- Reductions, row operations, attention, top-k and optimiser steps. REDUCE_PARTIAL, SOFTMAX, LAYERNORM, RMSNORM,
ATTN_MERGE, TOPK, OPT_ADAMW and OPT_SGDM each of them, once its energy is admitted, reads what its parameters name and
writes what the operation gives; ATTENTION reads the queries and the page list, then the pages. With OutFormat
PARTIAL, a job of REDUCE_PARTIAL that is not RESCALED writes words whose values are the exact sums. SOFTMAX writes
RNE(p̂ / D) of R202, LAYERNORM and RMSNORM the outputs of R203 from the row's statistics; ATTENTION writes its scores,
the weighted sums of the values and with KeepStats M and D, and ATTN_MERGE the weighted sums of the parts, every sum
by fused multiply-add in some order; OPT_ADAMW and OPT_SGDM write the new weights and moments of R209. TOPK writes
Count entries: the greatest elements that qualify (the smallest with TopKMin), up to Count, in order, equal values by
lower position first, then entries of value 0 and position 0xFFFFFFFF. The model's choices: that the energy of a job
is admitted over as many windows as it needs (log entry 93), and how NaN and infinities count in x and z of R202, what
TOPK_ENTRY values are compared as, and how a table's result is rounded (log entry 97). -/
def Obligations.RowAndListJobs : Prop :=
  RunsAs .reducePartial vopReduce reduceRead reduceOut ∧ RunsAs .softmax vopSoftmax softmaxRead softmaxOut ∧
  RunsAs .layernorm vopLayernorm layernormRead layernormOut ∧ RunsAs .rmsnorm vopRmsnorm rmsnormRead rmsnormOut ∧
  RunsAs .attnMerge vopMerge mergeRead mergeOut ∧ RunsAs .topk vopTopk topkRead topkOut ∧
  RunsAs .optAdamw vopAdamw adamwRead adamwOut ∧ RunsAs .optSgdm vopSgdm sgdmRead sgdmOut ∧
  (∀ (p : Press) (k : Slot) (s u w : State) (j : Job) (v : VectorParams) (ls keys vals : List (List Byte)),
    VectorRuns s p k vopAttention j v → VectorPays s u w p k vopAttention j v true →
    readRanges w p j (attentionRead v) = .ok ls → readRanges w p j (pageRanges v (inp ls 1) 0) = .ok keys →
    readRanges w p j (pageRanges v (inp ls 1) (pagesOf v)) = .ok vals → ∃ t : State,
    exec (.attention p k) s = .next t ∧
      t = endVector p k j v (attentionRead v ++ pageRanges v (inp ls 1) 0 ++ pageRanges v (inp ls 1) (pagesOf v))
        (attentionOut (vecCtx w p j v) v (inp ls 0) keys.flatten vals.flatten) w ∧ t.gov = u.gov ∧
      (∃ j', (t.press p).slot k = some j' ∧ j'.state = .posting ∧ j'.desc = j.desc) ∧
      (∀ i, i ≠ k.val → (t.press p).slot i = (s.press p).slot i) ∧ ControlSame s t) ∧
  (∀ (c : VecCtx) (v : VectorParams) (ls : List (List Byte)), v.outFormat.toNat = 8 → (reduceOut c v ls).rescaled = false →
    ∀ bytes ∈ (reduceOut c v ls).outs.map Prod.snd, ∀ i, i < vecElems v →
      partialValue (leAt bytes (8 * i) 8) =
        lsum ((List.range v.count.toNat).map fun n => partialValue (leAt (inp ls 0) (8 * (n * vecElems v + i)) 8))) ∧
  (∀ (c : VecCtx) (v : VectorParams) (ls : List (List Byte)), ∃ ys : List FVal, ys.length = vecElems v ∧
    (softmaxOut c v ls).outs = [(vaddr v.dst, arrayOut c v.outFormat.toNat ys (inp ls 1))] ∧
    ∀ r i, r < v.rowCount.toNat → i < v.rowLength.toNat → ∃ (m : FVal) (p : Nat → Nat) (d : Nat),
      SoftmaxRow ((sourceRow c v ls r).map (softmaxZ (h16 (lget 0 v.params 0)))) m p d ∧
      (d = 0 → fAt ys (v.rowLength.toNat * r + i) = fZero) ∧
      (d ≠ 0 → fAt ys (v.rowLength.toNat * r + i) = fv (mkFrac (p i) d))) ∧
  (∀ (c : VecCtx) (v : VectorParams) (ls : List (List Byte)), ∃ ys : List FVal, ys.length = vecElems v ∧
    (layernormOut c v ls).outs = [(vaddr v.dst, arrayOut c v.outFormat.toNat ys (inp ls 3))] ∧
    ∀ r i (x g b y : FVal), r < v.rowCount.toNat → i < v.rowLength.toNat → x = fAt (sourceRow c v ls r) i →
      g = fAt (halves v.rowLength.toNat (inp ls 1)) i → b = fAt (halves v.rowLength.toNat (inp ls 2)) i →
      y = fAt ys (v.rowLength.toNat * r + i) →
      (x = .nan → y = .nan) ∧
      (x ≠ .nan → (maxFrac ((sourceRow c v ls r).map magOf)).num = 0 → y = b) ∧
      (x ≠ .nan → (maxFrac ((sourceRow c v ls r).map magOf)).num ≠ 0 → ∃ mu q var, RowStats (sourceRow c v ls r) mu q ∧
        var = q.add (mu.mul mu).neg ∧ y = (((x.add (fv mu.neg)).mul (rne16 ((fInt 1).div (fsqrt
          ((fv (if var.num < 0 then ⟨0, 1⟩ else var)).add (h16 (lget 0 v.params 0))))))).mul g).add b)) ∧
  (∀ (c : VecCtx) (v : VectorParams) (ls : List (List Byte)), ∃ ys : List FVal, ys.length = vecElems v ∧
    (rmsnormOut c v ls).outs = [(vaddr v.dst, arrayOut c v.outFormat.toNat ys (inp ls 2))] ∧
    ∀ r i (x g y : FVal), r < v.rowCount.toNat → i < v.rowLength.toNat → x = fAt (sourceRow c v ls r) i →
      g = fAt (halves v.rowLength.toNat (inp ls 1)) i → y = fAt ys (v.rowLength.toNat * r + i) →
      (x = .nan → y = .nan) ∧
      (x ≠ .nan → (maxFrac ((sourceRow c v ls r).map magOf)).num = 0 → y = fZero) ∧
      (x ≠ .nan → (maxFrac ((sourceRow c v ls r).map magOf)).num ≠ 0 → ∃ mu q, RowStats (sourceRow c v ls r) mu q ∧
        y = (x.mul (rne16 ((fInt 1).div (fsqrt ((fv q).add (h16 (lget 0 v.params 0))))))).mul g)) ∧
  (∀ (c : VecCtx) (v : VectorParams) (q keys vals : List Byte) (l d n : Nat), l = v.rowLength.toNat → d = v.headDim.toNat →
    n = v.rowCount.toNat → ∃ (score : Nat → Nat → FVal) (work out : List Byte),
    (attentionOut c v q keys vals).outs = [(vaddr v.src2, work), (vaddr v.dst, out)] ∧
    (∀ x t, x < n → t < l → (∃ order : List Nat, order.Perm (List.range d) ∧
        score x t = rne16 ((h16 (lget 0 v.params 0)).mul (rne16 (fmaIn (fun i => fAt (halves (n * d) q) (x * d + i))
          (fun i => fAt (elemsOf c v.inFormat.toNat v.decodeBook.toNat (l * d) keys) (t * d + i)) fZero order)))) ∧
      leAt work (2 * (x * l + t)) 2 = encodeF fp16 (score x t) % 65536) ∧
    ∀ x, x < n → ∃ (m : FVal) (p : Nat → Nat) (dd : Nat),
      SoftmaxRow (((List.range l).map (score x)).map (softmaxZ (fInt 1))) m p dd ∧
      (∀ i, i < d → ∃ (order : List Nat) (r : Nat), order.Perm (List.range l) ∧
        leAt out (2 * (x * d + i)) 2 = encodeF fp16 (fmaIn (fun t => rne16 (softmaxY dd (p t)))
          (fun t => fAt (elemsOf c v.inFormat.toNat v.decodeBook.toNat (l * d) vals) (t * d + i)) fZero order)
          (c.rnd r) % 65536) ∧
      (v.keepStats = true → leAt out (2 * n * d + 6 * x) 2 = encodeF fp16 m % 65536 ∧
        leAt out (2 * n * d + 6 * x + 2) 4 = dd % 2 ^ 32)) ∧
  (∀ (c : VecCtx) (v : VectorParams) (ls : List (List Byte)) (d n k size : Nat) (m dd : Nat → Nat → FVal),
    d = v.headDim.toNat → n = v.rowCount.toNat → k = v.count.toNat → size = 2 * n * d + 6 * n →
    m = (fun x j => decodeF fp16 (leAt (inp ls 0) (j * size + 2 * n * d + 6 * x) 2)) →
    dd = (fun x j => fInt (leAt (inp ls 0) (j * size + 2 * n * d + 6 * x + 2) 4)) → ∃ out : List Byte,
    (mergeOut c v ls).outs = [(vaddr v.dst, out)] ∧ out.length = 2 * n * d ∧
    ∀ x i, x < n → i < d → ∃ (top sum : FVal) (w : Nat → FVal) (order : List Nat), order.Perm (List.range k) ∧
      top = ((List.range k).map (m x)).foldl maxNan (.inf true) ∧
      sum = ((List.range k).map fun j => (dd x j).mul (fexp ((m x j).add top.neg))).foldl FVal.add fZero ∧
      (∀ j, j < k → w j = rne16 (((dd x j).mul (fexp ((m x j).add top.neg))).div sum)) ∧
      leAt out (2 * (x * d + i)) 2 = encodeF fp16 (fmaIn w
        (fun j => decodeF fp16 (leAt (inp ls 0) (j * size + 2 * (x * d + i)) 2)) fZero order) (c.rnd (x * d + i)) % 65536) ∧
  (∀ (c : VecCtx) (v : VectorParams) (ls : List (List Byte)) (l : Nat), l = v.rowLength.toNat →
    ∃ (w : List Byte) (m' q' : List FVal), m'.length = l ∧ q'.length = l ∧ w.length = 2 * l ∧ (adamwOut c v ls).outs =
      [(vaddr v.src0, w), (vaddr v.src2, writeBlocks c false l m' ((inp ls 2).drop l)),
        (vaddr v.dst, writeBlocks c true (2 * l) (q'.map fsqrt) ((inp ls 3).drop l))] ∧
    ∀ i (g m rho x : FVal), i < l → g = (par v 7).mul (fAt (blockRoots false l (inp ls 1)) i) →
      m = fAt (blockRoots false l (inp ls 2)) i → rho = fAt (blockRoots true l (inp ls 3)) i →
      x = fAt (halves l (inp ls 0)) i →
      fAt m' i = ((par v 1).mul m).add (((fInt 1).sub (par v 1)).mul g) ∧
      fAt q' i = ((par v 2).mul (rho.mul rho)).add (((fInt 1).sub (par v 2)).mul (g.mul g)) ∧
      leAt w (2 * i) 2 = encodeF fp16 (x.sub ((par v 0).mul ((((par v 5).mul (fAt m' i)).div
        ((rootProduct (par v 6) (fAt q' i)).add (par v 3))).add ((par v 4).mul x)))) (c.rnd i) % 65536) ∧
  (∀ (c : VecCtx) (v : VectorParams) (ls : List (List Byte)) (l : Nat), l = v.rowLength.toNat →
    ∃ (w : List Byte) (m' : List FVal), m'.length = l ∧ w.length = 2 * l ∧ (sgdmOut c v ls).outs =
      [(vaddr v.src0, w), (vaddr v.src2, writeBlocks c false l m' ((inp ls 2).drop l))] ∧
    ∀ i (x : FVal), i < l → x = fAt (halves l (inp ls 0)) i →
      fAt m' i = ((par v 1).mul (fAt (blockRoots false l (inp ls 2)) i)).add
        ((par v 7).mul (fAt (blockRoots false l (inp ls 1)) i)) ∧
      leAt w (2 * i) 2 = encodeF fp16 (x.sub ((par v 0).mul ((fAt m' i).add ((par v 4).mul x)))) (c.rnd i) % 65536) ∧
  ∀ (c : VecCtx) (v : VectorParams) (ls : List (List Byte)), ∃ best rest : List TopE,
    (best ++ rest).Perm (topElems v (inp ls 0)) ∧ best.length = min v.count.toNat (topElems v (inp ls 0)).length ∧
    best.Pairwise (fun a b => b.before v.topKMin a = false) ∧
    (∀ a ∈ best, ∀ b ∈ rest, b.before v.topKMin a = false) ∧
    (topkOut c v ls).outs = [(vaddr v.dst, (best.flatMap fun e => leBytes 4 e.word ++ leBytes 4 e.pos) ++
      (List.replicate (v.count.toNat - best.length) (leBytes 4 0 ++ leBytes 4 0xFFFFFFFF)).flatten)]

/-- Jobs start when their waits are over. A PLATE, STIPPLE, MACRO_LOAD, DRAIN_READ or DRAIN_CLEAR command for a waiting
job of its opcode whose waits are over, on a press that issues work, with the job's plates or macros free, runs it as
if it were RUNNING; while one of these conditions fails, or for a job of another opcode, it changes nothing. A PLATE
job at an epoch barrier waits while a plate of its set holds another epoch; once all hold it, the checks that depend
on the plates are made and a failing one ends the job SHAPE; when the epoch is neither held nor incoming the job ends
EPOCH. -/
def Obligations.JobsStart : Prop :=
  (∀ (p : Press) (k : Slot) (since : Nat) (s : State) (j : Job) (e : Instr × BitVec 8 × Bool), (s.press p).slot k = some j →
    e ∈ [(.plate p k, opPlate, platesFree s p j),
      (.stipple p k, opStipple, !(jobMacros j.desc).any (macroWaits s p j)),
      (.macroLoad p k, opMacroLoad, loadMayStart s p j), (.drainRead p k since, opDrainRead, true),
      (.drainClear p k since, opDrainClear, true)] →
    (j.desc.opcode ≠ e.2.1 → exec e.1 s = .next s) ∧
    (j.state = .waiting → j.barrier = false → startReady s p j = false ∨ pressIssues s p = false ∨ e.2.2 = false →
      exec e.1 s = .next s) ∧
    (j.desc.opcode = e.2.1 → startReady s p j = true → pressIssues s p = true → e.2.2 = true →
      exec e.1 s = exec e.1 (s.setSlot p k (some { j with state := .running })))) ∧
  ∀ (p : Press) (k : Slot) (s : State) (j : Job), (s.press p).slot k = some j → j.desc.opcode = opPlate →
    j.state = .waiting → j.barrier = true →
    (epochCheck s p j.desc = .wait → exec (.plate p k) s = .next s) ∧
    (epochCheck s p j.desc = .run → plateCause s p j false = none →
      exec (.plate p k) s = exec (.plate p k) (s.setSlot p k (some { j with barrier := false }))) ∧
    (∀ st c, (epochCheck s p j.desc = .mismatch ∧ st = stEpoch ∧ c = 0) ∨
        (epochCheck s p j.desc = .run ∧ plateCause s p j false = some c ∧ st = stShape) → ∃ t : State,
      exec (.plate p k) s = .next t ∧ JobEnded s t p k j st ∧ (∀ q : Press, q ≠ p → t.press q = s.press q) ∧
      PressKept (s.press p) (t.press p) ∧ (j.desc.signalOnDone = false → t.counters = s.counters) ∧
      t = { s with presses := t.presses, counters := t.counters })

/-- PLATE starts the next token of its job on each entry unit. For a running PLATE job none of whose macros is FAILED,
each entry unit of its set in turn takes its next token, and each macro then issues the next input bit of the job's
stipple operands. Where the next token of an entry unit may start (PlateFeeds) and its input is read, its pass enters
the drive queue and the replay store of the bank upstream of the unit, with row codes from -127 to 127, and its
operand waits for its macro; the job notes that the unit has taken the token, and goes on with the next PassTag once
every entry unit has. Other slots and presses, the plates and what the accumulators hold stay, and a job that does not
continue felt leaves felt. While the token may not start, nothing changes. A read that fails, once every entry unit
has come to its token, ends the job: SEAL_FAIL once the tokens that it has started are committed, else INTERNAL at
once; one that a copy holds changes nothing. The first operand bit of a macro that is free for the job adds its terms
to its registers once the governor admits it, and counts as refused while it does not. A job with a FAILED macro ends
INTERNAL. The model's choices: the PassTag counts 0 to 15 in turn (log entry 78), and the tokens that a job has
started are committed before it ends SEAL_FAIL (log entry 18). -/
def Obligations.PlateTokens : Prop :=
  (∀ (p : Press) (k : Slot) (s u : State) (j₀ j : Job), runningJob s p k opPlate = some j₀ →
    ((∃ m ∈ usedMacros s p j₀, ((s.press p).macro' m).state = .failed) → CleanJob j₀ → ∃ t : State,
      exec (.plate p k) s = .next t ∧ JobEnded s t p k j₀ stInternal ∧ ControlSame s t) ∧
    ((∀ m ∈ usedMacros s p j₀, ((s.press p).macro' m).state ≠ .failed) →
      u = (if j₀.desc.scaleSource = 2 then readChannels p k s else s) →
      (runningJob u p k opPlate = none → exec (.plate p k) s = .next u) ∧
      (runningJob u p k opPlate = some j → exec (.plate p k) s = .next (issueOperand p k 1 (issueOperand p k 0
        (forN (entryUnits (jobUnits (u.press p) j.desc) j.desc.sliced).length (fun i r => feedUnit p k i r) u))))) ) ∧
  (∀ (p : Press) (k : Slot) (s : State) (j : Job) (i n : Nat) (u : Machine.PUnit), runningJob s p k opPlate = some j →
    (i, u) ∈ entryUnits (jobUnits (s.press p) j.desc) j.desc.sliced → n = j.taken i →
    (j.m ≤ n ∨ ((j.scaleSkew = true ∨ j.sealFail = true) ∧ j.begun ≤ n) ∨ (j.desc.claimed = true ∧ j.chunk = none) ∨
      (j.desc.oz4030 = true ∧ n ≠ j.doneTokens) ∨ (j.desc.scaleSource = 2 ∧ (n ≠ j.next ∨ tileReady s p j = false)) ∨
      unitOpen s p j u = false → feedUnit p k i s = s) ∧
    (∀ els stored f, PlateFeeds s p j i u n → readToken s p j n (plateElementBits s p j) = .ok (els, stored) →
      f = formEntry s p k j els stored n ((j.tag + (n - j.next)) % 16) i u → ∃ (t : State) (j' : Job),
      feedUnit p k i s = t ∧ (t.press p).slot k = some j' ∧
      j' = { j with fed := j'.fed, next := j'.next, tag := j'.tag, operandRuns := j.operandRuns ++ f.operand } ∧
      j'.taken i = n + 1 ∧
      (∀ l w, (l, w) ∈ entryUnits (jobUnits (s.press p) j.desc) j.desc.sliced → l ≠ i → j'.taken l = j.taken l) ∧
      ((entryUnits (jobUnits (s.press p) j.desc) j.desc.sliced).length = 1 → j'.next = n + 1) ∧
      j'.tag = (j.tag + (j'.next - j.next)) % 16 ∧
      (∀ l, l ≠ k.val → (t.press p).slot l = (s.press p).slot l) ∧
      f.pass ∈ ((t.press p).bank (u.ue (s.press p))).driveQueue ∧ f.pass ∈ ((t.press p).bank (u.ue (s.press p))).replay ∧
      f.pass.slot = k ∧ f.pass.token = n ∧ (∀ c ∈ f.pass.codes, -127 ≤ c ∧ c ≤ 127) ∧
      (∀ b, ∃ l, ((t.press p).bank b).driveQueue = ((s.press p).bank b).driveQueue ++ l ∧
        (∀ x ∈ l, x.slot = k ∧ x.token = n ∧ x.unit = i) ∧
        (t.press p).bank b = { (s.press p).bank b with
          driveQueue := ((t.press p).bank b).driveQueue, replay := ((t.press p).bank b).replay }) ∧
      (j.desc.preloadSelect ≠ 5 → j.feltSeen = [] → (t.press p).felt = (s.press p).felt) ∧
      t.press p = { s.press p with
        slots := (t.press p).slots, banks := (t.press p).banks, felt := (t.press p).felt } ∧
      (∀ q : Press, q ≠ p → t.press q = s.press q) ∧ t = { s with presses := t.presses, vats := t.vats }) ∧
    ∀ e, PlateFeeds s p j i u n → readToken s p j n (plateElementBits s p j) = .error e → CleanJob j →
      (n ≠ j.next ∨ e = .held → feedUnit p k i s = s) ∧
      (n = j.next → e ≠ .held → e ≠ .seal ∨ j.leading = j.next → ∃ t : State, feedUnit p k i s = t ∧ ControlSame s t ∧
        ∃ j', (t.press p).slot k = some j' ∧ j'.state = .posting ∧
          jobStatus j' = (if e = .seal then stSealFail else stInternal)) ∧
      (n = j.next → e = .seal → j.leading ≠ j.next → ∃ t : State, feedUnit p k i s = t ∧ ControlSame s t ∧
        ∃ j', (t.press p).slot k = some j' ∧ j'.state = .running ∧ j'.sealFail = true ∧ j'.next = j.next)) ∧
  ∀ (p : Press) (k : Slot) (m : Macro) (s : State) (j : Job), runningJob s p k opPlate = some j →
    (operandOn j m = none → issueOperand p k m s = s) ∧
    ∀ (i : Nat) (r : OperandRun) (x : MacroRec), operandOn j m = some (i, r) → x = (s.press p).macro' m →
      (r.done x j = true ∨ macroWaits s p j m = true → issueOperand p k m s = s) ∧
      (r.done x j = false → macroWaits s p j m = false → admits s p (.bit (r.mode16 j)) 1 = false →
        issueOperand p k m s = refuse p (17 + m.val) (.bit (r.mode16 j)) 1 s) ∧
      (r.done x j = false → macroWaits s p j m = false → admits s p (.bit (r.mode16 j)) 1 = true → ∃ t : State,
        issueOperand p k m s = t ∧
        (∃ j', (t.press p).slot k = some j' ∧ j' = { j with operandRuns := j'.operandRuns } ∧
          j'.operandRuns = lset j.operandRuns i { r with issued := r.issued + 1 }) ∧
        (∀ (l c place : Nat), l < (if r.whole then 1 else 8) → c < 64 → place = lget 0 (r.places x j) r.issued →
          tget 0 ((t.press p).macro' m).acc (accKey c l) = packAcc (lget {} (addBit (r.mode16 j) false x
            (r.rows x j l place) (fun n => lget 0 r.codes n) r.bits (place % r.bits)
            (if r.issued = 0 then List.replicate 64 {} else laneRegisters x l)) c)) ∧
        ((t.press p).macro' m).weights = x.weights ∧ (∀ i, i ≠ m.val → (t.press p).macro' i = (s.press p).macro' i) ∧
        (∀ l, l ≠ k.val → (t.press p).slot l = (s.press p).slot l) ∧ (∀ b, (t.press p).bank b = (s.press p).bank b) ∧
        (∀ q : Press, q ≠ p → t.press q = s.press q) ∧
        t = { s with presses := t.presses, vats := t.vats, gov := (charge p (.bit (r.mode16 j)) 1 s).gov })

/-- STIPPLE issues a batch of tokens on the lanes of its macros. For a running STIPPLE job with no token on its lanes
whose next tokens may be issued (StippleIssues), the tokens of the batch take the lanes 0 up of every macro of its
set: the registers of lane i are 0 with the AccShift that the i-th token starts with, and no input bit is issued.
Weights, other macros, slots and presses stay. With a batch on one macro, each further command issues the next input
bit of the first lane that has bits left, when the governor admits it: each register takes its term, with the first
bit of a token after the preload; a bit that is not admitted counts as refused. While a condition fails nothing
changes; a macro that is FAILED ends the job INTERNAL. -/
def Obligations.StippleBatches : Prop :=
  ∀ (p : Press) (k : Slot) (s u : State) (j₀ j : Job), runningJob s p k opStipple = some j₀ →
    u = (if j₀.desc.scaleSource = 2 ∧ j₀.batch = [] then readChannels p k s else s) →
    runningJob u p k opStipple = some j →
    ((∃ m ∈ jobMacros j.desc, ((u.press p).macro' m).state = .failed) → CleanJob j →
      ∃ t : State, exec (.stipple p k) s = .next t ∧ JobEnded u t p k j stInternal ∧ ControlSame s t) ∧
    ((∀ m ∈ jobMacros j.desc, ((u.press p).macro' m).state ≠ .failed) →
      ((∃ m ∈ jobMacros j.desc, macroWaits u p j m = true) → exec (.stipple p k) s = .next u) ∧
      ((∀ m ∈ jobMacros j.desc, macroWaits u p j m = false) →
        (j.batch = [] → j.m ≤ j.next ∨ j.scaleSkew = true ∨ j.sealFail = true ∨ (j.desc.claimed = true ∧ j.chunk = none) ∨
          (j.desc.scaleSource = 2 ∧ tileReady u p j = false) → exec (.stipple p k) s = .next u) ∧
        (∀ ts ls, StippleIssues u p j → ts = batchTokens u p j → readLanes u p j ts = .ok ls →
          ∃ t : State, exec (.stipple p k) s = .next t ∧
          (∃ j', (t.press p).slot k = some j' ∧ j' = { j with next := j.next + ts.length, batch := j'.batch } ∧
            (j'.batch.map fun l => l.token) = ts ∧ (j'.batch.map fun l => l.input) = ls ∧
            ∀ l ∈ j'.batch, l.runs = (macroPlaces j.desc).map fun e =>
              { shift := startShift (u.press p) j l.token e.2.2 (laneWidth j e.2.2) }) ∧
          (∀ (i n : Nat) (l : LaneIn) (e : Nat × Nat × Nat) (c : Nat), ts[i]? = some n → ls[i]? = some l →
            e ∈ macroPlaces j.desc → c < 64 →
            tget 0 ((t.press p).macro' e.2.1).acc (accKey c i) =
              packAcc { shift := startShift (u.press p) j n e.2.2 (laneWidth j e.2.2) }) ∧
          (∀ m, m ∉ jobMacros j.desc → (t.press p).macro' m = (u.press p).macro' m) ∧
          (∀ m, (t.press p).macro' m = { (u.press p).macro' m with acc := ((t.press p).macro' m).acc }) ∧
          (∀ i, i ≠ k.val → (t.press p).slot i = (u.press p).slot i) ∧
          t.press p = { u.press p with
            slots := (t.press p).slots, macros := (t.press p).macros, felt := (t.press p).felt } ∧
          (∀ q : Press, q ≠ p → t.press q = u.press q) ∧ t = { u with presses := t.presses, vats := t.vats }) ∧
        ∀ (m lane place : Nat) (l : StippleLane) (r : LaneRun) (rows : List MRow) (terms : List Int) (old : List Acc),
          macroPlaces j.desc = [(0, m, 0)] → j.batch ≠ [] → nextLane ((u.press p).macro' m) j 0 = some (lane, l, r) →
          (admits u p (.bit (r.mode16 j)) 1 = false → ∃ t : State, exec (.stipple p k) s = .next t ∧
            (t.press p).slot k = some { j with draining := false } ∧
            t = { u with presses := t.presses, gov := (refuse p (17 + m) (.bit (r.mode16 j)) 1 u).gov } ∧
            (∀ q : Press, q ≠ p → t.press q = u.press q) ∧ t.press p = { u.press p with slots := (t.press p).slots }) ∧
          (admits u p (.bit (r.mode16 j)) 1 = true → r.mode16 j = false → usesFelt j = false →
            atRepeatLimit u r.shift = false → place = lget 0 (r.places ((u.press p).macro' m) j) r.issued →
            rows = lget [] (issueGroups ((u.press p).macro' m) j.k false) (place / inputBits j) →
            old = (if r.issued = 0 ∧ r.bare = false then preloadLane ((u.press p).macro' m) j l.input 0 r false
              else laneRegisters ((u.press p).macro' m) lane) →
            terms = (List.range 64).map (fun c => bitTerm ((u.press p).macro' m) rows
              (fun n => rneDiv (lget 0 l.input.codes n) (2 ^ r.shift)) (inputBits j) c (place % inputBits j)) →
            (∀ c, c < 64 → (accAdd32 false (lget {} old c) (lget 0 terms c)).ovf = false) →
            ∃ t : State, exec (.stipple p k) s = .next t ∧
            (∀ (c n : Nat) (a : Acc), c < 64 →
              a = accAdd32 false (lget {} old c) (lget 0 terms c) →
              n = (if place % inputBits j + 1 = inputBits j then contribsOf rows else 0) →
              tget 0 ((t.press p).macro' m).acc (accKey c lane) = packAcc { a with contrib := min 64 (a.contrib + n) }) ∧
            (∀ c i, c < 64 → i < 8 → i ≠ lane → lane < 8 →
              tget 0 ((t.press p).macro' m).acc (accKey c i) = tget 0 ((u.press p).macro' m).acc (accKey c i)) ∧
            ((t.press p).macro' m).weights = ((u.press p).macro' m).weights ∧
            (∀ i, i ≠ m → (t.press p).macro' i = (u.press p).macro' i) ∧
            (∃ j', (t.press p).slot k = some j' ∧ j' = { j with batch := j'.batch, draining := j'.draining } ∧
              ∃ l', j'.batch[lane]? = some l' ∧ l'.token = l.token ∧
                (l.runs ≠ [] → lget {} l'.runs 0 = { r with issued := r.issued + 1 })) ∧
            (∀ i, i ≠ k.val → (t.press p).slot i = (u.press p).slot i) ∧
            (∀ q : Press, q ≠ p → t.press q = u.press q) ∧
            t = { u with presses := t.presses, vats := t.vats, gov := (charge p (.bit (r.mode16 j)) 1 u).gov })))

/-- Drains read registers, and a clearing drain clears them. An accepted DRAIN_READ or DRAIN_CLEAR takes the words of the
registers that it names, notes its wait and, when it clears, sets them to 0 under their AccShift, so that the spans of
the jobs that reduce there go on with what is still to be issued; registers that it does not name stay.
DRAIN_REGISTER_READ writes the words of a drain job to its destination and ends it. For a STIPPLE job that has issued
its input bits it drains the batch; when the job uses neither felt nor 16-bit mode, no lane is repeated: the lanes are
cleared, their tokens are written, and the job goes on or ends. For a PLATE job it drains the registers of its stipple
operands and the output lanes that hold its passes. Without an accepted drain it changes nothing. The model's choices:
W is 0 for a drain job that names a plate lane, and the lanes of a PLATE job are drained at DRAIN_REGISTER_READ (log
entry 85). -/
def Obligations.Drains : Prop :=
  (∀ (p : Press) (k : Slot) (since : Nat) (s : State) (j : Job) (e : Instr × BitVec 8 × Bool),
    e ∈ [(.drainRead p k since, opDrainRead, false), (.drainClear p k since, opDrainClear, true)] →
    runningJob s p k e.2.1 = some j →
    (j.draining = true → exec e.1 s = .next s) ∧
    (j.draining = false → ∃ (t : State) (w : Nat), exec e.1 s = .next t ∧
      w = (if j.desc.macroSet = 0 then 0 else min 7 (8 - since)) ∧
      (t.press p).slot k =
        some { j with draining := true, drainWait := w, drainWords := drainTarget (s.press p) j.desc } ∧
      (∀ (i : Nat) (j₀ : Job), i ≠ k.val → (s.press p).slot i = some j₀ → ∃ j₁ : Job, (t.press p).slot i = some j₁ ∧
        j₁ = { j₀ with batch := j₁.batch, operandRuns := j₁.operandRuns } ∧
        (e.2.2 = false ∨ j.desc.macroSet = 0 ∨ j₀.state ≠ .running → j₁ = j₀) ∧
        (e.2.2 = true → j₀.state = .running → j₀.desc.opcode = opStipple →
          ∀ (n : Nat) (l : StippleLane) (x : Nat × Nat × Nat) (r : LaneRun), j₀.batch[n]? = some l → x ∈ macroPlaces j₀.desc →
            x.2.1 ∈ jobMacros j.desc → l.runs[x.1]? = some r → r.out = none → ∃ l' : StippleLane, j₁.batch[n]? = some l' ∧
            l'.runs[x.1]? = some (r.cleared ((s.press p).macro' x.2.1) j₀)) ∧
        (e.2.2 = true → j₀.state = .running → j₀.desc.opcode = opPlate →
          ∀ (n : Nat) (r : OperandRun), j₀.operandRuns[n]? = some r → r.started = true → r.mac ∈ jobMacros j.desc →
            j₁.operandRuns[n]? = some (r.cleared ((s.press p).macro' r.mac) j₀))) ∧
      (∀ i, i ≠ k.val → (s.press p).slot i = none → (t.press p).slot i = none) ∧
      (t.press p).drainWaitMax = BitVec.ofNat 8 (max (s.press p).drainWaitMax.toNat w) ∧
      (e.2.2 = false → t.press p = { s.press p with
        slots := (t.press p).slots, drainWaitMax := (t.press p).drainWaitMax }) ∧
      (e.2.2 = true → j.desc.macroSet = 0 → ∀ b, (t.press p).bank b =
        if b = drainBank (s.press p) j.desc then { (s.press p).bank b with outputAcc := ((t.press p).bank b).outputAcc }
        else (s.press p).bank b) ∧
      (e.2.2 = true → j.desc.macroSet = 0 → ∀ i, tget 0 ((t.press p).bank (drainBank (s.press p) j.desc)).outputAcc i =
        packAcc { shift := (unpackAcc (tget 0 ((s.press p).bank (drainBank (s.press p) j.desc)).outputAcc i)).shift }) ∧
      (e.2.2 = true → j.desc.macroSet ≠ 0 → ∀ m, (t.press p).macro' m =
        if m ∈ jobMacros j.desc then { (s.press p).macro' m with acc := ((t.press p).macro' m).acc }
        else (s.press p).macro' m) ∧
      (e.2.2 = true → j.desc.macroSet ≠ 0 → ∀ m ∈ jobMacros j.desc, ∀ i, tget 0 ((t.press p).macro' m).acc i =
        packAcc { shift := (unpackAcc (tget 0 ((s.press p).macro' m).acc i)).shift }) ∧
      (t.press p).scratch = (s.press p).scratch ∧ (t.press p).felt = (s.press p).felt ∧
      (∀ q : Press, q ≠ p → t.press q = s.press q) ∧ t = { s with presses := t.presses })) ∧
  ∀ (p : Press) (k : Slot) (s : State) (j : Job), (s.press p).slot k = some j →
    (j.state ≠ .running ∨ pressCommits s p = false ∨
      (j.desc.opcode ≠ opPlate ∧ j.draining = false) → exec (.drainRegisterRead p k) s = .next s) ∧
    (∀ (a o q : Nat), j.state = .running → j.draining = true → pressCommits s p = true →
      j.desc.opcode = opDrainRead ∨ j.desc.opcode = opDrainClear → j.vp = none → CleanJob j → hostRanges s p j = [] →
      daddr j.desc.dstAddress = .scratch a o → s.physPress j.desc.vat.toNat a = some q →
      (s.press q).state ≠ .retiring → ∃ t : State,
      exec (.drainRegisterRead p k) s = .next t ∧ JobEnded s t p k j (jobStatus j) ∧
      ScratchWritten s t q o (j.drainWords.flatMap fun w => leBytes 8 w.toNat) ∧
      (∀ r, r ≠ q → (t.press r).scratch = (s.press r).scratch) ∧ (∀ r, r ≠ p → r ≠ q → t.press r = s.press r) ∧
      (∀ r, PressKept (s.press r) (t.press r)) ∧ t = { s with presses := t.presses, counters := t.counters }) ∧
    (j.state = .running → j.desc.opcode = opPlate → pressCommits s p = true →
      exec (.drainRegisterRead p k) s = .next (drainPlates p k s)) ∧
    (j.state = .running → j.draining = true → pressCommits s p = true →
      j.desc.opcode = opStipple → ∃ t : State, exec (.drainRegisterRead p k) s = .next t ∧
      (∃ j', (t.press p).slot k = some j' ∧ j'.draining = false ∧ j'.desc = j.desc ∧
        (j'.state = .running ∨ j'.state = .posting) ∧
        (usesFelt j = false → j.desc.accMode16 = false →
          (∀ l ∈ j.batch, l.runs.length = (macroPlaces j.desc).length ∧ ∀ r ∈ l.runs, r.out = none) →
          j'.batch = [] ∧ ∀ (i : Nat) (l : StippleLane) (e : Nat × Nat × Nat) (c : Nat), j.batch[i]? = some l → i < 8 →
            e ∈ macroPlaces j.desc → c < 64 →
            tget 0 ((t.press p).macro' e.2.1).acc (accKey c i) = packAcc { shift := (lget {} l.runs e.1).shift })) ∧
      (∀ i, i ≠ k.val → (t.press p).slot i = (s.press p).slot i) ∧
      (∀ m, ((t.press p).macro' m).weights = ((s.press p).macro' m).weights) ∧ ControlSame s t)

/-- Row groups load, and the scrubber reloads a group with an uncorrectable error. MACRO_LOAD begins to load the groups
that its mask names: each is loading and holds nothing; with no group it ends. When a group's last cell is written,
its 16,384 bytes are the weights of its rows, it is valid in the format of its record, and the loads whose groups are
all loaded end. SCRUB_ROW reads the next row, eight words: each single error counts as corrected, each double error
counts and raises STIPPLE_ECC, and with a double error a macro that has not FAILED reloads the group. A reload of a
valid group whose record still gives its bytes writes them, and the next group that waits is reloaded; else the macro
is FAILED, MACRO_FAILED is raised and the press is retired with cause 3. While a page that it reads is under copy it
waits. The model's readings: each of the eight words of a row counts for itself (log entry 47), and a group that no
load has filled has no source, so that the macro is FAILED (log entry 95). -/
def Obligations.MacroLoadsAndScrub : Prop :=
  (∀ (p : Press) (k : Slot) (s : State) (j : Job), runningJob s p k opMacroLoad = some j →
    (j.loading = true → exec (.macroLoad p k) s = .next s) ∧
    (j.loading = false → loadSources j = [] → CleanJob j → ∃ t : State, exec (.macroLoad p k) s = .next t ∧
      JobEnded s t p k j (jobStatus j) ∧ t = { s with presses := t.presses, counters := t.counters }) ∧
    (j.loading = false → loadSources j ≠ [] →
      readRanges s p j ((loadSources j).map fun e => ⟨parseAddr e.2.2, 16384, .input⟩) = .error .held →
      exec (.macroLoad p k) s = .next s) ∧
    (∀ ls, j.loading = false → loadSources j ≠ [] →
      readRanges s p j ((loadSources j).map fun e => ⟨parseAddr e.2.2, 16384, .input⟩) = .ok ls → ∃ t : State,
      exec (.macroLoad p k) s = .next t ∧ (t.press p).slot k = some { j with loading := true } ∧
      (∀ (i : Nat) (e : Nat × Bool × Nat) (l : List Byte) (x y : MacroRec), (loadSources j)[i]? = some e →
        ls[i]? = some l → x = (s.press p).macro' (if j.desc.macroSet = 2 then 1 else 0) →
        y = (t.press p).macro' (if j.desc.macroSet = 2 then 1 else 0) →
        nbit y.loading.toNat e.1 = true ∧ nbit y.valid.toNat e.1 = false ∧ tget [] y.incoming e.1 = l ∧
        y.weights = x.weights ∧ (tget {} y.records e.1).source = BitVec.ofNat 64 e.2.2) ∧
      (∀ m, m ≠ (if j.desc.macroSet = 2 then 1 else 0) → (t.press p).macro' m = (s.press p).macro' m) ∧
      (∀ i, i ≠ k.val → (t.press p).slot i = (s.press p).slot i) ∧ (∀ q : Press, q ≠ p → t.press q = s.press q) ∧
      t = { s with presses := t.presses, vats := t.vats })) ∧
  (∀ (p : Press) (m : Macro) (g : Fin 4) (s : State),
    (nbit ((s.press p).macro' m).loading.toNat g = false → exec (.rowGroupLoadDone p m g) s = .next s) ∧
    (nbit ((s.press p).macro' m).loading.toNat g = true → NoSwap s → twf none (s.press p).slots = true → ∃ (t : State)
        (x y : MacroRec), exec (.rowGroupLoadDone p m g) s = .next t ∧ x = (s.press p).macro' m ∧ y = (t.press p).macro' m ∧
      nbit y.loading.toNat g = false ∧ nbit y.valid.toNat g = true ∧
      (nbit y.int4.toNat g = true ↔ (tget {} x.records g).format = 1) ∧
      tgetN 0 y.weights (16384 * g.val) 16384 = lpad 0 16384 (tget [] x.incoming g) ∧
      (∀ a, a < 16384 * g.val ∨ 16384 * g.val + 16384 ≤ a → tget 0 y.weights a = tget 0 x.weights a) ∧
      (∀ i, i ≠ m.val → ((t.press p).macro' i).weights = ((s.press p).macro' i).weights) ∧
      (∀ k j, (s.press p).slot k = some j →
        (j.state = .running → j.desc.opcode = opMacroLoad → j.loading = true →
          (∀ a ∈ jobMacros j.desc, ∀ b ∈ maskGroups (j.desc.n.toNat % 16),
            nbit ((s.press p).macro' a).loading.toNat b = true → a = m.val ∧ b = g.val) →
          ∃ j', (t.press p).slot k = some j' ∧ j'.state = .posting) ∧
        (j.desc.opcode ≠ opMacroLoad → (t.press p).slot k = some j)) ∧
      (∀ q : Press, q ≠ p → t.press q = s.press q) ∧ ControlSame s t)) ∧
  (∀ (p : Press) (m : Macro) (es : List Ecc) (s : State) (n₁ n₂ : Nat), es.length = 8 →
    n₁ = (es.filter fun x => decide (x = .single)).length → n₂ = (es.filter fun x => decide (x = .double)).length →
    ∃ t : State, exec (.scrubRow p m es) s = .next t ∧
      (t.press p).eccCorrected = satAdd (s.press p).eccCorrected n₁ ∧
      (t.press p).eccUncorrected = satAdd (s.press p).eccUncorrected n₂ ∧
      ((t.press p).macro' m).scrubRow = (((s.press p).macro' m).scrubRow + 1) % 1024 ∧
      (n₂ = 0 → t.events = s.events ∧ (t.press p).macro' m = { (s.press p).macro' m with
        scrubRow := ((t.press p).macro' m).scrubRow }) ∧
      (n₂ = 1 → Logged s t evStippleEcc (some p) (some m) (s.pressVat p) (leBytes 2 ((s.press p).macro' m).scrubRow)) ∧
      t.events.newest.toNat = (s.events.newest.toNat + n₂) % 2 ^ 32 ∧
      (0 < n₂ → ((s.press p).macro' m).state ≠ .failed →
        (((s.press p).macro' m).scrubRow / 256) ∉ ((s.press p).macro' m).reload →
        ((t.press p).macro' m).state = .reloading ∧
        ((t.press p).macro' m).reload = ((s.press p).macro' m).reload ++ [((s.press p).macro' m).scrubRow / 256]) ∧
      (∀ i, i ≠ m.val → (t.press p).macro' i = (s.press p).macro' i) ∧
      ((t.press p).macro' m).weights = ((s.press p).macro' m).weights ∧ (t.press p).slots = (s.press p).slots ∧
      (∀ q : Press, q ≠ p → t.press q = s.press q) ∧ t = { s with presses := t.presses, events := t.events }) ∧
  ∀ (p : Press) (m : Macro) (ok : Bool) (s : State) (x : MacroRec), x = (s.press p).macro' m →
    (x.state ≠ .reloading ∨ x.reload = [] → exec (.stippleReloadDone p m ok) s = .next s) ∧
    ∀ g rest, x.state = .reloading → x.reload = g :: rest →
      (ok = true → nbit x.valid.toNat g = true →
        recordHeld s p m g (tget {} x.records g) = true ∨ spansHeld s p m g = true →
        exec (.stippleReloadDone p m ok) s = .next s) ∧
      (∀ l n u, ok = true → nbit x.valid.toNat g = true → recordHeld s p m g (tget {} x.records g) = false →
        spansHeld s p m g = false → readRecord p m g (tget {} x.records g) s = (some (l, n), u) → ∃ t : State,
        exec (.stippleReloadDone p m ok) s = .next t ∧
        tgetN 0 ((t.press p).macro' m).weights (16384 * g) 16384 = lpad 0 16384 l ∧
        (rest = [] → ((t.press p).macro' m).state = .busy ∨ ((t.press p).macro' m).state = .idle) ∧
        (rest ≠ [] → ((t.press p).macro' m).state = .reloading) ∧ ((t.press p).macro' m).reload = rest ∧
        ControlSame u t ∧ (openSpans s p m g = [] → (∀ q : Press, q ≠ p → t.press q = u.press q) ∧
          (t.press p).scratch = (u.press p).scratch ∧ (t.press p).felt = (u.press p).felt ∧
          t = { u with presses := t.presses, vats := t.vats })) ∧
      (∀ w, ((ok = false ∨ nbit x.valid.toNat g = false) ∧ w = s) ∨
          (ok = true ∧ nbit x.valid.toNat g = true ∧ recordHeld s p m g (tget {} x.records g) = false ∧
            spansHeld s p m g = false ∧ readRecord p m g (tget {} x.records g) s = (none, w)) → ∃ u : State,
        exec (.stippleReloadDone p m ok) s = .next (retirePress p 3 u) ∧ ((u.press p).macro' m).state = .failed ∧
        Logged w u evMacroFailed (some p) (some m) (w.pressVat p) (leBytes 1 g) ∧
        (∀ q : Press, q ≠ p → u.press q = w.press q) ∧ u = { w with presses := u.presses, events := u.events })

/-- Reads and writes of dictionary entries, and the mailboxes. A read by a principal with the entry's rights answers the
bytes that it names, one without them RIGHTS, and a read changes nothing but the answer; sub-index 0 answers
HighestSubIndex; a read or write of an index that is not present is answered NO_OBJECT; a write that fails a check of
the entry is answered with that Result and changes nothing else; one that passes has the entry's effect. DICT_GO, a
write of 4 bytes, takes a valid plain request into the mailbox, answers an invalid one at once, and takes a SEALED
request only when the function serves its stream, which is OPEN, its Counter is new and its tag right; every other
SEALED request counts in SealFailures of its stream. DICT_READ and DICT_WRITE of a mailbox execute the request that
waits there with H rights for the physical and V rights for a virtual function, and its response stands in the mailbox
with Done 1. The model's choices: an invalid request is answered at Go, and SealFailures counts every refused SEALED
request (log entry 66); the rights of HighestSubIndex, and that a read names the exact size of an entry that is no
domain (log entry 63). -/
def Obligations.DictionaryAccess : Prop :=
  (∀ (pr : Principal) (idx : BitVec 16) (sub : BitVec 8) (off len : Nat) (s : State), s.dev.started = true → len ≤ 1024 →
    exec (.dictRead (.direct pr idx sub off len)) s = .next { s with mgmt := { s.mgmt with
      result := (readEntry s pr idx.toNat sub.toNat off len).1, data := (readEntry s pr idx.toNat sub.toNat off len).2 } } ∧
    (indexOf idx.toNat = none → plainIndex idx.toNat = false →
      readEntry s pr idx.toNat sub.toNat off len = (resNoObject, [])) ∧
    (∀ n f, indexOf idx.toNat = some (n, f) → sub = 0 → off = 0 → len = 1 →
      readsAny s pr f = true ∨ (topRights idx.toNat).any (holds s pr .device) = true →
      readEntry s pr idx.toNat sub.toNat off len = (resOk, leBytes 1 n)) ∧
    (∀ e, sub ≠ 0 ∨ indexOf idx.toNat = none → objAt idx.toNat sub.toNat = some e → e.r ≠ [] →
      (e.r.any (holds s pr e.owner) = true → (∀ lo hi, e.ty ≠ .dom lo hi) → off = 0 → len = (e.get s pr).length →
        readEntry s pr idx.toNat sub.toNat off len = (resOk, e.get s pr)) ∧
      (e.r.any (holds s pr e.owner) = true → (∃ lo hi, e.ty = .dom lo hi) → off + len ≤ (e.get s pr).length →
        readEntry s pr idx.toNat sub.toNat off len = (resOk, ((e.get s pr).drop off).take len)) ∧
      (e.r.any (holds s pr e.owner) = false → e.r.contains .d = false →
        readEntry s pr idx.toNat sub.toNat off len = (resRights, [])))) ∧
  (∀ (pr : Principal) (idx : BitVec 16) (sub : BitVec 8) (off : Nat) (data : List Byte) (s : State), s.dev.started = true →
    data.length ≤ 1024 →
    (indexOf idx.toNat = none → plainIndex idx.toNat = false →
      exec (.dictWrite (.direct pr idx sub off data)) s = .next (s.answer resNoObject)) ∧
    ∀ e, sub ≠ 0 ∨ plainIndex idx.toNat = true ∧ indexOf idx.toNat = none → objAt idx.toNat sub.toNat = some e →
      (writeCheck s pr (decide (idx = 0x2920)) e off data ≠ resOk → exec (.dictWrite (.direct pr idx sub off data)) s =
        .next (s.answer (writeCheck s pr (decide (idx = 0x2920)) e off data))) ∧
      (writeCheck s pr (decide (idx = 0x2920)) e off data = resOk → idx ≠ 0x2D10 ∨ sub ≠ 3 → ∃ t : State,
        exec (.dictWrite (.direct pr idx sub off data)) s = .next (t.answer (e.put pr off data s).1) ∧
          t = (e.put pr off data s).2)) ∧
  (∀ (f : Fn) (size : BarSize) (hw : HostWrites) (s u : State) (q : List Byte) (h : Header), u = s.hostWrites hw →
    q = slice (u.fn f).request 0 (min (u.fn f).requestLength.toNat 1088) → h = parseHeader (slice q 0 16) →
    (size ≠ .four ∨ fnDecodes u f = false ∨ (u.fn f).busy = true → exec (.dictGo f size hw) s = .next u) ∧
    (size = .four → fnDecodes u f = true → (u.fn f).busy = false →
      (requestFault h (u.fn f).requestLength.toNat = none → h.mode = 0 → ∃ t : State, exec (.dictGo f size hw) s = .next t ∧
        t.fn f = { u.fn f with busy := true, done := false, sealedData := none } ∧
        (∀ g : Fn, g ≠ f → t.fn g = u.fn g) ∧ t = { u with bridge := { u.bridge with fns := t.bridge.fns } }) ∧
      (∀ c, requestFault h (u.fn f).requestLength.toNat = some c → ∃ t : State,
        exec (.dictGo f size hw) s = .next t ∧ (t.fn f).done = true ∧ (t.fn f).busy = false ∧ (t.fn f).result = c ∧
        (t.fn f).response = responseHeader c h 0 ∧ (∀ g : Fn, g ≠ f → t.fn g = u.fn g) ∧
        (∀ i, h.mode ≠ 1 ∨ i ≠ h.stream % 4096 → t.stream i = u.stream i) ∧
        (h.mode = 1 → t.stream (h.stream % 4096) = { u.stream (h.stream % 4096) with
          sealFailures := satInc (u.stream (h.stream % 4096)).sealFailures }) ∧
        t = { u with bridge := { u.bridge with fns := t.bridge.fns }, streams := t.streams }) ∧
      (∀ (st : StreamId) (n : BitVec 64), requestFault h (u.fn f).requestLength.toNat = none → h.mode = 1 →
        st.val = h.stream % 4096 → n = BitVec.ofNat 64 (leAt q 16 8) →
        (∀ (v : Vat) (key : BitVec 128) (d : List Byte), u.streamVat st = some v.val → serves u f v = true →
          (u.stream st).state = .opened → (u.stream st).key = some key → (u.stream st).inbound < n →
          openSealed key st q = some d → ∃ t : State,
          exec (.dictGo f size hw) s = .next t ∧ (t.fn f).busy = true ∧ (t.fn f).sealedData = some d ∧
          (t.stream st).inbound = n ∧ (∀ i, i ≠ st.val → t.stream i = u.stream i) ∧ t.dev = u.dev ∧ t.vats = u.vats) ∧
        (∀ c, ((∀ v : Vat, u.streamVat st = some v.val → serves u f v = false) ∧ c = resSeal) ∨
            ((∃ v : Vat, u.streamVat st = some v.val ∧ serves u f v = true) ∧
              (((u.stream st).state ≠ .opened ∧ c = resState) ∨
                ((u.stream st).state = .opened ∧ c = resSeal ∧ ∀ key, (u.stream st).key = some key →
                  n ≤ (u.stream st).inbound ∨ openSealed key st q = none))) → ∃ t : State,
          exec (.dictGo f size hw) s = .next t ∧ (t.fn f).done = true ∧ (t.fn f).busy = false ∧ (t.fn f).result = c ∧
          t.stream st = { u.stream st with sealFailures := satInc (u.stream st).sealFailures } ∧
          (∀ i, i ≠ st.val → t.stream i = u.stream i) ∧
          t = { u with bridge := { u.bridge with fns := t.bridge.fns }, streams := t.streams })))) ∧
  ∀ (f : Fn) (s u : State) (h : Header) (c : Byte) (out : List Byte) (cmd : Instr),
    h = parseHeader (slice (s.fn f).request 0 16) →
    (cmd = .dictRead (.mailbox f) ∧ h.op = 1) ∨ (cmd = .dictWrite (.mailbox f) ∧ h.op = 2) →
    (s.fn f).busy = true → (s.fn f).sealedData = none →
    runRequest writeEntry (if f = 0 then .H else .V f) h (((s.fn f).request.take (s.fn f).requestLength.toNat).drop 16) s =
      (c, out, u) → ∃ t : State, exec cmd s = .next t ∧ (t.fn f).done = true ∧ (t.fn f).busy = false ∧
      (t.fn f).result = c ∧ (t.fn f).response = responseHeader c h out.length ++ out ∧
      (∀ g : Fn, g ≠ f → t.fn g = u.fn g) ∧ t = { u with bridge := { u.bridge with fns := t.bridge.fns } }

/-- USDO transfers and management sessions. The server answers in PRE-OPERATIONAL and OPERATIONAL: a request aborts the
transfer in progress, download or upload, which is noted; further segments of the download in progress add to it and
those of another change nothing; one above 1,096 bytes and an idle transfer are aborted with their codes, and a whole
one is a write by a principal without a session; an upload answers the entry as such a principal reads it, at once or
in segments. An offer that fails step 2 of R381 is answered with the Result, AuthFailures counts it and AUTH_FAILED is
raised; a good one waits for the exchanges before it, and once its exchange is done gives a PENDING session with the
next SessionId. A session becomes ACTIVE at its first request; a READ answers and keeps its response for its Counter;
a lower Counter is answered SESSION, the same Counter again with the kept response; a tag of no session only counts.
CLOSE and the idle time end the ACTIVE session with their causes. The model's choices: offers that arrive while an
exchange runs wait, and what AuthFailures counts and when SessionId counts (log entry 65); how a segment of no
transfer in progress and the abort of a broken one are taken (log entry 67). -/
def Obligations.UsdoAndSessions : Prop :=
  (∀ s : State, usdoAnswers s = false →
    (∀ idx sub data part, exec (.usdoDownload idx sub data part) s = .next s) ∧
    (∀ idx r, exec (.usdoUpload idx r) s = .next s) ∧ (∀ data, exec (.sessionOffer data) s = .next s) ∧
    (∀ data, exec (.sessionRequest data) s = .next s) ∧ (∀ data, exec (.sessionClose data) s = .next s)) ∧
  (∀ s : State, (s.mgmt.usdo = none → s.mgmt.usdoUp = none → breakUsdo s = s) ∧
    ∀ i b d, s.mgmt.usdo = some (i, b, d) ∨ (s.mgmt.usdo = none ∧ s.mgmt.usdoUp = some (i, b, d)) →
      breakUsdo s = { s with mgmt := { s.mgmt with usdo := none, usdoUp := none, usdoBroken := some (i, b) } }) ∧
  (∀ (idx : BitVec 16) (sub : BitVec 8) (data : List Byte) (s u : State), usdoAnswers s = true →
    u = breakUsdo s →
    (data.length ≤ 1096 → exec (.usdoDownload idx sub data .unfinished) s =
      .next { u with mgmt := { u.mgmt with usdo := some (idx, sub, data) } }) ∧
    (∀ part, part = .whole ∨ part = .unfinished → 1096 < data.length → exec (.usdoDownload idx sub data part) s = .next { u with mgmt := { u.mgmt with
      usdo := none, usdoAbort := 0x06070012, usdoData := [] } }) ∧
    (data.length ≤ 1096 → showsAny idx.toNat sub.toNat = false → exec (.usdoDownload idx sub data .whole) s =
      .next { u with mgmt := { u.mgmt with usdo := none, usdoAbort := 0x06010000, usdoData := [] } }) ∧
    (∀ c w, data.length ≤ 1096 → showsAny idx.toNat sub.toNat = true → writeEntry .anon idx.toNat sub.toNat 0 data u = (c, w) →
      exec (.usdoDownload idx sub data .whole) s = .next { w with mgmt := { w.mgmt with
        usdo := none, usdoUp := none, usdoAbort := abortCode c, usdoData := [] } }) ∧
    (∀ e, sub ≠ 0 ∨ indexOf idx.toNat = none → idx ≠ 0x2D10 ∨ sub ≠ 2 ∨ s.mgmt.offer = none →
      objAt idx.toNat sub.toNat = some e → e.r.contains .any = true →
      exec (.usdoUpload idx ⟨sub, .whole⟩) s = .next { u with mgmt := { u.mgmt with
        usdo := none, usdoAbort := 0, usdoData := e.get u .anon } } ∧
      ∀ n, exec (.usdoUpload idx ⟨sub, .first n⟩) s = .next { u with mgmt := { u.mgmt with
        usdo := none, usdoAbort := 0, usdoData := (e.get u .anon).take n
        usdoUp := if (e.get u .anon).length ≤ n then none else some (idx, sub, (e.get u .anon).drop n) } }) ∧
    (s.mgmt.offer.isSome = true → exec (.usdoUpload 0x2D10 ⟨2, .whole⟩) s = .next { u with mgmt := { u.mgmt with
      usdoUp := some (0x2D10, 2, []) } })) ∧
  (∀ (idx : BitVec 16) (sub : BitVec 8) (data : List Byte) (s : State), usdoAnswers s = true →
    ((∀ d, s.mgmt.usdo ≠ some (idx, sub, d)) → exec (.usdoDownload idx sub data .more) s = .next s ∧
      exec (.usdoDownload idx sub data .last) s = .next s) ∧
    ∀ d, s.mgmt.usdo = some (idx, sub, d) →
      ((d ++ data).length ≤ 1096 → exec (.usdoDownload idx sub data .more) s =
        .next { s with mgmt := { s.mgmt with usdo := some (idx, sub, d ++ data) } }) ∧
      (∀ part, part = .more ∨ part = .last → 1096 < (d ++ data).length → exec (.usdoDownload idx sub data part) s =
        .next { s with mgmt := { s.mgmt with usdo := none, usdoUp := none, usdoAbort := 0x06070012, usdoData := [] } }) ∧
      (∀ c w, (d ++ data).length ≤ 1096 → showsAny idx.toNat sub.toNat = true →
        writeEntry .anon idx.toNat sub.toNat 0 (d ++ data) { s with mgmt := { s.mgmt with usdo := none } } = (c, w) →
        exec (.usdoDownload idx sub data .last) s = .next { w with mgmt := { w.mgmt with
          usdo := none, usdoUp := none, usdoAbort := abortCode c, usdoData := [] } })) ∧
  (∀ (idx : BitVec 16) (sub : BitVec 8) (n : Nat) (s : State), usdoAnswers s = true →
    (s.mgmt.usdoUp = none → exec (.usdoUpload idx ⟨sub, .more n⟩) s = .next s) ∧
    ∀ i b d, s.mgmt.usdoUp = some (i, b, d) →
      (i ≠ idx ∨ b ≠ sub ∨ d = [] → exec (.usdoUpload idx ⟨sub, .more n⟩) s = .next s) ∧
      (i = idx → b = sub → d ≠ [] → exec (.usdoUpload idx ⟨sub, .more n⟩) s = .next { s with mgmt := { s.mgmt with
        usdoData := s.mgmt.usdoData ++ d.take n, usdoUp := if d.length ≤ n then none else some (idx, sub, d.drop n) } })) ∧
  (∀ s : State, exec .usdoTimeout s = .next (if s.mgmt.usdo.isSome ∨ s.mgmt.usdoUp.isSome then
    { s with mgmt := { s.mgmt with usdo := none, usdoUp := none, usdoAbort := 0x05040000, usdoData := [] } } else s)) ∧
  (∀ (data : List Byte) (s u : State), usdoAnswers s = true → data.length = 152 → u = breakUsdo s →
    (sessionOfferResult s data = 0 → s.mgmt.offer = none → exec (.sessionOffer data) s = .next { u with mgmt :=
      { u.mgmt with offer := some data, usdo := none, usdoAbort := 0, usdoData := [] } }) ∧
    (sessionOfferResult s data = 0 → s.mgmt.offer ≠ none → exec (.sessionOffer data) s = .next { u with mgmt :=
      { u.mgmt with offers := s.mgmt.offers ++ [data], usdo := none, usdoAbort := 0, usdoData := [] } }) ∧
    (sessionOfferResult s data ≠ 0 → ∃ t : State, exec (.sessionOffer data) s = .next t ∧
      t.mgmt = { u.mgmt with
        answer := sessionAnswer (sessionOfferResult s data) 0 [], authFailures := satInc s.mgmt.authFailures, usdo := none
        usdoAbort := 0, usdoData := [] } ∧
      Logged s t evAuthFailed none none none (leBytes 1 (sessionOfferResult s data)) ∧
      t = { s with mgmt := t.mgmt, events := t.events })) ∧
  (∀ (s : State) (offer : List Byte) (eph : BitVec 512) (conf : BitVec 256) (shared : BitVec 384),
    (s.mgmt.offer = none → exec .sessionExchangeDone s = .next s) ∧
    (s.mgmt.offer = some offer → Config.sm2Exchange (s.dev.identityKey.getD 0) s.otp.serial
        (ofBytes 512 (slice offer 8 64)) (ofBytes 512 (slice offer 72 64)) (slice offer 136 16)
        (Config.randomBits s.free) = (eph, conf, shared) → ∃ t : State, exec .sessionExchangeDone s = .next t ∧
      (∃ x : Session, t.mgmt.pending = some x ∧ x.id = s.mgmt.sessionId + 1 ∧ x.last = none ∧
        x.key = sessionKey s.otp.masterSecret (s.mgmt.sessionId + 1) (BitVec.ofNat 256 shared.toNat)) ∧
      t.mgmt.sessionId = s.mgmt.sessionId + 1 ∧ t.mgmt.offer = s.mgmt.offers.head? ∧ t.mgmt.offers = s.mgmt.offers.tail ∧
      t.mgmt.active = s.mgmt.active ∧ slice t.mgmt.answer 0 12 =
        [0x4F, 0x5A, 0x4D, 0x41, 0, 0, 0, 0] ++ leBytes 4 (s.mgmt.sessionId + 1).toNat ∧
      t = { s with free := s.free + 1, mgmt := t.mgmt })) ∧
  (∀ (data body : List Byte) (s u : State) (n : BitVec 32) (h : Header), usdoAnswers s = true → u = breakUsdo s →
    36 ≤ data.length → data.length ≤ 1060 → body = data.take (data.length - 16) →
    n = BitVec.ofNat 32 (leNat (body.take 4)) → h = parseHeader (body.drop 4) →
    ((∀ x, s.mgmt.active = some x ∨ s.mgmt.pending = some x → sessionTag x 0 body ≠ data.drop (data.length - 16)) →
      s.mgmt.active = none → exec (.sessionRequest data) s = .next { u with mgmt := { u.mgmt with
        response := sessionResponse none (body.take 4) resSession h [], authFailures := satInc s.mgmt.authFailures
        usdo := none, usdoAbort := 0, usdoData := [] } }) ∧
    (∀ x l, s.mgmt.active = some x → sessionTag x 0 body = data.drop (data.length - 16) → x.last = some l →
      (n < l → exec (.sessionRequest data) s = .next { u with mgmt := { u.mgmt with
        response := sessionResponse (some x) (body.take 4) resSession h [], usdo := none, usdoAbort := 0, usdoData := [] } }) ∧
      (n = l → exec (.sessionRequest data) s = .next { u with mgmt := { u.mgmt with
        response := x.kept, usdo := none, usdoAbort := 0, usdoData := [] } })) ∧
    (∀ x y d, s.mgmt.active = some x → sessionTag x 0 body = data.drop (data.length - 16) → (∀ l, x.last = some l → l < n) →
      n ≠ 0xFFFFFFFF → h.op = 1 → h.mode = 0 → h.len ≤ 1024 → body.drop 20 = [] → y = { x with last := some n } →
      readEntry { u with mgmt := { u.mgmt with active := some y, failures := 0, usdo := none } } .M h.idx h.sub h.off h.len =
        (resOk, d) → ∃ t : State, exec (.sessionRequest data) s = .next t ∧
      t.mgmt.response = sessionResponse (some y) (body.take 4) resOk h d ∧
      t.mgmt.active = some { y with kept := t.mgmt.response } ∧ t.mgmt.failures = 0 ∧ t.mgmt.pending = s.mgmt.pending ∧
      t = { s with mgmt := t.mgmt }) ∧
    (∀ x, s.mgmt.active = some x → sessionTag x 0 body = data.drop (data.length - 16) → (∀ l, x.last = some l → l < n) →
      h.op = 3 → h.mode = 0 → ∃ t : State, exec (.sessionClose data) s = .next t ∧ t.mgmt.active = none ∧
      t.mgmt.pending = s.mgmt.pending ∧
      Logged s t evSessionClosed none none none (leBytes 4 x.id.toNat ++ leBytes 1 1) ∧
      t = { s with mgmt := t.mgmt, events := t.events }) ∧
    (∀ x d, s.mgmt.active = none → s.mgmt.pending = some x → sessionTag x 0 body = data.drop (data.length - 16) →
      n ≠ 0xFFFFFFFF → h.op = 1 → h.mode = 0 → h.len ≤ 1024 → body.drop 20 = [] → h.idx = 0x2D10 → h.sub = 6 →
      h.off = 0 → h.len = 4 → d = leBytes 4 x.id.toNat → ∃ t : State, exec (.sessionRequest data) s = .next t ∧
      t.mgmt.active = some { x with last := some n, kept := sessionResponse (some x) (body.take 4) resOk h d } ∧
      t.mgmt.pending = none ∧ Logged s t evSessionOpened none none none (leBytes 4 x.id.toNat) ∧
      t = { s with mgmt := t.mgmt, events := t.events })) ∧
  (∀ (data : List Byte) (s : State), leAt data 4 1 ≠ 3 → exec (.sessionClose data) s = .next s) ∧
  ∀ (s : State), (s.mgmt.active = none → exec .sessionIdleTimeout s = .next s) ∧
    ∀ x, s.mgmt.active = some x → ∃ t : State, exec .sessionIdleTimeout s = .next t ∧
      t.mgmt = { s.mgmt with active := none, failures := 0 } ∧
      Logged s t evSessionClosed none none none (leBytes 4 x.id.toNat ++ leBytes 1 2) ∧
      t = { s with mgmt := t.mgmt, events := t.events }

/-- NMT commands, heartbeat, EMCY and the errors of the bus. A node that has booted and is on the bus enters OPERATIONAL,
PRE-OPERATIONAL or STOPPED; reset communication and reset node put the pending bit timings in force, end the ACTIVE
session with cause 6 and boot up again. The heartbeat carries the NMT state, an EMCY frame the oldest queued event.
CAN_BUS_ERROR sets the counters, and a transmit counter above 255 is bus-off; after the recovery the counters are 0,
CanRecoveries counts it and CAN_BUS_OFF is raised. Nothing outside the management port and the events changes. The
model's choices: commands before the boot-up are ignored, reset communication and STOPPED end a USDO transfer, and a
PENDING session stays (log entry 62); a transmit error counter above 255 is bus-off (log entry 14). -/
def Obligations.NodeAndBus : Prop :=
  (∀ s : State, nmtListens s = false → ∀ c ∈ [Instr.nmtStartRemoteNode, .nmtEnterPreOperational, .nmtStopRemoteNode,
    .nmtResetCommunication, .nmtResetNode], exec c s = .next s) ∧
  (∀ s : State, nmtListens s = true →
    exec .nmtStartRemoteNode s = .next { s with mgmt := { s.mgmt with nmt := .operational } } ∧
    exec .nmtEnterPreOperational s = .next { s with mgmt := { s.mgmt with nmt := .preOperational } } ∧
    exec .nmtStopRemoteNode s = .next { s with mgmt := { s.mgmt with nmt := .stopped, usdo := none, usdoUp := none } } ∧
    ∀ c ∈ [Instr.nmtResetCommunication, .nmtResetNode], ∃ t : State, exec c s = .next t ∧ t.mgmt.nmt = .preOperational ∧
      t.mgmt.nominalNow = s.settings.nominalBitTiming ∧ t.mgmt.dataNow = s.settings.dataBitTiming ∧
      t.mgmt.active = none ∧ t.mgmt.pending = s.mgmt.pending ∧ t.mgmt.usdo = none ∧
      t.mgmt.usdoUp = none ∧ (∀ x, s.mgmt.active = some x →
        Logged s t evSessionClosed none none none (leBytes 4 x.id.toNat ++ leBytes 1 6)) ∧
      (s.mgmt.active = none → t.events = s.events) ∧
      (canSends s = true → t.mgmt.lastFrame = some ⟨0x700 + s.mgmt.nodeId.toNat, [0x00], true, false⟩ ∧
        t.mgmt.framesSent = s.mgmt.framesSent + 1) ∧ t = { s with mgmt := t.mgmt, events := t.events }) ∧
  (∀ s : State, (s.settings.heartbeatTime = 0 ∨ s.mgmt.nmt = .initialising ∨ canSends s = false →
      exec .heartbeat s = .next s) ∧
    (s.settings.heartbeatTime ≠ 0 → s.mgmt.nmt ≠ .initialising → canSends s = true →
      exec .heartbeat s = .next { s with mgmt := { s.mgmt with
        lastFrame := some ⟨0x700 + s.mgmt.nodeId.toNat, [nmtCode s.mgmt.nmt], true, false⟩, framesSent := s.mgmt.framesSent + 1 } })) ∧
  (∀ s : State, (s.events.emcy = [] ∨ canSends s = false ∨ s.mgmt.nmt = .initialising ∨ s.mgmt.nmt = .stopped →
      exec .emcySend s = .next s) ∧
    ∀ e rest, s.events.emcy = e :: rest → canSends s = true → s.mgmt.nmt = .preOperational ∨ s.mgmt.nmt = .operational →
      exec .emcySend s = .next { s with
        mgmt := { s.mgmt with
          lastFrame := some ⟨0x80 + s.mgmt.nodeId.toNat, eventBytes e, true, true⟩, framesSent := s.mgmt.framesSent + 1 }
        events := { s.events with emcy := rest } }) ∧
  (∀ (tec : BitVec 9) (rec : BitVec 8) (s : State), ∃ t : State, exec (.canBusError tec rec) s = .next t ∧
    t.mgmt = { s.mgmt with tec := tec, recv := rec, busOff := t.mgmt.busOff } ∧
    (t.mgmt.busOff = true ↔ s.mgmt.busOff = true ∨ 255 < tec.toNat) ∧ t = { s with mgmt := t.mgmt }) ∧
  ∀ s : State, (s.mgmt.busOff = false → exec .busOffRecovery s = .next s) ∧
    (s.mgmt.busOff = true → ∃ t : State, exec .busOffRecovery s = .next t ∧
      t.mgmt = { s.mgmt with busOff := false, tec := 0, recv := 0, recoveries := satInc s.mgmt.recoveries } ∧
      Logged s t evCanBusOff none none none (leBytes 2 (satInc s.mgmt.recoveries).toNat) ∧
      t = { s with mgmt := t.mgmt, events := t.events })

/-- Event queries, the acknowledgement and watermark reports. M and H each keep their own EventQuery; M writes EventAck. A
report request by the principal of its slot is refused with STATE while the slot is BUILDING; else ReportSequence
counts, the snapshot of that moment stands in the slot, which is BUILDING, and the slot is last in the queue.
REPORT_BUILT signs the oldest queued snapshot with the attestation key, and its slot is READY; other slots stay. A
principal without the rights is answered RIGHTS. -/
def Obligations.EventsAndReports : Prop :=
  (∀ (n : BitVec 32) (s : State), s.dev.started = true →
    exec (.eventQuery .M n) s = .next (({ s with events := { s.events with queryM := n } } : State).answer resOk) ∧
    exec (.eventQuery .H n) s = .next (({ s with events := { s.events with queryH := n } } : State).answer resOk) ∧
    exec (.eventAck .M n) s = .next (({ s with events := { s.events with ack := n } } : State).answer resOk) ∧
    ∀ pr, pr ≠ .M → exec (.eventAck pr n) s = .next (s.answer resRights) ∧
      (pr ≠ .H → exec (.eventQuery pr n) s = .next (s.answer resRights))) ∧
  (∀ (pr : Principal) (i : Fin 10) (nonce : List Byte) (s : State), s.dev.started = true →
    (slotRights i).1.any (holds s pr (slotRights i).2) = true → nonce.length = 32 →
    ((s.report i).status = .building → exec (.reportRequest pr i nonce) s = .next (s.answer resState)) ∧
    ((s.report i).status ≠ .building → ∃ (t u : State), exec (.reportRequest pr i nonce) s = .next (t.answer resOk) ∧
      u = { s with dev := { s.dev with reportSequence := s.dev.reportSequence + 1 } } ∧
      t.report i = { status := .building, snapshot := snapshot u i (requester i pr) nonce, report := [] } ∧
      slice (t.report i).snapshot 8 4 = leBytes 4 (s.dev.reportSequence + 1).toNat ∧
      slice (t.report i).snapshot 16 32 = nonce ∧ (∀ k : Fin 10, k ≠ i → t.report k = s.report k) ∧
      t = { u with reports := t.reports, reportQueue := s.reportQueue ++ [i] })) ∧
  (∀ (pr : Principal) (i : Fin 10) (nonce : List Byte) (s : State), s.dev.started = true →
    (slotRights i).1.any (holds s pr (slotRights i).2) = false →
    exec (.reportRequest pr i nonce) s = .next (s.answer resRights)) ∧
  ∀ s : State, (s.reportQueue = [] → exec .reportBuilt s = .next s) ∧
    ∀ (i : Fin 10) (rest : List (Fin 10)), s.reportQueue = i :: rest → ∃ t : State, exec .reportBuilt s = .next t ∧
      t.report i = { status := .ready, snapshot := [], report := (s.report i).snapshot ++ bytes512 (Config.sm2Sign
        (s.dev.attestKey.getD 0) (s.report i).snapshot (Config.randomBits s.free)) } ∧
      (∀ k : Fin 10, k ≠ i → t.report k = s.report k) ∧
      t = { s with free := s.free + 1, reportQueue := rest, reports := t.reports }

/-- The load of a ream. REAM_LOAD is refused with STATE in the states of R312 and with RANGE outside the vat's streams or
the bounce region; else the load is FETCHING and no ream is pending. The manifest's read gives the load its manifest
and content key, or fails it. A post of a foreign quire only counts; a post of an own quire that is neither verified
nor being read starts its read. A quire that passes its checks is staged in pages that no ream holds and verified, the
last one stages the ream, erases the content key and raises REAM_STAGED; one that fails, a bad manifest or the timeout
makes the load FAILED with its cause, drops the pending ream, whose pages read zeros, and raises REAM_FAILED.
REAM_CANCEL aborts a load that is FETCHING or STAGED and is else refused with STATE. The active ream, other vats and
host memory stay. Which staging pages the sections of a ream take is the model's choice (log entry 96), as are the
checks of reserved bytes (log entry 53). -/
def Obligations.ReamLoads : Prop :=
  (∀ (pr : Principal) (v : Vat) (data : List Byte) (hw : HostWrites) (s u : State), u = s.hostWrites hw → u.dev.started = true → data.length = 16 →
    vt.any (holds u pr (.vat v)) = true →
    ((u.vat v).load.state = .fetching ∨ (u.vat v).load.state = .staged ∨ (u.vat v).state = .pulping ∨
      (u.vat v).state = .resetting ∨ (u.vat v).debug ≠ .off ∨ (u.stream (field (leAt data 0 2) 11 0)).state = .free ∨
      (u.stream (field (leAt data 0 2) 11 0)).state = .closing ∨
      (u.stream (field (leAt data 0 2) 11 0)).state = .resetting →
      exec (.reamLoad pr v data hw) s = .next (u.answer resState)) ∧
    ((u.vat v).load.state ≠ .fetching → (u.vat v).load.state ≠ .staged → (u.vat v).state ≠ .pulping →
      (u.vat v).state ≠ .resetting → (u.vat v).debug = .off → (u.stream (field (leAt data 0 2) 11 0)).state ≠ .free →
      (u.stream (field (leAt data 0 2) 11 0)).state ≠ .closing →
      (u.stream (field (leAt data 0 2) 11 0)).state ≠ .resetting →
      (u.streamVat (field (leAt data 0 2) 11 0) ≠ some v.val ∨
        (u.stream (field (leAt data 0 2) 11 0)).bounceBytes < leAt data 8 8 + leAt data 4 4 →
        exec (.reamLoad pr v data hw) s = .next (u.answer resRange)) ∧
      (u.streamVat (field (leAt data 0 2) 11 0) = some v.val →
        leAt data 8 8 + leAt data 4 4 ≤ (u.stream (field (leAt data 0 2) 11 0)).bounceBytes → ∃ t : State,
        exec (.reamLoad pr v data hw) s = .next (t.answer resOk) ∧ (t.vat v).load.state = .fetching ∧
        (t.vat v).load.stream.val = field (leAt data 0 2) 11 0 ∧ (t.vat v).load.offset = leAt data 8 8 ∧
        (t.vat v).load.length = leAt data 4 4 ∧ (t.vat v).load.manifest = none ∧ (t.vat v).load.contentKey = none ∧
        t.vat v = { u.vat v with pendingReam := none, load := (t.vat v).load } ∧ (∀ w : Vat, w ≠ v → t.vat w = u.vat w) ∧
        t = { u with vats := t.vats }))) ∧
  (∀ (v : Vat) (ok : Bool) (s : State),
    ((s.vat v).load.state ≠ .fetching ∨ (s.vat v).load.manifest.isSome = true ∨ ok = false →
      exec (.manifestReadDone v ok) s = .next s) ∧
    ∀ l x, x = s.stream (s.vat v).load.stream → (s.vat v).load.state = .fetching → (s.vat v).load.manifest = none →
      (s.vat v).load.offset + (s.vat v).load.length ≤ x.bounceBytes →
      l = s.hostRead (x.cfg.bounceBase.toNat + (s.vat v).load.offset) (s.vat v).load.length →
      (∀ c, checkManifest s v l = .error c → ∃ t : State, exec (.manifestReadDone v true) s = .next t ∧
        LoadFailed s t v stQuireBad c 0xFFFF) ∧
      (∀ m key, checkManifest s v l = .ok (m, key) → (s.vat v).load.reading = [] → ∃ t : State,
        exec (.manifestReadDone v true) s = .next t ∧
        t.vat v = { s.vat v with
          pendingReam := some { digest := m.digest, isProtected := m.isProtected, editionCount := m.editionCount }
          load := { (s.vat v).load with
                    manifest := some m, contentKey := some key, expected := m.own.length, reading := [] } } ∧
        (∀ w : Vat, w ≠ v → t.vat w = s.vat w) ∧ t = { s with vats := t.vats })) ∧
  (∀ (pr : Principal) (v : Vat) (w : BitVec 64) (hw : HostWrites) (s r : State), r = s.hostWrites hw → r.dev.started = true →
    vt.any (holds r pr (.vat v)) = true →
    ((r.vat v).load.state ≠ .fetching → exec (.quirePost pr v w hw) s = .next (r.answer resState)) ∧
    ∀ m, (r.vat v).load.state = .fetching → (r.vat v).load.manifest = some m →
      (m.foreign.contains (field w.toNat 63 48) = true → ∃ t : State,
        exec (.quirePost pr v w hw) s = .next (t.answer resOk) ∧
        t.vat v = { r.vat v with foreignPosts := satInc (r.vat v).foreignPosts } ∧
        (∀ u : Vat, u ≠ v → t.vat u = r.vat u) ∧ t = { r with vats := t.vats }) ∧
      (∀ e, m.foreign.contains (field w.toNat 63 48) = false →
        m.own.find? (fun x => decide (x.1 = field w.toNat 63 48)) = some e →
        field w.toNat 47 0 + e.2.1 ≤ (r.stream (r.vat v).load.stream).bounceBytes →
        (r.vat v).load.verified.contains (field w.toNat 63 48) = false →
        ((r.vat v).load.reading.any fun x => decide (x.1 = field w.toNat 63 48)) = false → ∃ t : State,
        exec (.quirePost pr v w hw) s = .next (t.answer resOk) ∧
        t.vat v = { r.vat v with load := { (r.vat v).load with
          reading := (r.vat v).load.reading ++ [(field w.toNat 63 48, field w.toNat 47 0)] } } ∧
        (∀ u : Vat, u ≠ v → t.vat u = r.vat u) ∧ t = { r with vats := t.vats })) ∧
  (∀ (v : Vat) (s : State) (l : Load) (m : Manifest) (key : BitVec 128) (q off len : Nat) (dg : BitVec 256)
      (rest : List (Nat × Nat)) (x : Stream), l = (s.vat v).load → l.manifest = some m → l.contentKey = some key →
    l.reading = (q, off) :: rest → l.state = .fetching → m.own.find? (fun e => decide (e.1 = q)) = some (q, len, dg) →
    x = s.stream l.stream → off + len ≤ x.bounceBytes →
    (∀ c, (openQuire s m key q dg (s.hostRead (x.cfg.bounceBase.toNat + off) len)).bind
        (stageQuire s v m (((s.vat v).pendingReam.map Ream.sections).getD []) (decide (l.verified.length + 1 = l.expected))) =
        .error c → ∃ t : State, exec (.quireReadDone v) s = .next t ∧ LoadFailed s t v stQuireBad c q) ∧
    (∀ secs, (openQuire s m key q dg (s.hostRead (x.cfg.bounceBase.toNat + off) len)).bind
        (stageQuire s v m (((s.vat v).pendingReam.map Ream.sections).getD []) (decide (l.verified.length + 1 = l.expected))) =
        .ok secs → ∃ t : State, exec (.quireReadDone v) s = .next t ∧
      (∀ old new, old = ((s.vat v).pendingReam.map Ream.held).getD [] → new = takePages (s.vat v) old secs →
        (t.vat v).pendingReam = (s.vat v).pendingReam.map (fun y =>
          { y with sections := secs, pages := stagedPages secs, held := old ++ new }) ∧
        FramesZeroed s t (stagingFrames s v new)) ∧
      (t.vat v).load.verified = q :: l.verified ∧
      t.vat v = { s.vat v with
        pendingReam := (t.vat v).pendingReam, load := (t.vat v).load
        exact := lset (s.vat v).exact 3 (lget 0 (s.vat v).exact 3 +
          (sectionBytes secs - sectionBytes (((s.vat v).pendingReam.map Ream.sections).getD []))) } ∧
      (l.verified.length + 1 ≠ l.expected → (t.vat v).load.state = .fetching ∧ (t.vat v).load.reading = rest ∧
        (t.vat v).load.contentKey = some key ∧ t.events = s.events) ∧
      (l.verified.length + 1 = l.expected → (t.vat v).load.state = .staged ∧ (t.vat v).load.contentKey = none ∧
        Logged s t evReamStaged none none (some v) (leBytes 2 l.expected)) ∧
      (∀ w : Vat, w ≠ v → t.vat w = s.vat w) ∧ t = { s with vats := t.vats, events := t.events, hubs := t.hubs })) ∧
  (∀ (v : Vat) (s : State), ((s.vat v).load.state ≠ .fetching → exec (.quireTimeout v) s = .next s) ∧
    ((s.vat v).load.state = .fetching → ∃ (t : State) (q : Nat), exec (.quireTimeout v) s = .next t ∧
      LoadFailed s t v stQuireMissing fcTimeout q ∧ ((s.vat v).load.manifest = none → q = 0xFFFF))) ∧
  ∀ (pr : Principal) (v : Vat) (s : State), s.dev.started = true → vt.any (holds s pr (.vat v)) = true →
    (((s.vat v).load.state ≠ .fetching ∧ (s.vat v).load.state ≠ .staged) ∨
        ((s.vat v).swap.active = true ∧ (s.vat v).swap.fromPending = true) →
      exec (.reamCancel pr v) s = .next (s.answer resState)) ∧
    ((s.vat v).load.state = .fetching ∨ (s.vat v).load.state = .staged →
      (s.vat v).swap.active = false ∨ (s.vat v).swap.fromPending = false → ∃ t : State,
      exec (.reamCancel pr v) s = .next (t.answer resOk) ∧ (t.vat v).load.state = .aborted ∧
      (t.vat v).load.contentKey = none ∧ (t.vat v).pendingReam = none ∧ (t.vat v).active = (s.vat v).active ∧
      FramesZeroed s t (pendingFrames s v) ∧ (∀ w : Vat, w ≠ v → t.vat w = s.vat w) ∧
      t = { s with vats := t.vats, hubs := t.hubs })

/-- Swap requests, engraving power, bites, checks and the end of an engraving. SWAP_REQUEST is refused with STATE or RANGE
as R325 says; else the named epoch is incoming and all 16 plates of each press wait for the swap, with rotation
suspended, and the tables of the epoch in force stay known. ENGRAVING_START grants power to the first waiting plate by
class and age while fewer than the limit engrave, and its content is read from the staged ream. BITE pays for the
pulses of the pulp until they are admitted, and after them for those of spares mapped in; work that is not admitted
counts as demand; then an admitted bite ends a line whose cells all lie in their windows, counts one more bite below
BiteLimit, and at the limit maps the spare column of a failed cell in. ENGRAVING_CHECK passes to the verify, repeats
the failing columns once, and maps the spare column of one that fails again in. ENGRAVING_DONE records the codes of
the proof columns and leaves the plate as its purpose says: in a running swap a plate of the incoming epoch waits for
the loads of step 3. PLATE_PULP_DONE ends a pulp once its pulses are paid for. Without such work nothing changes. The
model's choices: rotation is SUSPENDED also where it was STOPPED (log entry 99), the passes of the check are charged
to no class (log entry 94), the bites that repeat a column count one more engraving in the ledger (log entry 51), and
how pulses are paid over windows (log entry 93). -/
def Obligations.SwapsAndEngraving : Prop :=
  (∀ (pr : Principal) (v : Vat) (w : BitVec 32) (s : State) (ream : Option Ream), s.dev.started = true →
    vt.any (holds s pr (.vat v)) = true → ream = (if nbit w.toNat 15 then (s.vat v).pendingReam else (s.vat v).active) →
    ((s.vat v).state ≠ .serving ∨ (s.vat v).swap.active = true ∨ ream = none ∨
        (nbit w.toNat 15 = true ∧ ((s.vat v).load.state ≠ .staged ∨ olderTablesUsed s v = true)) →
      exec (.swapRequest pr v w) s = .next (s.answer resState)) ∧
    (∀ x, (s.vat v).state = .serving → (s.vat v).swap.active = false → ream = some x →
      (nbit w.toNat 15 = true → (s.vat v).load.state = .staged ∧ olderTablesUsed s v = false) →
      (x.editionCount ≤ field w.toNat 5 0 ∨ BitVec.ofNat 16 (field w.toNat 31 16) = (s.vat v).currentEpoch →
        exec (.swapRequest pr v w) s = .next (s.answer resRange)) ∧
      (field w.toNat 5 0 < x.editionCount → BitVec.ofNat 16 (field w.toNat 31 16) ≠ (s.vat v).currentEpoch →
        (∀ p ∈ s.vatPresses v, ∀ q, ((s.press p).plate q).ready = none) → swapPresses s v ≠ [] → ∃ t : State,
        exec (.swapRequest pr v w) s = .next (t.answer resOk) ∧ (t.vat v).swap.active = true ∧
        (t.vat v).swap.epoch = BitVec.ofNat 16 (field w.toNat 31 16) ∧ (t.vat v).swap.fromPending = nbit w.toNat 15 ∧
        (t.vat v).swap.edition = field w.toNat 5 0 ∧ (t.vat v).swap.todo.length = 16 * (swapPresses s v).length ∧
        (t.vat v).incomingEpoch = some (BitVec.ofNat 16 (field w.toNat 31 16)) ∧
        (t.vat v).currentEpoch = (s.vat v).currentEpoch ∧ (t.vat v).active = (s.vat v).active ∧
        (∀ p ∈ swapPresses s v, (t.press p).rotation = .suspended) ∧
        (BitVec.ofNat 16 (field w.toNat 31 16), if nbit w.toNat 15 then !(s.vat v).tableNow else (s.vat v).tableNow) ∈
          (t.vat v).epochs ∧ (t.vat v).tableNow = (s.vat v).tableNow ∧
        ((∀ e ∈ (s.vat v).epochs, e.1 ≠ (s.vat v).currentEpoch) →
          ((s.vat v).currentEpoch, (s.vat v).tableNow) ∈ (t.vat v).epochs) ∧
        (∀ p, (t.press p).plates = (s.press p).plates ∧ (t.press p).banks = (s.press p).banks) ∧
        (∀ u : Vat, u ≠ v → t.vat u = s.vat u) ∧ (∀ p, p ∉ s.vatPresses v → t.press p = s.press p) ∧
        ((∀ f i, s.poisoned f i = false) → t.hubs = s.hubs ∧ t.events = s.events ∧ t.free = s.free) ∧
        t = { s with vats := t.vats, presses := t.presses, engQueue := t.engQueue, hubs := t.hubs, events := t.events,
                     free := t.free }))) ∧
  (∀ s : State, NoSwap s → (∀ e ∈ s.engQueue, e.purpose ≠ .swap) →
    (engravingLimit s ≤ engravingsActive s ∨ s.engQueue.filter (grantable s) = [] → exec .engravingStart s = .next s) ∧
    ∀ e, engravingsActive s < engravingLimit s → argMin EngReq.cls (s.engQueue.filter (grantable s)) = some e →
      ∃ t : State, exec .engravingStart s = .next t ∧ t.engQueue = s.engQueue.erase e ∧
      (∃ r, (t.press e.press).engraving = some r ∧ r.plate = e.plate ∧ r.held = false ∧
        ((s.press e.press).engraving = none → r.purpose = e.purpose ∧ r.pulsed = false ∧ r.paid = 0 ∧
          r.content = (readEngraved e s).1.map (fun c => { c with codebook := codebookOf s { codebook := c.codebook } }) ∧
          (e.content = none → r.phase = .pulp) ∧ (e.content ≠ none → r.phase = .bites ∧
            r.lines = servingLines ((s.press e.press).plate e.plate) ∧
            ((t.press e.press).plate e.plate).ledger = satInc ((s.press e.press).plate e.plate).ledger))) ∧
      (∀ p : Press, p ≠ e.press → t.press p = s.press p) ∧
      (∀ v : Vat, s.pressVat e.press ≠ some v.val → t.vat v = s.vat v) ∧
      ((∀ f i, s.poisoned f i = false) → t.hubs = s.hubs ∧ t.free = s.free) ∧
      t = { s with engQueue := t.engQueue, presses := t.presses, events := t.events, vats := t.vats, hubs := t.hubs,
                   free := t.free }) ∧
  (∀ (p : Press) (seen : List (Fin 520 × Int)) (s : State),
    ((s.press p).engraving = none ∨ pressBites s p = false → exec (.bite p seen) s = .next s) ∧
    ∀ e line rest outside, outside = outsideCells ((s.press p).bank e.plate) seen → (s.press p).engraving = some e → e.lines = line :: rest → e.held = false → pressBites s p = true →
      (∀ paid done u, e.pulsed = false → payTowards p 2 20 (1056 * price s p .pulse) e.paid s = (paid, done, u) → ∃ t : State,
        exec (.bite p seen) s = .next t ∧ (t.press p).engraving = some { e with paid := paid, pulsed := done } ∧
        t.press p = { s.press p with engraving := (t.press p).engraving } ∧ (∀ q : Press, q ≠ p → t.press q = s.press q) ∧
        t.gov = u.gov ∧ t = { s with presses := t.presses, gov := t.gov }) ∧
      (e.pulsed = true → 0 < e.pulses →
        (admits s p .pulse 1 = false → exec (.bite p seen) s = .next (refuse p 20 .pulse 1 s)) ∧
        (admits s p .pulse 1 = true → ∃ t : State, exec (.bite p seen) s = .next t ∧
          (t.press p).engraving = some { e with pulses := e.pulses - 1 } ∧
          t.press p = { s.press p with engraving := (t.press p).engraving } ∧ (∀ q : Press, q ≠ p → t.press q = s.press q) ∧
          t = { s with presses := t.presses, gov := (charge p .pulse 1 s).gov })) ∧
      (e.pulsed = true → e.pulses = 0 → admits s p .bite 1 = false →
        exec (.bite p seen) s = .next (refuse p 20 .bite 1 s)) ∧
      (e.pulsed = true → e.pulses = 0 → admits s p .bite 1 = true →
        (cellsOf ((s.press p).plate e.plate) line outside = [] → ∃ t : State, exec (.bite p seen) s = .next t ∧
          (t.press p).engraving = some { e with
            lines := rest, bites := 0, phase := if e.phase = .bites ∧ rest = [] then .check else e.phase } ∧
          t.press p = { s.press p with engraving := (t.press p).engraving } ∧ (∀ q : Press, q ≠ p → t.press q = s.press q) ∧
          t = { s with presses := t.presses, gov := (charge p .bite 1 s).gov }) ∧
        (cellsOf ((s.press p).plate e.plate) line outside ≠ [] → e.bites + 1 < s.settings.biteLimit.toNat → ∃ t : State,
          exec (.bite p seen) s = .next t ∧ (t.press p).engraving = some { e with bites := e.bites + 1 } ∧
          t.press p = { s.press p with engraving := (t.press p).engraving } ∧ (∀ q : Press, q ≠ p → t.press q = s.press q) ∧
          t = { s with presses := t.presses, gov := (charge p .bite 1 s).gov }) ∧
        (∀ row col, cellsOf ((s.press p).plate e.plate) line outside = [row] → s.settings.biteLimit.toNat ≤ e.bites + 1 →
          ((s.press p).plate e.plate).state ≠ .retired → lineColumn ((s.press p).plate e.plate) line = (col, false) →
          replacedBy ((s.press p).plate e.plate).colMap (col / 32) = none → ∃ t : State,
          exec (.bite p seen) s = .next t ∧
          (∃ r, (t.press p).engraving = some r ∧ r.pulses = 2) ∧
          tget 0 ((t.press p).plate e.plate).colMap (col / 32) = BitVec.ofNat 16 (0x8000 + col) ∧
          (∀ i, i ≠ col / 32 → tget 0 ((t.press p).plate e.plate).colMap i = tget 0 ((s.press p).plate e.plate).colMap i) ∧
          (∀ q : Press, q ≠ p → t.press q = s.press q) ∧
          t = { s with presses := t.presses, events := t.events, gov := t.gov }))) ∧
  (∀ (p : Press) (errs : List (Fin 512 × Int × Int)) (s : State),
    ((s.press p).engraving = none ∨ pressPasses s p = false → exec (.engravingCheck p errs) s = .next s) ∧
    ∀ e x1 x2 bad, (s.press p).engraving = some e → e.held = false → e.lines = [] → pressPasses s p = true →
      checkRatios s (e.content.getD {}) = (x1, x2) →
      bad = (errs.filter fun d => checkFails s.settings.engraveCheckLimit.toNat (lget ⟨0, 1⟩ x1 d.1) d.2.1 ||
        checkFails s.settings.engraveCheckLimit.toNat (lget ⟨0, 1⟩ x2 d.1) d.2.2).map (fun d => d.1.val) →
      (e.phase ≠ .check → e.phase ≠ .recheck → exec (.engravingCheck p errs) s = .next s) ∧
      (e.phase = .check ∨ e.phase = .recheck → bad = [] → ∃ t : State,
        exec (.engravingCheck p errs) s = .next t ∧ (t.press p).engraving = some { e with phase := .verify } ∧
        t.press p = { s.press p with engraving := (t.press p).engraving, banks := (t.press p).banks } ∧
        (∀ b, (t.press p).bank b = if b = e.plate.val ∨ b = (s.press p).upBank e.plate then
          { (s.press p).bank b with poweredDown := false, idleFrame := false } else (s.press p).bank b) ∧
        (∀ q : Press, q ≠ p → t.press q = s.press q) ∧ t = { s with presses := t.presses }) ∧
      (e.phase = .check → bad ≠ [] → ∃ t : State,
        exec (.engravingCheck p errs) s = .next t ∧ (t.press p).engraving = some { e with
          phase := .recheck, lines := bad.flatMap (columnLines ((s.press p).plate e.plate)) } ∧
        ((t.press p).plate e.plate).ledger = satInc ((s.press p).plate e.plate).ledger ∧
        (∀ q : Press, q ≠ p → t.press q = s.press q) ∧ t = { s with presses := t.presses, events := t.events }) ∧
      (∀ n, e.phase = .recheck → bad = [n] → ((s.press p).plate e.plate).state ≠ .retired →
        spareOf ((s.press p).plate e.plate).colMap 32 n = none →
        replacedBy ((s.press p).plate e.plate).colMap (n / 32) = none → ∃ (t : State) (r : EngRec),
        exec (.engravingCheck p errs) s = .next t ∧ (t.press p).engraving = some r ∧ r.phase = .verify ∧
        tget 0 ((t.press p).plate e.plate).colMap (n / 32) = BitVec.ofNat 16 (0x8000 + n) ∧
        (∀ q : Press, q ≠ p → t.press q = s.press q) ∧
        t = { s with presses := t.presses, events := t.events, gov := t.gov })) ∧
  (∀ (p : Press) (errs : List Int) (s : State),
    ((s.press p).engraving = none ∨ pressPasses s p = false → exec (.engravingDone p errs) s = .next s) ∧
    ∀ e c, (s.press p).engraving = some e → e.content = some c → e.held = false → e.lines = [] →
      e.phase = .verify → pressPasses s p = true →
      (NoSwap s → ∃ t : State, exec (.engravingDone p errs) s = .next t ∧ (t.press p).engraving = none ∧
        ((t.press p).plate e.plate).centres = (List.range 8).map (fun j => proofCode j (lget 0 errs j)) ∧
        ((t.press p).plate e.plate).driftAge = 0 ∧ ((t.press p).plate e.plate).passes = 0 ∧
        ((t.press p).bank e.plate).poweredDown = false ∧ ((t.press p).bank ((s.press p).upBank e.plate)).poweredDown = false ∧
        ((t.press p).plate e.plate).verifyTemp = (s.press p).thermal.reading ∧
        ((t.press p).plate e.plate).codes = c.codes ∧ ((t.press p).plate e.plate).codebook = c.codebook ∧
        ((t.press p).plate e.plate).fullScaleShift = c.fullScaleShift ∧ ((t.press p).plate e.plate).epoch = c.epoch ∧
        (e.purpose = .refresh → (t.press p).handover = true ∧
          ((t.press p).plate e.plate).state = ((s.press p).plate e.plate).state) ∧
        (e.purpose = .inPlace → (t.press p).returning = some e.plate ∧
          ((t.press p).plate e.plate).state = ((s.press p).plate e.plate).state) ∧
        (e.purpose ≠ .refresh → e.purpose ≠ .inPlace → ((t.press p).plate e.plate).state = .live ∧
          ((t.press p).bank e.plate).regs.sense = c.sense) ∧
        (∀ q, q ≠ e.plate.val → (t.press p).plate q = (s.press p).plate q) ∧
        (∀ q : Press, q ≠ p → t.press q = s.press q) ∧ t = { s with presses := t.presses }) ∧
      (∀ v : Vat, s.pressVat p = some v.val → (s.vat v).swap.active = true → (s.vat v).swap.epoch = c.epoch →
        e.purpose ≠ .refresh → e.purpose ≠ .inPlace →
        (∃ m g, m < 2 ∧ g < 4 ∧ nbit ((s.press p).macro' m).loading.toNat g = true ∧
          (tget {} ((s.press p).macro' m).records g).staged.isSome = true) → ∃ t : State,
        exec (.engravingDone p errs) s = .next t ∧ (t.press p).engraving = none ∧
        ((t.press p).plate e.plate).ready = some c ∧
        ((t.press p).plate e.plate).state = ((s.press p).plate e.plate).state)) ∧
  ∀ (p : Press) (s : State),
    ((s.press p).engraving = none ∨ pressBites s p = false → exec (.platePulpDone p) s = .next s) ∧
    ∀ e paid done u, (s.press p).engraving = some e → e.phase = .pulp → e.held = false → pressBites s p = true →
      payTowards p 2 20 (1056 * price s p .pulse) e.paid s = (paid, done, u) → ∃ t : State,
      exec (.platePulpDone p) s = .next t ∧ t.gov = u.gov ∧
      (done = false → (t.press p).engraving = some { e with paid := paid, pulsed := false } ∧
        t.press p = { s.press p with engraving := (t.press p).engraving } ∧ (∀ q : Press, q ≠ p → t.press q = s.press q) ∧
        t = { s with presses := t.presses, gov := t.gov }) ∧
      (done = true → NoSwap s → (t.press p).engraving = none ∧
        (e.purpose = .refresh → (t.press p).handover = true ∧ (t.press p).plates = (s.press p).plates) ∧
        (e.purpose = .swapTarget → (t.press p).plates = (s.press p).plates) ∧
        (e.purpose = .vatPulp ∨ e.purpose = .resetPulp → e.plate = (s.press p).refreshTarget →
          (t.press p).plates = (s.press p).plates) ∧
        ((e.purpose = .vatPulp ∨ e.purpose = .resetPulp) ∧ e.plate ≠ (s.press p).refreshTarget ∨ e.purpose = .swap ∨
            e.purpose = .engage ∨ e.purpose = .reengrave → ((t.press p).plate e.plate).state = .blank ∧
          ((t.press p).plate e.plate).fullScaleShift = 3 ∧ ((t.press p).plate e.plate).codebook = []) ∧
        (∀ q, q ≠ e.plate.val → (t.press p).plate q = (s.press p).plate q) ∧
        (∀ q : Press, q ≠ p → t.press q = s.press q) ∧
        t = { s with presses := t.presses, vats := t.vats, gov := t.gov })

/-- Refresh steps, trim fences, proof passes and the endurance ledger. A ledger write by M of 68 bytes is accepted until
the press has engraved. A due step of a running rotation of a press whose vat does not swap, pulp or reset asks for
power for the refresh target with the next plate's content; with rotation stopped the plate that inPlacePlate names is
ENGRAVING at once, leaves job service with its couch and asks for power. At a fence, on a plate without a pass in
flight whose bank is idle or whose job has ended and that no check runs on, the pending trims of the couch take
effect, a plate refreshed in place returns to service, and a finished step hands the next plate's number, registers
and waiting passes to the target, and FencesForced counts the release of deposits that a forced fence held. A wait
that expires holds deposits. A proof pass wakes its banks. A proof pass beyond the limit takes the couch out of
service with PROOF_LIMIT and puts a waiting refresh step into class 1, one outside the band twice asks for priority
with PROOF_BAND. Otherwise these commands change nothing. The model's choices: a plate is ENGRAVING from the moment it
leaves job service (log entry 51), and no plate is refreshed in place while a swap, pulp or reset holds the rotation
(log entry 99). -/
def Obligations.RefreshAndTrim : Prop :=
  (∀ (p : Press) (data : List Byte) (s : State), s.dev.started = true →
    (∀ pr, pr ≠ .M → exec (.enduranceLedgerWrite pr p data) s = .next (s.answer resRights)) ∧
    (data.length ≠ 68 → exec (.enduranceLedgerWrite .M p data) s = .next (s.answer resLength)) ∧
    (data.length = 68 → (s.press p).engravedOnce = true →
      exec (.enduranceLedgerWrite .M p data) s = .next (s.answer resState)) ∧
    (data.length = 68 → (s.press p).engravedOnce = false → ∃ t : State,
      exec (.enduranceLedgerWrite .M p data) s = .next (t.answer resOk) ∧
      (∀ q : Plate, (t.press p).plate q = { (s.press p).plate q with
        ledger := BitVec.ofNat 32 (leAt data (4 * q) 4), warned := false }) ∧
      t.press p = { s.press p with plates := (t.press p).plates } ∧ (∀ q : Press, q ≠ p → t.press q = s.press q) ∧
      t = { s with presses := t.presses })) ∧
  (∀ (p : Press) (s : State) (r : PressRec) (n : Nat), r = s.press p → n = (r.refreshTarget.val + 1) % 17 →
    (r.state ≠ .active ∨ refreshing s p = true ∨ rotationHeld s p = true ∨ r.rotation = .suspended ∨
      (r.rotation = .running ∧ r.stepAcc < stepGoal s) → exec (.refreshStepDue p) s = .next s) ∧
    (r.state = .active → refreshing s p = false → rotationHeld s p = false →
      (r.rotation = .priority ∨ (r.rotation = .running ∧ stepGoal s ≤ r.stepAcc) → ∃ e : EngReq,
        exec (.refreshStepDue p) s = .next { s with engQueue := s.engQueue ++ [e] } ∧ e.press = p ∧
        e.plate = r.refreshTarget ∧ e.purpose = .refresh ∧ e.cls = refreshClass r ∧
        e.content = if (r.plate n).state = .live then some (liveContent r n) else none) ∧
      (r.rotation = .stopped → inPlacePlate r = none → exec (.refreshStepDue p) s = .next s) ∧
      (∀ q, r.rotation = .stopped → inPlacePlate r = some q →
        (r.stepAcc < stepGoal s → (r.plate q).priority = false → exec (.refreshStepDue p) s = .next s) ∧
        (stepGoal s ≤ r.stepAcc ∨ (r.plate q).priority = true → ∃ (t : State) (e : EngReq),
          exec (.refreshStepDue p) s = .next t ∧ t.engQueue = s.engQueue ++ [e] ∧ e.press = p ∧ e.plate.val = q % 17 ∧
          e.purpose = .inPlace ∧ e.cls = 1 ∧ e.content = some (liveContent r q) ∧
          (∀ x, (t.press p).plate x = { r.plate x with
            state := if x = q then .engraving else (r.plate x).state
            inPlace := decide (x = q) || (r.plate x).inPlace
            outOfService := (fencePlates r q).contains x || (r.plate x).outOfService }) ∧
          t.press p = { r with plates := (t.press p).plates } ∧ (∀ y : Press, y ≠ p → t.press y = s.press y) ∧
          t = { s with engQueue := t.engQueue, presses := t.presses })))) ∧
  (∀ (p : Press) (q : Plate) (s : State) (r : PressRec) (qs : List Nat), r = s.press p → qs = fencePlates r q →
    (r.clocked = false ∨ (∃ x ∈ qs, atFence r x = false) → exec (.trimFence p q) s = .next s) ∧
    (∀ x, atFence r x = true ↔ plateQuiet r x = true ∧ ((r.bank x).idleFrame = true ∨ jobBoundary r x = true) ∧ inCheck r x = false) ∧
    (r.clocked = true → (∀ x ∈ qs, atFence r x = true) → (∀ x ∈ qs, twf none (r.bank x).pendingTrim = true) →
      (∀ x ∈ r.returning, x.val ∉ qs) → r.handover = false ∨ (r.refreshTarget.val + 1) % 17 ∉ qs → ∃ t : State,
      exec (.trimFence p q) s = .next t ∧
      (∀ x, x ∈ qs → (t.press p).bank x = { r.bank x with
          trim := (r.bank x).trimPending.getD (r.bank x).trim, trimPending := none, pendingTrim := []
          trimFor := if (r.bank x).trimPending.isSome then (r.bank x).pendingFor else (r.bank x).trimFor
          sliceTrim := ((t.press p).bank x).sliceTrim } ∧
        (∀ i, tget 0 ((t.press p).bank x).sliceTrim i =
          (tget none (r.bank x).pendingTrim i).getD (tget 0 (r.bank x).sliceTrim i)) ∧
        (t.press p).plate x = { r.plate x with fenceHold := false }) ∧
      (∀ x, x ∉ qs → (t.press p).bank x = r.bank x ∧ (t.press p).plate x = r.plate x) ∧
      t.press p = { r with
        banks := (t.press p).banks, plates := (t.press p).plates
        fencesForced := if qs.any fun x => (r.plate x).fenceHold then satInc r.fencesForced else r.fencesForced } ∧
      (∀ y : Press, y ≠ p → t.press y = s.press y) ∧ t = { s with presses := t.presses }) ∧
    (∀ x, r.clocked = true → (∀ x ∈ qs, atFence r x = true) → r.returning = some x → x.val ∈ qs →
      r.handover = false → ∃ t : State, exec (.trimFence p q) s = .next t ∧ ((t.press p).plate x).state = .live ∧
      ((t.press p).plate x).inPlace = false ∧ ((t.press p).plate x).priority = false ∧
      (r.rotation = .suspended ∨ r.rotation = .stopped → (t.press p).rotation = r.rotation) ∧
      (∀ y ∈ qs, ((t.press p).plate y).outOfService = partnerOut r qs x) ∧ (t.press p).returning = none ∧
      (t.press p).stepAcc = 0 ∧ (∀ y, ((t.press p).plate y).codes = (r.plate y).codes) ∧
      (∀ y : Press, y ≠ p → t.press y = s.press y) ∧ t = { s with presses := t.presses }) ∧
    (∀ h n, r.clocked = true → (∀ x ∈ qs, atFence r x = true) → r.returning = none → r.fallbackBank = none →
      h = r.refreshTarget.val → n = (h + 1) % 17 → r.handover = true → n ∈ qs → ∃ t : State,
      exec (.trimFence p q) s = .next t ∧ (t.press p).refreshTarget.val = n ∧ (t.press p).handover = false ∧
      (t.press p).stepAcc = 0 ∧
      (t.press p).logicalBase.val = (if r.logicalBase.val = n then h else r.logicalBase.val) ∧
      ((t.press p).plate h).state = (if (r.plate n).state = .live then .live else .blank) ∧
      ((t.press p).plate h).epoch = (r.plate n).epoch ∧ ((t.press p).plate h).priority = false ∧
      ((t.press p).plate n).state = .refreshTarget ∧ ((t.press p).plate n).outOfService = false ∧
      ((t.press p).bank h).regs = (r.bank n).regs ∧ ((t.press p).bank h).driveQueue = (r.bank n).driveQueue ∧
      ((t.press p).bank h).repeats = (r.bank n).repeats ∧ ((t.press p).bank h).lanes = (r.bank n).lanes ∧
      ((t.press p).bank h).frames = (r.bank n).frames ∧
      ((t.press p).bank h).outputAcc = (r.bank n).outputAcc ∧ ((t.press p).bank n).driveQueue = [] ∧ (∀ x, ((t.press p).plate x).codes = (r.plate x).codes) ∧
      (r.rotation = .suspended ∨ r.rotation = .stopped → (t.press p).rotation = r.rotation) ∧
      (∀ y : Press, y ≠ p → t.press y = s.press y) ∧ t = { s with presses := t.presses }) ∧
    (r.clocked = false ∨ waitsFence r q = false ∨ (r.plate q).fenceHold = true →
      exec (.trimFenceWaitExpiry p q) s = .next s) ∧
    (r.clocked = true → waitsFence r q = true → (r.plate q).fenceHold = false → ∃ t : State,
      exec (.trimFenceWaitExpiry p q) s = .next t ∧
      (∀ x, (t.press p).plate x = { r.plate x with fenceHold := qs.contains x || (r.plate x).fenceHold }) ∧
      t.press p = { r with plates := (t.press p).plates } ∧
      (∀ y : Press, y ≠ p → t.press y = s.press y) ∧ t = { s with presses := t.presses })) ∧
  ∀ (p : Press) (q : Plate) (errs : List Int) (s : State) (r : PressRec) (qs : List Nat) (res : List Nat) (again : Bool),
    r = s.press p → qs = fencePlates r q → res = (List.range 8).map (fun j => columnResult s p q j (lget 0 errs j)) →
    again = (List.range 8).any (fun j => decide (lget 0 res j = 1 ∧ resultOf (r.plate q).columnResult j = 1)) →
    ((r.plate q).state ≠ .live ∨ (r.plate q).outOfService = true ∨ (r.plate q).passes < (r.plate q).proofGoal ∨
      pressIssues s p = false ∨ (∃ x ∈ qs, plateQuiet r x = false) → exec (.proofPass p q errs) s = .next s) ∧
    ((r.plate q).state = .live → (r.plate q).outOfService = false → (r.plate q).proofGoal ≤ (r.plate q).passes →
      pressIssues s p = true → (∀ x ∈ qs, plateQuiet r x = true) → ∃ (t : State) (y : PlateRec),
      exec (.proofPass p q errs) s = .next t ∧ y = (t.press p).plate q ∧ y.passes = 0 ∧
      y.proofGoal = r.cfg.proofInterval.toNat ∧ y.columnResult = packResult res ∧
      (∀ b, (t.press p).bank b = if b = q.val ∨ b = r.upBank q then
        { r.bank b with poweredDown := false, idleFrame := false } else r.bank b) ∧
      y.outside = (if 1 ∈ res ∨ 2 ∈ res then satInc (r.plate q).outside else 0) ∧
      (∀ x, ((t.press p).plate x).codes = (r.plate x).codes ∧ ((t.press p).plate x).state = (r.plate x).state) ∧
      (∀ z : Press, z ≠ p → t.press z = s.press z) ∧ t = { s with presses := t.presses, events := t.events, engQueue := t.engQueue } ∧
      (2 ∈ res → (∀ e ∈ t.engQueue, e.press = p → e.purpose = .refresh → e.cls = 1) ∧ (∀ x ∈ qs, ((t.press p).plate x).outOfService = true) ∧ y.priority = true ∧ y.limitTripped = true ∧
        y.proofTrips = satInc (r.plate q).proofTrips ∧
        (t.press p).rotation = (if r.rotation = .running then .priority else r.rotation) ∧
        Logged s t evProofLimit (some p) (some q) (s.pressVat p)
          (leBytes 1 (r.eventLog q) ++ [0] ++ leBytes 2 (packResult res).toNat)) ∧
      (2 ∉ res → (r.plate q).priority = false → again = true → y.priority = true ∧ y.outOfService = false ∧
        y.proofTrips = satInc (r.plate q).proofTrips ∧
        Logged s t evProofBand (some p) (some q) (s.pressVat p)
          (leBytes 1 (r.eventLog q) ++ [0] ++ leBytes 2 (packResult res).toNat)) ∧
      (2 ∉ res → (r.plate q).priority = true ∨ again = false → t.events = s.events ∧ t.engQueue = s.engQueue ∧ y.priority = (r.plate q).priority ∧
        t.press p = { r with plates := (t.press p).plates, banks := (t.press p).banks }))

/-- A frame moves a pass through a bank, and the output stage repeats, commits and drains it. BANK_FRAME counts a frame of
a bank of an ACTIVE press; it deposits the next pass on the downstream plate when that takes it and the governor
admits it, counts it as demand when only the governor does not, and senses the oldest pass of its own plate: 512
entries of the job's resolution, their columns and tags in place. REPEAT_DECISION of an attempt that R134 repeats
queues it before every other pass with one more halving, or with the larger scale step; a contribution that leaves the
32-bit range queues it with a larger AccShift. One that it commits leaves the buffer, with the stipple operand of its
PassTag where it takes one, for the stage's next output lane, and stays in the buffer while that lane is full or that
operand has not arrived. DRAIN_REGISTER_READ of a PLATE job empties a lane: on the last plate the sums times the unit
of R123 stand in the output format at the token's place and the job counts the token, a streamed one after the tokens
before it; in a chain the outputs enter the next unit as the next pass of the token. Outside ACTIVE these commands
change nothing. The model's choices: the frames from which a repeat and a forwarded result may be deposited (log entry
81), and PLATE lanes drained at DRAIN_REGISTER_READ (log entry 85). -/
def Obligations.FramesAndDecisions : Prop :=
  (∀ (p : Press) (b : Plate) (s : State) (r : PressRec) (y : Bank) (due : Bool), r = s.press p →
    due = decide (r.cfg.spareCheckInterval.toNat ≤ (r.bank b).sinceCheck + 1) →
    y = { r.bank b with
      frames := (r.bank b).frames + 1, idleFrame := true
      poweredDown := (r.bank b).poweredDown && !(bankInvolved r b || !r.cfg.powerDownEnable)
      sinceCheck := if due then 0 else (r.bank b).sinceCheck + 1, checkDue := (r.bank b).checkDue || due } →
    (pressCommits s p = false ∨ bankWorks r b = false → exec (.bankFrame p b) s = .next s) ∧
    (pressCommits s p = true → bankWorks r b = true →
      ((r.plate b).integrators = [] →
        (pressIssues s p = false ∨ nextDeposit y = none ∨
            (∃ x j u, nextDeposit y = some x ∧ passUnit r x = some (j, u) ∧
              takesDeposit s p (r.downPlate b) u x = false) → ∃ t : State,
          exec (.bankFrame p b) s = .next t ∧ (t.press p).bank b = y ∧
          (∀ a, a ≠ b.val → (t.press p).bank a = r.bank a) ∧ t.press p = { r with banks := (t.press p).banks } ∧
          (∀ z : Press, z ≠ p → t.press z = s.press z) ∧ t = { s with presses := t.presses }) ∧
        (∀ x j u w, pressIssues s p = true → nextDeposit y = some x → passUnit r x = some (j, u) →
          takesDeposit s p (r.downPlate b) u x = true → u.even = r.downPlate b →
          w = Work.pass j.desc.resolution.toNat u.mode → admits s p w 1 = false → ∃ t : State,
          exec (.bankFrame p b) s = .next t ∧ (t.press p).bank b = y ∧ t.gov = (refuse p (r.downPlate b) w 1 s).gov ∧
          (∀ a, a ≠ b.val → (t.press p).bank a = r.bank a) ∧ t.press p = { r with banks := (t.press p).banks } ∧
          (∀ z : Press, z ≠ p → t.press z = s.press z) ∧ t = { s with presses := t.presses, gov := t.gov }) ∧
        (∀ x j u q, q = r.downPlate b → pressIssues s p = true → nextDeposit y = some x → passUnit r x = some (j, u) →
          takesDeposit s p q u x = true → (u.even = q → admits s p (.pass j.desc.resolution.toNat u.mode) 1 = true) →
          ∃ t : State, exec (.bankFrame p b) s = .next t ∧ (t.press p).bank b = { afterDeposit x y with idleFrame := false } ∧
          (t.press p).plate q = { r.plate q with
            integrators := (r.plate q).integrators ++ [x], openJob := some j.order } ∧
          (∀ a, a ≠ b.val → (t.press p).bank a = r.bank a) ∧ (∀ a, a ≠ q → (t.press p).plate a = r.plate a) ∧
          t.press p = { r with banks := (t.press p).banks, plates := (t.press p).plates } ∧
          (∀ z : Press, z ≠ p → t.press z = s.press z) ∧
          t.gov = (if u.even = q then (charge p (.pass j.desc.resolution.toNat u.mode) 1 s).gov else s.gov) ∧
          t = { s with presses := t.presses, gov := t.gov })) ∧
      (∀ x l j u, pressIssues s p = false ∨ nextDeposit y = none → (r.plate b).integrators = x :: l →
        passUnit r x = some (j, u) → u.mode = .none → u.even = b.val → (r.bank b).passBuffer = none →
        (r.bank b).resultQueue = [] → (r.bank b).shadowActive = false → ∃ (t : State) (w v : List (BitVec 32)) (odd : Nat),
        exec (.bankFrame p b) s = .next t ∧
        ((t.press p).bank b).passBuffer = some ({ x with
          forwardAt := y.frames + 2, forwardOddAt := odd, repeatAt := (r.bank (u.ue r)).frames + 2, repeatOddAt := y.frames + 2 }, w, []) ∧
        (∀ nu, (jobUnits r j.desc)[x.unit + 1]? = some nu → nu.even ≠ b.val → odd = (r.bank nu.even).frames + 2) ∧
        ((t.press p).bank b).idleFrame = false ∧
        ((t.press p).bank b).resultQueue = v ∧ (w ++ v).length = 512 ∧
        (∀ c, c < 512 → (entryOf (w ++ v) c).column = c ∧ (entryOf (w ++ v) c).tag = x.tag % 16 ∧
          -(2 ^ (resBits j.desc - 1) : Int) ≤ (entryOf (w ++ v) c).code ∧
          (entryOf (w ++ v) c).code < 2 ^ (resBits j.desc - 1)) ∧
        ((t.press p).plate b).integrators = l ∧ (∀ a, a ≠ b.val → (t.press p).bank a = r.bank a ∧
          (t.press p).plate a = r.plate a) ∧ PressKept r (t.press p) ∧
        t.press p = { r with banks := (t.press p).banks, plates := (t.press p).plates } ∧
        (∀ z : Press, z ≠ p → t.press z = s.press z) ∧ t = { s with free := t.free, presses := t.presses }))) ∧
  (∀ (p : Press) (b : Plate) (s : State) (r : PressRec), r = s.press p →
    ((r.bank b).passBuffer = none ∨ pressCommits s p = false → exec (.repeatDecision p b) s = .next s) ∧
    ∀ x e1 e2 j us u sr w1 w2 cs ver l, (r.bank b).passBuffer = some (x, e1, e2) → pressCommits s p = true →
      r.slot x.slot = some j → us = jobUnits r j.desc → us[x.unit]? = some u → sr = senseRegs s (r.bank b) →
      w1 = e1 ++ (r.bank b).resultQueue → w2 = (if e2 = [] then [] else e2 ++ (r.bank u.even).resultQueue) →
      cs = contributions sr u (r.plate u.even).fullScaleShift (resBits j.desc) x w1 w2 →
      ver = verdict x ((w1 ++ w2).map unpackEntry) → l = bitOf (r.bank b).lane →
      (∀ h n, u.mode = .none ∨ u.ue r ≠ u.even →
        (ver = .cmRepeat ∧ h = x.h + 1 ∧ n = x.step) ∨ (ver = .clipRepeat n ∧ h = x.h) → ∃ (t : State) (y : Pass),
        exec (.repeatDecision p b) s = .next t ∧
        ((t.press p).bank (u.ue r)).repeats = (r.bank (u.ue r)).repeats ++ [y] ∧ y.h = h ∧ y.step = n ∧
        y.repeated = true ∧ y.slot = x.slot ∧ y.token = x.token ∧ y.unit = x.unit ∧ y.inputs = x.inputs ∧
        y.scale = x.scale ∧ y.notBefore = x.repeatAt ∧ ((t.press p).bank b).passBuffer = none ∧
        ((t.press p).bank b).cmRepeats = (if ver = .cmRepeat then satInc (r.bank b).cmRepeats else (r.bank b).cmRepeats) ∧
        ((t.press p).bank b).clipRepeats =
          (if ver = .cmRepeat then (r.bank b).clipRepeats else satInc (r.bank b).clipRepeats) ∧
        (∀ a, ((t.press p).bank a).driveQueue = (r.bank a).driveQueue) ∧
        (∀ a, a ≠ u.ue r → a ≠ u.even → ((t.press p).bank a).repeats = (r.bank a).repeats) ∧
        t.press p = { r with banks := (t.press p).banks } ∧ (∀ z : Press, z ≠ p → t.press z = s.press z) ∧
        t = { s with presses := t.presses }) ∧
      (∀ sat, ver = .commit sat → unitJoin s p j us x.unit ≠ 0 → x.operand = [] → operandFor j x = none →
        exec (.repeatDecision p b) s = .next s) ∧
      (∀ sat f os, ver = .commit sat →
        (((unitJoin s p j us x.unit = 0 ∨ x.operand ≠ []) ∧ f = { x with saturated := sat } ∧ os = j.operands) ∨
          ∃ o, unitJoin s p j us x.unit ≠ 0 ∧ x.operand = [] ∧ operandFor j x = some o ∧ os = j.operands.erase o ∧
            f = { x with saturated := sat, operand := o.sums, operandScale := o.scale }) →
        u.mode = .none → j.desc.sliced = false →
        usesFelt j = false → j.desc.preloadSelect = 0 →
        ((∃ c, c < 512 ∧ (lget 0 cs c < -2147483648 ∨ 2147483648 ≤ lget 0 cs c)) → atRepeatLimit s x.shift = false →
          ∃ (t : State) (y : Pass), exec (.repeatDecision p b) s = .next t ∧
          ((t.press p).bank (u.ue r)).repeats = (r.bank (u.ue r)).repeats ++ [y] ∧ y.shift = x.shift + 1 ∧
          y.slot = x.slot ∧ y.token = x.token ∧ y.unit = x.unit ∧ y.inputs = x.inputs ∧
          y.operand = f.operand ∧ ((t.press p).bank b).passBuffer = none ∧ (t.press p).overflowRepeats = satInc r.overflowRepeats ∧
          (t.press p).slot x.slot = some { j with rescaled := true, operands := os } ∧ (t.press p).plates = r.plates ∧
          (∀ z : Press, z ≠ p → t.press z = s.press z) ∧ t = { s with presses := t.presses }) ∧
        ((∀ c, c < 512 → -2147483648 ≤ lget 0 cs c ∧ lget 0 cs c < 2147483648) →
          ((tget none (r.bank b).lanes l).isSome = true →
            (os = j.operands → f.operand = x.operand → exec (.repeatDecision p b) s = .next s) ∧
            ∀ o, operandFor j x = some o → unitJoin s p j us x.unit ≠ 0 → x.operand = [] →
              exec (.repeatDecision p b) s = .next (takeOperand p b x o s)) ∧
          (tget none (r.bank b).lanes l = none → ∃ t : State, exec (.repeatDecision p b) s = .next t ∧
            tget none ((t.press p).bank b).lanes l = some f ∧
            (∀ c, c < 512 → tget 0 ((t.press p).bank b).outputAcc (512 * l + c) =
              packAcc { shift := x.shift, value := lget 0 cs c, contrib := 1 }) ∧
            ((t.press p).bank b).passBuffer = none ∧ ((t.press p).bank b).lane = !(r.bank b).lane ∧
            ((t.press p).plate u.even).passes = (r.plate u.even).passes + 1 ∧
            ((t.press p).bank b).saturatedPasses =
              (if sat then satInc (r.bank b).saturatedPasses else (r.bank b).saturatedPasses) ∧
            (t.press p).slot x.slot =
              some (if sat then { j with operands := os, saturated := true, saturatedPasses := j.saturatedPasses + 1 }
                else { j with operands := os }) ∧
            (∀ k, k ≠ x.slot.val → (t.press p).slot k = r.slot k) ∧ (t.press p).scratch = r.scratch ∧
            (t.press p).felt = r.felt ∧ (∀ a, a ≠ u.even → (t.press p).plate a = r.plate a) ∧
            (∀ z : Press, z ≠ p → t.press z = s.press z) ∧ t = { s with presses := t.presses, vats := t.vats })))) ∧
  ∀ (p : Press) (b : Plate) (k : Slot) (s : State) (r : PressRec) (j : Job) (x : Pass) (us : List Machine.PUnit) (u : Machine.PUnit) (l : Nat)
      (sr : SenseRegs), r = s.press p → r.slot k = some j → j.state = .running → j.desc.opcode = opPlate →
    j.operandRuns = [] → pressCommits s p = true → us = jobUnits r j.desc → us[x.unit]? = some u → l < 2 →
    tget none (r.bank b).lanes l = some x → x.slot = k → sr = senseRegs s (r.bank b) → j.desc.sliced = false →
    usesFelt j = false → (∀ a i y, tget none (r.bank a).lanes i = some y → y.slot = k → a = b.val ∧ i = l) →
    unitJoin s p j us x.unit = 0 →
    (∀ a o q, j.desc.scaleSource ≠ 2 ∨ (j.lateOut = [] ∧ x.token = j.leading) → x.unit + 1 = us.length → j.n ≤ 512 → j.joins = [] → CleanJob j → j.desc.claimed = false → j.desc.outputFormat = 1 →
      j.desc.disableActivation = true → hostRanges s p j = [] → outAddr j x.token = .scratch a o →
      (∀ i, overlapped s p j (.scratch a o) i = false) → s.physPress j.desc.vat.toNat a = some q →
      (s.press q).state ≠ .retiring → ∃ (t : State) (j' : Job), exec (.drainRegisterRead p k) s = .next t ∧
      ScratchWritten s t q o ((List.range j.n).flatMap fun c => leBytes 2 (encodeSat fp16 (rneSat16
        ((fInt ((lget {} (laneOf (r.bank b) l) c).value * (2 ^ (lget {} (laneOf (r.bank b) l) c).shift : Nat))).mul
          (plateUnit sr x c))))) ∧
      tget none ((t.press p).bank b).lanes l = none ∧
      (∀ c, c < 512 → tget 0 ((t.press p).bank b).outputAcc (512 * l + c) = 0) ∧ (t.press p).slot k = some j' ∧
      j'.desc = j.desc ∧ j'.doneTokens = j.doneTokens + 1 ∧ (j'.state = .posting ↔ j.m ≤ j.doneTokens + 1) ∧
      (∀ i, i ≠ k.val → (t.press p).slot i = r.slot i) ∧ (t.press p).felt = r.felt ∧
      (∀ a, a ≠ b.val → ((t.press p).bank a).outputAcc = (r.bank a).outputAcc) ∧
      (∀ z, z ≠ q → (t.press z).scratch = (s.press z).scratch) ∧ (∀ z, z ≠ p → z ≠ q → t.press z = s.press z) ∧
      t = { s with free := t.free, presses := t.presses, counters := t.counters }) ∧
    (x.unit + 1 = us.length → j.desc.scaleSource = 2 → x.token ≠ j.leading → (∀ e ∈ j.lateOut, e.1 ≠ j.leading) →
      j.desc.outputFormat ≠ 6 → j.desc.preloadSelect = 0 → ∃ (t : State) (bytes : List Byte),
      exec (.drainRegisterRead p k) s = .next t ∧
      (t.press p).slot k = some { j with lateOut := j.lateOut ++ [(x.token, bytes)] } ∧
      tget none ((t.press p).bank b).lanes l = none ∧ (t.press p).scratch = r.scratch ∧ (t.press p).felt = r.felt ∧
      (∀ i, i ≠ k.val → (t.press p).slot i = r.slot i) ∧ (∀ z : Press, z ≠ p → t.press z = s.press z) ∧
      t = { s with free := t.free, presses := t.presses }) ∧
    ∀ nu, us[x.unit + 1]? = some nu →
      (unitOpen s p j nu = false → exec (.drainRegisterRead p k) s = .next s) ∧
      (unitOpen s p j nu = true → unitJoin s p j us (x.unit + 1) = 0 → ∃ (t : State) (y : Pass),
        exec (.drainRegisterRead p k) s = .next t ∧
        ((t.press p).bank (nu.ue r)).driveQueue = (r.bank (nu.ue r)).driveQueue ++ [y] ∧ y.slot = x.slot ∧
        y.token = x.token ∧ y.unit = x.unit + 1 ∧ y.tag = x.tag ∧ y.notBefore = x.forwardAt ∧
        (nu.mode ≠ .none → nu.even ≠ nu.ue r → ∃ z : Pass, z.notBefore = x.forwardOddAt ∧ z.tag = x.tag ∧
          ((t.press p).bank nu.even).driveQueue = (r.bank nu.even).driveQueue ++ [z]) ∧
        (∀ c ∈ y.codes, -127 ≤ c ∧ c ≤ 127) ∧ tget none ((t.press p).bank b).lanes l = none ∧
        (∀ i, (t.press p).slot i = r.slot i) ∧ (t.press p).scratch = r.scratch ∧ (t.press p).plates = r.plates ∧
        (∀ z : Press, z ≠ p → t.press z = s.press z) ∧ t = { s with presses := t.presses })

/-- Slices are calibrated, substituted and replaced by the fallback converter. DWELL_END moves the pending trim of the
shadowed slice by the steps of R98 and goes to the next column; the last column ends a round with its figures; a trim
that leaves its range fails the slice, and a healthy free spare takes its place. SPARE_SELF_CHECK, in a frame that is
due for it, fails the spare on a level bad twice. FALLBACK_CHECK_DONE puts the fallback converter into a failed bank's
place, parks the bank when its plate has become the refresh target, or fails the converter and loses the bank that
waits for it or that it serves; a refresh step that waits takes the class of the press's new priority. BANK_POWER_DOWN
and SAT_WINDOW_END act as R96 and R137 say, a window under the entries as they were when it began. While the
conditions fail nothing changes. The model's choices: ConvMse and ConvSignal are rounded down (log entry 43); the 8
LSB limit of the fallback check, its repeat for the bank served and the hand-over of a parked bank (log entry 45). -/
def Obligations.SliceBanks : Prop :=
  (∀ (p : Press) (b : Plate) (s : State) (x : Bank), x = (s.press p).bank b →
    (x.shadowActive = false ∨ x.dwellN < x.dwellGoal ∨ x.dwellN = 0 → exec (.dwellEnd p b) s = .next s) ∧
    ∀ col i now new, x.shadowActive = true → x.dwellGoal ≤ x.dwellN → x.dwellN ≠ 0 → col = x.shadowColumn.toNat →
      i = col / 4 → now = unpackTrim ((tget none x.pendingTrim i).getD (tget 0 x.sliceTrim i)) →
      new = (now.1 + (trimStep x).1, now.2 + (trimStep x).2) →
      (-128 ≤ new.1 → new.1 ≤ 127 → -128 ≤ new.2 → new.2 ≤ 127 → ∃ (t : State) (y : Bank),
        exec (.dwellEnd p b) s = .next t ∧ y = (t.press p).bank b ∧ y.shadowColumn = BitVec.ofNat 16 ((col + 1) % 512) ∧
        y.dwellN = 0 ∧ y.mismatches = 0 ∧ y.dwellDiff = 0 ∧ y.dwellProd = 0 ∧ y.dwellSquare = 0 ∧
        y.dwellGoal = (s.press p).cfg.shadowDwell.toNat ∧ y.sliceTrim = x.sliceTrim ∧
        (∀ k, tget none y.pendingTrim k =
          if k = i ∧ trimStep x ≠ (0, 0) then some (packTrim new) else tget none x.pendingTrim k) ∧
        (col ≠ 511 → y.rounds = x.rounds ∧ y.roundN = x.roundN ∧ t.events = s.events) ∧
        (col = 511 → y.rounds = satInc x.rounds ∧ y.roundN = 0 ∧
          y.convMse = BitVec.ofNat 32 (min (x.roundDiff2 * 256 / max 1 x.roundN) (2 ^ 32 - 1)) ∧
          y.convSignal = BitVec.ofNat 32 (min (x.roundSquare / max 1 x.roundN) (2 ^ 32 - 1)) ∧
          (x.roundSquare < s.settings.coarseRatio.toNat * x.roundDiff2 → y.coarseRounds = satInc x.coarseRounds ∧
            Logged s t evScaleCoarse (some p) (some b) (s.pressVat p)
              (leBytes 1 ((s.press p).eventLog b) ++ [0] ++ leBytes 2 s.settings.coarseRatio.toNat)) ∧
          (s.settings.coarseRatio.toNat * x.roundDiff2 ≤ x.roundSquare → t.events = s.events)) ∧
        (∀ a, a ≠ b.val → (t.press p).bank a = (s.press p).bank a) ∧
        t.press p = { s.press p with banks := (t.press p).banks } ∧ (∀ q : Press, q ≠ p → t.press q = s.press q) ∧
        t = { s with presses := t.presses, events := t.events }) ∧
      (new.1 < -128 ∨ 127 < new.1 ∨ new.2 < -128 ∨ 127 < new.2 → col ≠ 511 → x.spareFailed = false →
        x.substituted = 0xFF → ∃ (t : State) (y : Bank), exec (.dwellEnd p b) s = .next t ∧ y = (t.press p).bank b ∧
        tget false y.sliceFailed i = true ∧ y.sliceFailures = satInc x.sliceFailures ∧
        y.substituted = BitVec.ofNat 8 i ∧ y.state = .degraded ∧ y.shadowActive = false ∧
        Logged s t evSliceSubstituted (some p) (some b) (s.pressVat p) (leBytes 1 i ++ leBytes 1 1) ∧
        (∀ a, a ≠ b.val → (t.press p).bank a = (s.press p).bank a) ∧
        t.press p = { s.press p with banks := (t.press p).banks } ∧ (∀ q : Press, q ≠ p → t.press q = s.press q) ∧
        t = { s with presses := t.presses, events := t.events })) ∧
  (∀ (p : Press) (b : Plate) (errs : List Int) (s : State) (x : Bank) (bad : List Nat), x = (s.press p).bank b →
    bad = (List.range 5).filter (fun i => decide (lget 0 errs i < -8 ∨ 8 < lget 0 errs i)) →
    (x.checkDue = false ∨ x.spareFailed = true ∨ (x.state ≠ .working ∧ x.state ≠ .degraded) ∨
        (s.press p).clocked = false → exec (.spareSelfCheck p b errs) s = .next s) ∧
    (x.checkDue = true → x.spareFailed = false → x.state = .working ∨ x.state = .degraded → (s.press p).clocked = true →
      ((∀ i ∈ bad, i ∉ x.badLevels) → ∃ t : State, exec (.spareSelfCheck p b errs) s = .next t ∧
        (t.press p).bank b = { x with badLevels := bad, checkDue := false } ∧
        (∀ a, a ≠ b.val → (t.press p).bank a = (s.press p).bank a) ∧
        t.press p = { s.press p with banks := (t.press p).banks } ∧ (∀ q : Press, q ≠ p → t.press q = s.press q) ∧
        t = { s with presses := t.presses }) ∧
      ((∃ i ∈ bad, i ∈ x.badLevels) → (x.substituted = 0xFF ∨ ((s.press p).refreshTarget ≠ b ∧
          (s.press p).fallback = .standby ∧ (s.press p).fallbackFor = none)) → ∃ (t : State) (y : Bank),
        exec (.spareSelfCheck p b errs) s = .next t ∧ y = (t.press p).bank b ∧ y.spareFailed = true ∧
        tget false y.sliceFailed 128 = true ∧ y.state = .degraded ∧ y.shadowActive = false ∧
        Logged s t evSpareSliceFailed (some p) (some b) (s.pressVat p)
          (leBytes 1 (if x.substituted = 0xFF then 1 else 2)) ∧
        (t.press p).fallbackFor = (if x.substituted = 0xFF then (s.press p).fallbackFor else some b) ∧
        (∀ a, a ≠ b.val → (t.press p).bank a = (s.press p).bank a) ∧
        (∀ q : Press, q ≠ p → t.press q = s.press q) ∧ t = { s with presses := t.presses, events := t.events }))) ∧
  (∀ (p : Press) (errs : List Int) (s : State),
    ((s.press p).fallbackFor = none → (s.press p).fallbackBank = none ∨ (∀ e ∈ errs, -8 ≤ e ∧ e ≤ 8) →
      exec (.fallbackCheckDone p errs) s = .next s) ∧
    ∀ b,
      ((s.press p).fallbackFor = some b → (∀ e ∈ errs, -8 ≤ e ∧ e ≤ 8) → (s.press p).refreshTarget = b →
        exec (.fallbackCheckDone p errs) s = .next (parkBank p b (s.updPress p fun r => { r with fallbackFor := none }))) ∧
      ((s.press p).fallbackFor = some b → (∀ e ∈ errs, -8 ≤ e ∧ e ≤ 8) → (s.press p).refreshTarget ≠ b → ∃ t : State, exec (.fallbackCheckDone p errs) s = .next t ∧
        (t.press p).fallback = .active ∧ (t.press p).fallbackBank = some b ∧ (t.press p).fallbackFor = none ∧
        (t.press p).rotation = (if (s.press p).rotation = .running then .priority else (s.press p).rotation) ∧
        (t.press p).bank b = { (s.press p).bank b with state := .fallback, parkSteps := 0 } ∧
        (∀ a, a ≠ b.val → (t.press p).bank a = (s.press p).bank a) ∧ (t.press p).plates = (s.press p).plates ∧
        (∀ e ∈ t.engQueue, e.press = p → e.purpose = .refresh → e.cls = refreshClass (t.press p)) ∧
        (s.engQueue.map fun e => { e with cls := 0 }) = (t.engQueue.map fun e => { e with cls := 0 }) ∧
        Logged s t evBankFallback (some p) (some b) (s.pressVat p) (leBytes 1 ((s.press p).bank b).sliceFailed.length) ∧
        (∀ q : Press, q ≠ p → t.press q = s.press q) ∧
        t = { s with presses := t.presses, events := t.events, engQueue := t.engQueue }) ∧
      ((s.press p).fallbackFor = some b ∨ ((s.press p).fallbackFor = none ∧ (s.press p).fallbackBank = some b) →
        (∃ e ∈ errs, e < -8 ∨ 8 < e) → ∃ u : State, exec (.fallbackCheckDone p errs) s = .next (loseBank p b 2 u) ∧
        (u.press p).fallback = .failed ∧ (u.press p).fallbackFor = none ∧
        (u.press p).fallbackBank = (if (s.press p).fallbackFor = none then none else (s.press p).fallbackBank) ∧
        Logged s u evFallbackFailed (some p) (some b) (s.pressVat p) ((lpad 0 5 errs).flatMap fun e => leInt 2 e) ∧
        (∀ q : Press, q ≠ p → u.press q = s.press q) ∧ u = { s with presses := u.presses, events := u.events })) ∧
  ∀ (p : Press) (b : Plate) (s : State) (x : Bank), x = (s.press p).bank b →
    ((s.press p).cfg.powerDownEnable = false ∨ bankInvolved (s.press p) b = true →
      exec (.bankPowerDown p b) s = .next s) ∧
    ((s.press p).cfg.powerDownEnable = true → bankInvolved (s.press p) b = false → ∃ t : State,
      exec (.bankPowerDown p b) s = .next t ∧ (t.press p).bank b = { x with poweredDown := true } ∧
      (∀ a, a ≠ b.val → (t.press p).bank a = (s.press p).bank a) ∧
      t.press p = { s.press p with banks := (t.press p).banks } ∧ (∀ q : Press, q ≠ p → t.press q = s.press q) ∧
      t = { s with presses := t.presses }) ∧
    (x.windowConversions < x.windowGoal ∨ x.windowConversions = 0 → exec (.satWindowEnd p b) s = .next s) ∧
    (x.windowGoal ≤ x.windowConversions → x.windowConversions ≠ 0 → ∃ (t : State) (y : Bank), exec (.satWindowEnd p b) s = .next t ∧
      y = (t.press p).bank b ∧ y = { x with
        clipCount := 0, windowConversions := 0
        satDriftWindows := if x.windowLimit < x.clipCount.toNat then satInc x.satDriftWindows else x.satDriftWindows } ∧
      (x.windowLimit < x.clipCount.toNat → Logged s t evSatDrift (some p) (some b) (s.pressVat p)
        (leBytes 1 ((s.press p).eventLog b) ++ [0, 0, 0] ++ leBytes 4 x.windowLimit)) ∧
      (x.clipCount.toNat ≤ x.windowLimit → t.events = s.events) ∧
      (∀ a, a ≠ b.val → (t.press p).bank a = (s.press p).bank a) ∧
      t.press p = { s.press p with banks := (t.press p).banks } ∧ (∀ q : Press, q ≠ p → t.press q = s.press q) ∧
      t = { s with presses := t.presses, events := t.events })

/-- Accesses to package memory, patrol, live copies and pulping. A write to pages that the vat owns is what a later read
returns; bytes elsewhere, and what other vats read, stay. A read returns the bytes; a corrected error counts on its
page, unless it is RETIRED; an uncorrectable one returns an error. An access to a page that the vat does not own
raises PAGE_NOT_OWNED, a write to it changes no such page and a read of it returns zeros there. Accesses to a page
that is being copied wait with the copy. PATROL_READ counts what it finds. A copy that ends leaves the contents, the
poison and the ownership in the replacement, the page retired and forwarded, and then serves the accesses that waited;
of a page that is OWNED no longer it moves nothing; a swap whose sections waited for it goes on. A pulped page is FREE
and zero. The model's choices: an uncorrectable word is marked poisoned until it is rewritten, and a page that is
OWNED no longer is retired alone (log entry 34); where and in what order held requests wait (log entry 92). -/
def Obligations.PackageMemory : Prop :=
  (∀ (v : Vat) (a : BitVec 46) (op : MemOp) (e : Ecc) (job : Option (Press × Slot)) (s : State) (n i : Nat) (c : Copy)
      (here : Copy → Prop), op = .read n ∨ (∃ data, op = .write data ∧ data.length = n) →
    here = (fun x => x.vat = v ∧ a.toNat / 2048 ≤ x.vatPage ∧ x.vatPage ≤ (a.toNat + n - 1) / 2048) → 0 < n →
    s.hubs.copies[i]? = some c → here c → (∀ k x, k < i → s.hubs.copies[k]? = some x → ¬ here x) → ∃ t : State,
    exec (.memoryAccess v a op e job) s = .next t ∧ t.hubs.copies.length = s.hubs.copies.length ∧
    t.hubs.copies[i]? = some { c with held := c.held ++ [.access a op e job] } ∧
    (∀ k, k ≠ i → t.hubs.copies[k]? = s.hubs.copies[k]?) ∧ t = { s with hubs := { s.hubs with copies := t.hubs.copies } }) ∧
  (∀ (v : Vat) (a : BitVec 46) (data : List Byte) (e : Ecc) (job : Option (Press × Slot)) (s : State),
    s.copying v a.toNat data.length = false → s.badPage v a.toNat data.length = none →
    ∃ t : State, exec (.memoryAccess v a (.write data) e job) s = .next t ∧ t.pkgRead v a.toNat data.length = data ∧
    (∀ x, x < a.toNat ∨ a.toNat + data.length ≤ x → t.pkgRead v x 1 = s.pkgRead v x 1) ∧
    (∀ w : Vat, w ≠ v → ∀ x n, t.pkgRead w x n = s.pkgRead w x n) ∧
    (∀ w, t.vat w = { s.vat w with exact := (t.vat w).exact }) ∧
    t = { s with hubs := { s.hubs with mem := t.hubs.mem, poison := t.hubs.poison }, vats := t.vats }) ∧
  (∀ (v : Vat) (a : BitVec 46) (len f : Nat) (e : Ecc) (job : Option (Press × Slot)) (s : State),
    s.copying v a.toNat len = false → s.badPage v a.toNat len = none →
    (s.vatFrame v (a.toNat / 2048)).getD 0 = f →
    (e ≠ .double → s.badWord v a.toNat len = none →
      e = .clean ∨ (65536 ≤ f ∧ (s.pageEntry f).corrected + 1 < s.settings.retireThreshold.toNat) → ∃ t : State,
      exec (.memoryAccess v a (.read len) e job) s = .next t ∧ t.hubs.lastRead = s.pkgRead v a.toNat len ∧
      t.hubs.lastError = false ∧ t.hubs.mem = s.hubs.mem ∧ t.hubs.poison = s.hubs.poison ∧
      t.hubs.correctedTotal = (if e = .single then satInc s.hubs.correctedTotal else s.hubs.correctedTotal) ∧
      (e = .single → t.pageEntry f = { s.pageEntry f with corrected := min 255 ((s.pageEntry f).corrected + 1) }) ∧
      (∀ g, g ≠ f ∨ e = .clean → t.pageEntry g = s.pageEntry g) ∧ t = { s with hubs := t.hubs, vats := t.vats }) ∧
    (e = .double ∨ s.badWord v a.toNat len ≠ none → job = none → ∃ (u : State) (g : Nat),
      exec (.memoryAccess v a (.read len) e job) s = .next (uncorrectableError g u) ∧ u.hubs.lastRead = [] ∧
      u.hubs.lastError = true ∧ u.hubs.mem = s.hubs.mem ∧ u.hubs.map = s.hubs.map ∧
      (e = .double → g = f ∧ (65536 ≤ f → u.poisoned f (a.toNat % 2048) = true)) ∧
      (e ≠ .double → s.badWord v a.toNat len = some g) ∧ u = { s with hubs := u.hubs, vats := u.vats })) ∧
  (∀ (v : Vat) (a : BitVec 46) (op : MemOp) (n pg : Nat) (e : Ecc) (s : State),
    s.copying v a.toNat n = false → (op = .read n ∨ ∃ data, op = .write data ∧ data.length = n) → s.badPage v a.toNat n = some pg → ∃ t : State,
    exec (.memoryAccess v a op e none) s = .next t ∧
    Logged s t evPageNotOwned none (some (hubOf ((s.vat v).quotaBase.toNat + pg))) (some v) (leBytes 4 pg) ∧
    (op = .read n → t.hubs.lastRead = s.pkgRead v a.toNat n ∧ t.hubs.mem = s.hubs.mem) ∧
    (∀ w : Vat, w ≠ v → ∀ x k, t.pkgRead w x k = s.pkgRead w x k) ∧ t.hubs.map = s.hubs.map ∧
    t = { s with hubs := t.hubs, vats := t.vats, events := t.events }) ∧
  (∀ (f : BitVec 24) (w : Fin 256) (s : State),
    (s.poisoned f.toNat (8 * w.val) = false →
      exec (.patrolRead f w .clean) s = .next s ∧
      ((s.pageEntry f.toNat).state = .retired → ∃ t : State,
        exec (.patrolRead f w .single) s = .next t ∧ t.hubs.correctedTotal = satInc s.hubs.correctedTotal ∧
        (∀ g, t.pageEntry g = s.pageEntry g) ∧ t.hubs.mem = s.hubs.mem ∧ t = { s with hubs := t.hubs }) ∧
      (65536 ≤ f.toNat → (s.pageEntry f.toNat).state ≠ .retired →
        (s.pageEntry f.toNat).corrected + 1 < s.settings.retireThreshold.toNat → ∃ t : State,
        exec (.patrolRead f w .single) s = .next t ∧ t.hubs.correctedTotal = satInc s.hubs.correctedTotal ∧
        t.pageEntry f.toNat = { s.pageEntry f.toNat with
          corrected := min 255 ((s.pageEntry f.toNat).corrected + 1) } ∧
        (∀ g, g ≠ f.toNat → t.pageEntry g = s.pageEntry g) ∧ t.hubs.mem = s.hubs.mem ∧ t = { s with hubs := t.hubs })) ∧
    (65536 ≤ f.toNat → (s.pageEntry f.toNat).state = .free → (∀ c ∈ s.hubs.copies, c.frame ≠ f.toNat ∧ c.target ≠ f.toNat) →
      ∃ t : State,
      exec (.patrolRead f w .double) s = .next t ∧ (t.pageEntry f.toNat).state = .retired ∧
      (t.pageEntry f.toNat).forwarded = false ∧ t.poisoned f.toNat (8 * w.val) = true ∧
      t.hubs.uncorrectableTotal = satInc s.hubs.uncorrectableTotal ∧ t.events.newest = s.events.newest + 2 ∧
      (∀ g, g ≠ f.toNat → t.pageEntry g = s.pageEntry g) ∧ t.hubs.mem = s.hubs.mem ∧
      t = { s with hubs := t.hubs, events := t.events })) ∧
  (∀ (f : BitVec 24) (found : List (Fin 256 × Ecc)) (s : State),
    (s.hubs.copies.find? (fun c => decide (c.frame = f.toNat)) = none → exec (.pageCopyDone ⟨f, found⟩) s = .next s) ∧
    ∀ c, s.hubs.copies.find? (fun c => decide (c.frame = f.toNat)) = some c → ∃ u : State,
      exec (.pageCopyDone ⟨f, found⟩) s =
        .next (advanceSwaps (settleSignals (forL c.held (fun h t => releaseAccess c.vat.val h t) u))) ∧
      ((∀ v : Vat, (u.vat v).swap.active = false ∧ (u.vat v).swap.stippleTodo = []) → c.held = [] →
        exec (.pageCopyDone ⟨f, found⟩) s = .next (settleSignals u)) ∧
      ((s.pageEntry f.toNat).state ≠ .owned → u = { s with hubs := { s.hubs with
        copies := s.hubs.copies.filter fun x => decide (x.frame ≠ f.toNat) } }) ∧
      ((s.pageEntry f.toNat).state = .owned → 65536 ≤ f.toNat → 65536 ≤ c.target → c.target ≠ f.toNat →
        ∀ bad : List Nat, bad = (List.range 256).filter (fun w => s.poisoned f.toNat (8 * w) ||
          found.any fun e => decide (e.1.val = w ∧ e.2 = .double)) →
        (u.pageEntry c.target).state = .owned ∧ (u.pageEntry c.target).vat = c.vat.val ∧
        (u.pageEntry c.target).vatPage = c.vatPage ∧ (u.pageEntry c.target).use = (s.pageEntry f.toNat).use ∧
        (u.pageEntry f.toNat).state = .retired ∧ (u.pageEntry f.toNat).forwarded = true ∧
        (u.pageEntry f.toNat).forwardFrame = c.target ∧ u.frameRead c.target 0 2048 = s.frameRead f.toNat 0 2048 ∧
        (∀ w, w < 256 → u.poisoned c.target (8 * w) = bad.contains w) ∧
        (∀ x, x < 2048 * c.target ∨ 2048 * c.target + 2048 ≤ x → tget 0 u.hubs.mem x = tget 0 s.hubs.mem x) ∧
        u.hubs.copies = s.hubs.copies.filter (fun x => decide (x.frame ≠ f.toNat)) ∧
        u.events.newest = s.events.newest + BitVec.ofNat 32 (bad.length + 1) ∧
        (bad = [] → Logged s u evPageRetired none (some (hubOf f.toNat)) (some c.vat)
          (leBytes 4 f.toNat ++ leBytes 4 c.target ++ leBytes 1 c.cause)) ∧
        u = { s with hubs := u.hubs, events := u.events })) ∧
  ∀ (k : Fin 4) (s : State) (pick : Option (Nat × PageEntry)),
    pick = s.hubs.map.find? (fun e => decide (65536 ≤ e.1 ∧ e.1 % 4 = k.val ∧ e.2.state = .pulping)) →
    (pick = none → exec (.pagePulpWriteDone k) s = .next s) ∧
    ∀ f e, pick = some (f, e) → ∃ t : State, exec (.pagePulpWriteDone k) s = .next t ∧
      (t.pageEntry f).state = .free ∧ (t.pageEntry f).corrected = (s.pageEntry f).corrected ∧
      (∀ x, x < 2048 → tget 0 t.hubs.mem (2048 * f + x) = 0) ∧
      (∀ x, x < 2048 * f ∨ 2048 * f + 2048 ≤ x → tget 0 t.hubs.mem x = tget 0 s.hubs.mem x) ∧
      (∀ g, g ≠ f → (t.pageEntry g).state = (s.pageEntry g).state ∧ (t.pageEntry g).vat = (s.pageEntry g).vat) ∧
      t = { s with hubs := t.hubs }

/-- Scans, conversions, calibrations and the survey reader. A scan takes the channels below 46 whose classes make them
due; each conversion queues one SurveyResult with its code, channel and slot, and a full queue holds the converter
back. M and H request injected conversions and calibrations; a calibration waits for the conversion in progress and
for the injected conversions that were pending, and one that is pending or running absorbs the request; its end counts
CalGeneration. M turns the regular sequence on and off; every write of M with RegularStart 0 is refused while a press
is ACTIVE. The reader takes the oldest result: outside its window it raises SURVEY_WINDOW once; a supply's code goes
to the governor; a diode's code gives its press the temperature of R410, and the thermal level rises only on a
confirming conversion. Other converters and presses stay. The model's choices: a write of H leaves RegularStart as it
is, the conversion in progress counts among those a calibration waits for, and the second bad code in a row fails the
diode when the reader takes it (log entry 55). -/
def Obligations.SurveyAndThermal : Prop :=
  (∀ (c : Conv) (s : State), ((s.survey c).regular = false ∨ (s.survey c).due ≠ [] → exec (.surveyScan c) s = .next s) ∧
    ((s.survey c).regular = true → (s.survey c).due = [] → ∃ t : State, exec (.surveyScan c) s = .next t ∧
      (∀ ch, ch ∈ (t.survey c).due ↔ ch < 46 ∧ (s.survey c).scans % channelEvery s c ch = 0) ∧
      ((s.survey c).current.isSome = true → (t.survey c).current = (s.survey c).current) ∧
      t.survey c = { s.survey c with
        due := (t.survey c).due, scans := (s.survey c).scans + 1, current := (t.survey c).current } ∧
      (∀ d : Conv, d ≠ c → t.survey d = s.survey d) ∧ t = { s with surveys := t.surveys })) ∧
  (∀ (c : Conv) (code : BitVec 12) (s : State) (pick : Option (Nat × Option Nat)),
    pick = (if (s.survey c).current.isSome then (s.survey c).current else nextConversion s c) →
    (256 ≤ (s.survey c).queue.length ∨ pick = none → exec (.conversionDone c code) s = .next s) ∧
    ∀ ch slot, (s.survey c).queue.length < 256 → pick = some (ch, slot) → ch < 64 →
      (∀ k ∈ slot, k < 4) → ∃ (t : State) (w : BitVec 32), exec (.conversionDone c code) s = .next t ∧
      (t.survey c).queue = (s.survey c).queue ++ [w] ∧ field w.toNat 11 0 = code.toNat ∧ field w.toNat 23 18 = ch ∧
      field w.toNat 27 26 = windowOf s c ch code.toNat ∧
      field w.toNat 25 24 = (s.survey c).calGeneration.toNat % 4 ∧ nbit w.toNat 30 = slot.isSome ∧
      nbit w.toNat 31 = decide (c.val = 1) ∧ field w.toNat 29 28 = slot.getD 0 ∧
      (∀ k ∈ slot, tget false (t.survey c).injPending k = false) ∧
      (slot = none → (s.survey c).calibrating = false → (t.survey c).due = (s.survey c).due.tail) ∧
      (t.survey c).regular = (s.survey c).regular ∧ (∀ d : Conv, d ≠ c → t.survey d = s.survey d) ∧
      t = { s with surveys := t.surveys }) ∧
  (∀ (pr : Principal) (c : Conv) (s : State) (active : Prop), s.dev.started = true →
    active = (∃ e ∈ s.presses, e.2.state = .active) →
    (pr ≠ .M → pr ≠ .H → (∀ m, exec (.injectedStart pr c m) s = .next (s.answer resRights)) ∧
      exec (.calibrateRequest pr c) s = .next (s.answer resRights) ∧
      ∀ on, exec (.regularStart pr c on) s = .next (s.answer resRights)) ∧
    (pr = .M → (s.survey c).regular = false → active →
      (∀ m, exec (.injectedStart pr c m) s = .next (s.answer resState)) ∧
      exec (.calibrateRequest pr c) s = .next (s.answer resState)) ∧
    (pr = .H ∨ (pr = .M ∧ ((s.survey c).regular = true ∨ ¬ active)) →
      (∀ m : BitVec 3, ∃ t : State, exec (.injectedStart pr c m) s = .next (t.answer resOk) ∧
        (∀ k, tget false (t.survey c).injPending k =
          (decide (k < 3) && nbit m.toNat k || tget false (s.survey c).injPending k)) ∧
        t.survey c = { s.survey c with injPending := (t.survey c).injPending, current := (t.survey c).current } ∧
        (∀ d : Conv, d ≠ c → t.survey d = s.survey d) ∧ t = { s with surveys := t.surveys }) ∧
      ∃ t : State, exec (.calibrateRequest pr c) s = .next (t.answer resOk) ∧
        exec (.calIntervalExpiry c) s = .next t ∧
        ((s.survey c).calPending = true ∨ (s.survey c).calibrating = true →
          t.survey c = { s.survey c with current := (t.survey c).current }) ∧
        ((s.survey c).calPending = false → (s.survey c).calibrating = false →
          ((∀ k, k < 4 → tget false (s.survey c).injPending k = false) → (∀ ch, (s.survey c).current ≠ some (ch, none)) →
            t.survey c = { s.survey c with
              calibrating := true, calWaits := 0, new46 := none, current := (t.survey c).current }) ∧
          ((∃ k, k < 4 ∧ tget false (s.survey c).injPending k = true) ∨ (∃ ch, (s.survey c).current = some (ch, none)) →
            (t.survey c).calPending = true ∧
            (∀ k, k < 4 → nbit (t.survey c).calWaits k = tget false (s.survey c).injPending k) ∧
            (nbit (t.survey c).calWaits 4 = true ↔ ∃ ch, (s.survey c).current = some (ch, none)) ∧
            t.survey c = { s.survey c with
              calPending := true, calWaits := (t.survey c).calWaits, current := (t.survey c).current })) ∧
        (∀ d : Conv, d ≠ c → t.survey d = s.survey d) ∧ t = { s with surveys := t.surveys }) ∧
    (∀ on : Bool,
      (on = false → active → exec (.regularStart .M c on) s = .next (s.answer resState)) ∧
      (on = true ∨ ¬ active → ∃ t : State,
        exec (.regularStart .M c on) s = .next (t.answer resOk) ∧ t.survey c = { s.survey c with
          regular := on, injPending := (t.survey c).injPending, current := (t.survey c).current } ∧
        (∀ k, tget false (t.survey c).injPending k = tget false (s.survey c).injPending k) ∧
        (∀ d : Conv, d ≠ c → t.survey d = s.survey d) ∧ t = { s with surveys := t.surveys }))) ∧
  (∀ (c : Conv) (s : State), ((s.survey c).calibrating = false → exec (.calibrationDone c) s = .next s) ∧
    ((s.survey c).calibrating = true → ∃ t : State, exec (.calibrationDone c) s = .next t ∧
      t.survey c = { s.survey c with
        calibrating := false, calGeneration := (s.survey c).calGeneration + 1, new46 := none
        current := (t.survey c).current
        ref46 := if (s.survey c).new46.isSome then (s.survey c).new46 else (s.survey c).ref46 } ∧
      (∀ d : Conv, d ≠ c → t.survey d = s.survey d) ∧ t = { s with surveys := t.surveys })) ∧
  ∀ (c : Conv) (us : Nat) (s : State), ((s.survey c).queue = [] → exec (.surveyReader c us) s = .next s) ∧
    ∀ (w : BitVec 32) (rest : List (BitVec 32)) (ch code : Nat), (s.survey c).queue = w :: rest →
      ch = field w.toNat 23 18 → code = field w.toNat 11 0 →
      (34 ≤ ch → ch < 48 → ∃ t : State, exec (.surveyReader c us) s = .next t ∧ (t.survey c).queue = rest ∧
        tget 0 (t.survey c).last ch = w ∧ (nbit w.toNat 30 = true → tget 0 (t.survey c).injResult (field w.toNat 29 28) = w) ∧
        tget false (t.survey c).outside ch = decide (field w.toNat 27 26 ≠ 0) ∧
        (field w.toNat 27 26 ≠ 0 → tget false (s.survey c).outside ch = false → Logged s t evSurveyWindow none none none
          (leBytes 1 c.val ++ leBytes 1 ch ++ leBytes 2 code ++ leBytes 1 (field w.toNat 27 26))) ∧
        (field w.toNat 27 26 = 0 ∨ tget false (s.survey c).outside ch = true → t.events = s.events) ∧
        (38 ≤ ch → ch < 46 → tget 0 t.gov.supply (8 * c.val + (ch - 38)) = BitVec.ofNat 12 code) ∧
        (ch < 38 ∨ 46 ≤ ch → t.gov = s.gov) ∧ t.gov = { s.gov with supply := t.gov.supply } ∧
        (∀ d : Conv, d ≠ c → t.survey d = s.survey d) ∧
        t = { s with surveys := t.surveys, events := t.events, gov := t.gov }) ∧
      (∀ p : Press, ch < 34 → p.val = 34 * c.val + ch → ∃ t : State, exec (.surveyReader c us) s = .next t ∧
        (t.survey c).queue = rest ∧
        (code ≠ 0 → code ≠ 4095 → (s.press p).thermal.diodeFailed = false →
          (t.press p).thermal.reading = diodeTemp (tget {} s.otp.diodes p) code ∧
          (t.press p).thermal.diodeFailed = false) ∧
        (code = 0 ∨ code = 4095 → (s.press p).thermal.badCode = true → (t.press p).thermal.diodeFailed = true) ∧
        (nbit w.toNat 30 = false ∨ field w.toNat 29 28 ≠ 3 →
          levelNo (t.press p).thermal.level ≤ levelNo (s.press p).thermal.level) ∧
        (∀ q : Press, q ≠ p → t.press q = s.press q) ∧ t.vats = s.vats ∧ t.gov = s.gov ∧ t.settings = s.settings ∧
        t.otp = s.otp ∧ t.pending = s.pending)

/-- A governor window, its plan, the activity entries, clocks and boundary scan. A window takes the plan in force, forms f
of R418 between 128 and 256 from the energies of the last 999 windows, voltage times current over channels 38 to 45,
halves while the measured energy exceeds PackageMax, counts as a class's demand what was admitted and what was ready
and not admitted, grants each class no more than it demands and all together no more than the allowances, lets each
class be charged at least its grant and all together the allowances, stops no engraving while those that run are
within the limit, marks a class limited after 1,000 windows below its demand, and ends the second at the thousandth
window. A plan by M is accepted when it adds up within R428, else refused with RANGE or LENGTH. ACTIVITY_REFRESH shows
the exact sums of every vat that is not PULPING in their units. A lost clock clears its lock bit. With PERST# high the
boundary-scan instructions that drive balls select BYPASS, and one loaded before is not in force. The model's choices:
how classes lend, when PowerLimited clears and demand that no command shows (log entry 57), the order of work in a
window (log entry 94) and work paid over windows (log entry 93). -/
def Obligations.GovernorAndPins : Prop :=
  (∀ (m : GovMeasure) (s : State) (plan : List (BitVec 16)) (hist : List Nat) (energy f h : Nat) (allow dem : Nat → Nat),
    plan = s.settings.budgetPlan →
    energy = ((List.range 8).map fun k => supplyReading s (k / 4) (38 + k % 4) * supplyReading s (k / 4) (42 + k % 4)).foldl
      (· + ·) 0 / 1000 → hist = (energy :: s.gov.history).take 999 →
    f = min 256 (max 128 (((lget 0 plan 0).toNat * 1000000 - (hist.foldl (· + ·) 0 + 34000)) * 256 /
      (((lget 0 plan 1).toNat + (lget 0 plan 2).toNat + (lget 0 plan 3).toNat) * 1000))) →
    h = (if s.settings.packageMax.toNat * 1000 < energy then s.gov.halvings + 1 else 0) →
    allow = (fun i => (lget 0 plan i).toNat * 1000 * f / 256 / 2 ^ h) →
    dem = (fun i => admittedOf s i + (refusedOf s i + 999999) / 1000000 + lget 0 [m.demandA, m.demandD, m.demandE] i) → ∃ t : State,
    exec (.governorWindow m) s = .next t ∧ t.gov.plan = plan ∧ t.gov.factor = f ∧
    lget 0 t.gov.grants 0 ≤ dem 0 ∧ lget 0 t.gov.grants 1 ≤ dem 1 ∧ lget 0 t.gov.grants 2 ≤ dem 2 ∧
    lget 0 t.gov.grants 0 + lget 0 t.gov.grants 1 + lget 0 t.gov.grants 2 ≤ allow 1 + allow 2 + allow 3 ∧
    (dem 0 ≤ allow 1 → dem 1 ≤ allow 2 → dem 2 ≤ allow 3 → t.gov.grants = [dem 0, dem 1, dem 2]) ∧
    (∃ l, t.gov.credits = some l ∧ (∀ i, i < 3 → lget 0 t.gov.grants i * 1000000 ≤ lget 0 l i) ∧
      lget 0 l 0 + lget 0 l 1 + lget 0 l 2 = 1000000 * (allow 1 + allow 2 + allow 3)) ∧ t.gov.admitted = [] ∧
    t.gov.refused = [] ∧ t.gov.table = s.dev.activeImage ∧
    t.gov.history = hist ∧ t.gov.halvings = h ∧
    (s.gov.limitedFor.length = 3 → s.gov.limited.length = 3 → ∀ i, i < 3 →
      lget 0 t.gov.limitedFor i = (if lget 0 t.gov.grants i < dem i
        then min 1000 (lget 0 s.gov.limitedFor i + 1) else 0) ∧
      lget false t.gov.limited i = decide (lget 0 t.gov.limitedFor i = 1000)) ∧
    (s.gov.windows + 1 < 1000 → t.gov.windows = s.gov.windows + 1 ∧ t.gov.packagePower = s.gov.packagePower) ∧
    (1000 ≤ s.gov.windows + 1 → (∀ v, v < 8 → padded (s.vat v) = false) → t.gov.windows = 0 ∧
      t.gov.packagePower = BitVec.ofNat 16 ((lget 0 s.gov.sums 0 + energy + 500000) / 1000000)) ∧
    (∀ v, (t.vat v).state = (s.vat v).state ∧ (t.vat v).load = (s.vat v).load ∧ (t.vat v).exact = (s.vat v).exact) ∧
    (engravingsActive s ≤ engravingLimit t → t.presses = s.presses ∧ t.engQueue = s.engQueue) ∧
    (∀ p, t.press p = { s.press p with engraving := (t.press p).engraving }) ∧
    t = { s with gov := t.gov, vats := t.vats, events := t.events, presses := t.presses, engQueue := t.engQueue }) ∧
  (∀ (data : List Byte) (s : State) (v : Nat → Nat), v = (fun i => leAt data (2 * i) 2) → s.dev.started = true →
    (∀ pr, pr ≠ .M → exec (.budgetPlan pr data) s = .next (s.answer resRights)) ∧
    (data.length ≠ 8 → exec (.budgetPlan .M data) s = .next (s.answer resLength)) ∧
    (data.length = 8 → v 0 ≠ 24 + v 1 + v 2 + v 3 ∨ v 0 < 40 ∨ 90 < v 0 ∨ v 1 < 8 ∨ v 2 < 4 ∨ v 3 < 1 ∨ 16 < v 3 →
      exec (.budgetPlan .M data) s = .next (s.answer resRange)) ∧
    (data.length = 8 → v 0 = 24 + v 1 + v 2 + v 3 → 40 ≤ v 0 → v 0 ≤ 90 → 8 ≤ v 1 → 4 ≤ v 2 → 1 ≤ v 3 → v 3 ≤ 16 →
      ∃ t : State, exec (.budgetPlan .M data) s = .next (t.answer resOk) ∧
      (t.settings.budgetPlan.map BitVec.toNat) = [v 0, v 1, v 2, v 3] ∧ t.gov = s.gov ∧
      t = { s with settings := { s.settings with budgetPlan := t.settings.budgetPlan } })) ∧
  (∀ s : State, ∃ t : State, exec .activityRefresh s = .next t ∧
    (∀ v : Vat, (s.vat v).state = .pulping → t.vat v = s.vat v) ∧
    (∀ v : Vat, (s.vat v).state ≠ .pulping → t.vat v = { s.vat v with shown := (t.vat v).shown } ∧
      (t.vat v).shown.length = 5 ∧ ∀ i, i < 5 → (lget 0 (t.vat v).shown i).toNat =
        min (lget 0 (s.vat v).exact i / 2 ^ lget 0 [20, 20, 30, 20, 8] i) 4294967295) ∧
    t = { s with vats := t.vats }) ∧
  (∀ s : State,
    (∀ e ∈ ([(.pclk, 0), (.fclk, 1), (.hclk, 2), (.mclk, 3), (.sclk, 4), (.vclk, 5)] : List (Clock × Nat)), ∃ t : State,
      exec (.clockLockLoss e.1) s = .next t ∧ nbit t.dev.clockLock.toNat e.2 = false ∧
      (∀ i, i ≠ e.2 → nbit t.dev.clockLock.toNat i = nbit s.dev.clockLock.toNat i) ∧
      t = { s with dev := { s.dev with clockLock := t.dev.clockLock } }) ∧
    ∀ p : Press, ∃ t : State, exec (.clockLockLoss (.cclk p)) s = .next t ∧ tget false t.dev.cclkLock p = false ∧
      (∀ q, q ≠ p.val → tget false t.dev.cclkLock q = tget false s.dev.cclkLock q) ∧
      t = { s with dev := { s.dev with cclkLock := t.dev.cclkLock } }) ∧
  ∀ (i : ScanInstr) (s : State),
    (s.dev.perstHigh = true → i = .extest ∨ i = .clamp ∨ i = .highz →
      exec (.boundaryScanInstructionLoad i) s = .next { s with dev := { s.dev with scan := .bypass } }) ∧
    (s.dev.perstHigh = false ∨ (i ≠ .extest ∧ i ≠ .clamp ∧ i ≠ .highz) →
      exec (.boundaryScanInstructionLoad i) s = .next { s with dev := { s.dev with scan := i } }) ∧
    (s.dev.perstHigh = true → s.dev.scan = .extest ∨ s.dev.scan = .clamp ∨ s.dev.scan = .highz → scanInForce s = .bypass) ∧
    (s.dev.perstHigh = false ∨ (s.dev.scan ≠ .extest ∧ s.dev.scan ≠ .clamp ∧ s.dev.scan ≠ .highz) →
      scanInForce s = s.dev.scan)
end

