-- ==== Sys2Proof/Laws/State.lean ====
section
/-! SUPPORT. Laws/State.lean: each update of a part of the state, field by field. -/

namespace Sys2Proof.Machine

/-! State.setPress -/
@[simp] theorem State.setPress_pending (s : State) (p : Nat) (r : PressRec) : (s.setPress p r).pending = s.pending := rfl
@[simp] theorem State.setPress_free (s : State) (p : Nat) (r : PressRec) : (s.setPress p r).free = s.free := rfl
@[simp] theorem State.setPress_otp (s : State) (p : Nat) (r : PressRec) : (s.setPress p r).otp = s.otp := rfl
@[simp] theorem State.setPress_dev (s : State) (p : Nat) (r : PressRec) : (s.setPress p r).dev = s.dev := rfl
@[simp] theorem State.setPress_settings (s : State) (p : Nat) (r : PressRec) : (s.setPress p r).settings = s.settings := rfl
@[simp] theorem State.setPress_events (s : State) (p : Nat) (r : PressRec) : (s.setPress p r).events = s.events := rfl
@[simp] theorem State.setPress_mgmt (s : State) (p : Nat) (r : PressRec) : (s.setPress p r).mgmt = s.mgmt := rfl
@[simp] theorem State.setPress_reports (s : State) (p : Nat) (r : PressRec) : (s.setPress p r).reports = s.reports := rfl
@[simp] theorem State.setPress_reportQueue (s : State) (p : Nat) (r : PressRec) : (s.setPress p r).reportQueue = s.reportQueue := rfl
@[simp] theorem State.setPress_vats (s : State) (p : Nat) (r : PressRec) : (s.setPress p r).vats = s.vats := rfl
@[simp] theorem State.setPress_presses (s : State) (p : Nat) (r : PressRec) : (s.setPress p r).presses = tput {} s.presses p r := rfl
@[simp] theorem State.setPress_engQueue (s : State) (p : Nat) (r : PressRec) : (s.setPress p r).engQueue = s.engQueue := rfl
@[simp] theorem State.setPress_counters (s : State) (p : Nat) (r : PressRec) : (s.setPress p r).counters = s.counters := rfl
@[simp] theorem State.setPress_heldOps (s : State) (p : Nat) (r : PressRec) : (s.setPress p r).heldOps = s.heldOps := rfl
@[simp] theorem State.setPress_remoteReply (s : State) (p : Nat) (r : PressRec) : (s.setPress p r).remoteReply = s.remoteReply := rfl
@[simp] theorem State.setPress_bridge (s : State) (p : Nat) (r : PressRec) : (s.setPress p r).bridge = s.bridge := rfl
@[simp] theorem State.setPress_streams (s : State) (p : Nat) (r : PressRec) : (s.setPress p r).streams = s.streams := rfl
@[simp] theorem State.setPress_hubs (s : State) (p : Nat) (r : PressRec) : (s.setPress p r).hubs = s.hubs := rfl
@[simp] theorem State.setPress_surveys (s : State) (p : Nat) (r : PressRec) : (s.setPress p r).surveys = s.surveys := rfl
@[simp] theorem State.setPress_gov (s : State) (p : Nat) (r : PressRec) : (s.setPress p r).gov = s.gov := rfl
@[simp] theorem State.setPress_hostMem (s : State) (p : Nat) (r : PressRec) : (s.setPress p r).hostMem = s.hostMem := rfl

/-! State.updPress -/
@[simp] theorem State.updPress_pending (s : State) (p : Nat) (f : PressRec → PressRec) : (s.updPress p f).pending = s.pending := rfl
@[simp] theorem State.updPress_free (s : State) (p : Nat) (f : PressRec → PressRec) : (s.updPress p f).free = s.free := rfl
@[simp] theorem State.updPress_otp (s : State) (p : Nat) (f : PressRec → PressRec) : (s.updPress p f).otp = s.otp := rfl
@[simp] theorem State.updPress_dev (s : State) (p : Nat) (f : PressRec → PressRec) : (s.updPress p f).dev = s.dev := rfl
@[simp] theorem State.updPress_settings (s : State) (p : Nat) (f : PressRec → PressRec) : (s.updPress p f).settings = s.settings := rfl
@[simp] theorem State.updPress_events (s : State) (p : Nat) (f : PressRec → PressRec) : (s.updPress p f).events = s.events := rfl
@[simp] theorem State.updPress_mgmt (s : State) (p : Nat) (f : PressRec → PressRec) : (s.updPress p f).mgmt = s.mgmt := rfl
@[simp] theorem State.updPress_reports (s : State) (p : Nat) (f : PressRec → PressRec) : (s.updPress p f).reports = s.reports := rfl
@[simp] theorem State.updPress_reportQueue (s : State) (p : Nat) (f : PressRec → PressRec) : (s.updPress p f).reportQueue = s.reportQueue := rfl
@[simp] theorem State.updPress_vats (s : State) (p : Nat) (f : PressRec → PressRec) : (s.updPress p f).vats = s.vats := rfl
@[simp] theorem State.updPress_engQueue (s : State) (p : Nat) (f : PressRec → PressRec) : (s.updPress p f).engQueue = s.engQueue := rfl
@[simp] theorem State.updPress_counters (s : State) (p : Nat) (f : PressRec → PressRec) : (s.updPress p f).counters = s.counters := rfl
@[simp] theorem State.updPress_heldOps (s : State) (p : Nat) (f : PressRec → PressRec) : (s.updPress p f).heldOps = s.heldOps := rfl
@[simp] theorem State.updPress_remoteReply (s : State) (p : Nat) (f : PressRec → PressRec) : (s.updPress p f).remoteReply = s.remoteReply := rfl
@[simp] theorem State.updPress_bridge (s : State) (p : Nat) (f : PressRec → PressRec) : (s.updPress p f).bridge = s.bridge := rfl
@[simp] theorem State.updPress_streams (s : State) (p : Nat) (f : PressRec → PressRec) : (s.updPress p f).streams = s.streams := rfl
@[simp] theorem State.updPress_hubs (s : State) (p : Nat) (f : PressRec → PressRec) : (s.updPress p f).hubs = s.hubs := rfl
@[simp] theorem State.updPress_surveys (s : State) (p : Nat) (f : PressRec → PressRec) : (s.updPress p f).surveys = s.surveys := rfl
@[simp] theorem State.updPress_gov (s : State) (p : Nat) (f : PressRec → PressRec) : (s.updPress p f).gov = s.gov := rfl
@[simp] theorem State.updPress_hostMem (s : State) (p : Nat) (f : PressRec → PressRec) : (s.updPress p f).hostMem = s.hostMem := rfl

/-! State.setVat -/
@[simp] theorem State.setVat_pending (s : State) (v : Nat) (r : VatRec) : (s.setVat v r).pending = s.pending := rfl
@[simp] theorem State.setVat_free (s : State) (v : Nat) (r : VatRec) : (s.setVat v r).free = s.free := rfl
@[simp] theorem State.setVat_otp (s : State) (v : Nat) (r : VatRec) : (s.setVat v r).otp = s.otp := rfl
@[simp] theorem State.setVat_dev (s : State) (v : Nat) (r : VatRec) : (s.setVat v r).dev = s.dev := rfl
@[simp] theorem State.setVat_settings (s : State) (v : Nat) (r : VatRec) : (s.setVat v r).settings = s.settings := rfl
@[simp] theorem State.setVat_events (s : State) (v : Nat) (r : VatRec) : (s.setVat v r).events = s.events := rfl
@[simp] theorem State.setVat_mgmt (s : State) (v : Nat) (r : VatRec) : (s.setVat v r).mgmt = s.mgmt := rfl
@[simp] theorem State.setVat_reports (s : State) (v : Nat) (r : VatRec) : (s.setVat v r).reports = s.reports := rfl
@[simp] theorem State.setVat_reportQueue (s : State) (v : Nat) (r : VatRec) : (s.setVat v r).reportQueue = s.reportQueue := rfl
@[simp] theorem State.setVat_vats (s : State) (v : Nat) (r : VatRec) : (s.setVat v r).vats = tput {} s.vats v r := rfl
@[simp] theorem State.setVat_presses (s : State) (v : Nat) (r : VatRec) : (s.setVat v r).presses = s.presses := rfl
@[simp] theorem State.setVat_engQueue (s : State) (v : Nat) (r : VatRec) : (s.setVat v r).engQueue = s.engQueue := rfl
@[simp] theorem State.setVat_counters (s : State) (v : Nat) (r : VatRec) : (s.setVat v r).counters = s.counters := rfl
@[simp] theorem State.setVat_heldOps (s : State) (v : Nat) (r : VatRec) : (s.setVat v r).heldOps = s.heldOps := rfl
@[simp] theorem State.setVat_remoteReply (s : State) (v : Nat) (r : VatRec) : (s.setVat v r).remoteReply = s.remoteReply := rfl
@[simp] theorem State.setVat_bridge (s : State) (v : Nat) (r : VatRec) : (s.setVat v r).bridge = s.bridge := rfl
@[simp] theorem State.setVat_streams (s : State) (v : Nat) (r : VatRec) : (s.setVat v r).streams = s.streams := rfl
@[simp] theorem State.setVat_hubs (s : State) (v : Nat) (r : VatRec) : (s.setVat v r).hubs = s.hubs := rfl
@[simp] theorem State.setVat_surveys (s : State) (v : Nat) (r : VatRec) : (s.setVat v r).surveys = s.surveys := rfl
@[simp] theorem State.setVat_gov (s : State) (v : Nat) (r : VatRec) : (s.setVat v r).gov = s.gov := rfl
@[simp] theorem State.setVat_hostMem (s : State) (v : Nat) (r : VatRec) : (s.setVat v r).hostMem = s.hostMem := rfl

/-! State.updVat -/
@[simp] theorem State.updVat_pending (s : State) (v : Nat) (f : VatRec → VatRec) : (s.updVat v f).pending = s.pending := rfl
@[simp] theorem State.updVat_free (s : State) (v : Nat) (f : VatRec → VatRec) : (s.updVat v f).free = s.free := rfl
@[simp] theorem State.updVat_otp (s : State) (v : Nat) (f : VatRec → VatRec) : (s.updVat v f).otp = s.otp := rfl
@[simp] theorem State.updVat_dev (s : State) (v : Nat) (f : VatRec → VatRec) : (s.updVat v f).dev = s.dev := rfl
@[simp] theorem State.updVat_settings (s : State) (v : Nat) (f : VatRec → VatRec) : (s.updVat v f).settings = s.settings := rfl
@[simp] theorem State.updVat_events (s : State) (v : Nat) (f : VatRec → VatRec) : (s.updVat v f).events = s.events := rfl
@[simp] theorem State.updVat_mgmt (s : State) (v : Nat) (f : VatRec → VatRec) : (s.updVat v f).mgmt = s.mgmt := rfl
@[simp] theorem State.updVat_reports (s : State) (v : Nat) (f : VatRec → VatRec) : (s.updVat v f).reports = s.reports := rfl
@[simp] theorem State.updVat_reportQueue (s : State) (v : Nat) (f : VatRec → VatRec) : (s.updVat v f).reportQueue = s.reportQueue := rfl
@[simp] theorem State.updVat_presses (s : State) (v : Nat) (f : VatRec → VatRec) : (s.updVat v f).presses = s.presses := rfl
@[simp] theorem State.updVat_engQueue (s : State) (v : Nat) (f : VatRec → VatRec) : (s.updVat v f).engQueue = s.engQueue := rfl
@[simp] theorem State.updVat_counters (s : State) (v : Nat) (f : VatRec → VatRec) : (s.updVat v f).counters = s.counters := rfl
@[simp] theorem State.updVat_heldOps (s : State) (v : Nat) (f : VatRec → VatRec) : (s.updVat v f).heldOps = s.heldOps := rfl
@[simp] theorem State.updVat_remoteReply (s : State) (v : Nat) (f : VatRec → VatRec) : (s.updVat v f).remoteReply = s.remoteReply := rfl
@[simp] theorem State.updVat_bridge (s : State) (v : Nat) (f : VatRec → VatRec) : (s.updVat v f).bridge = s.bridge := rfl
@[simp] theorem State.updVat_streams (s : State) (v : Nat) (f : VatRec → VatRec) : (s.updVat v f).streams = s.streams := rfl
@[simp] theorem State.updVat_hubs (s : State) (v : Nat) (f : VatRec → VatRec) : (s.updVat v f).hubs = s.hubs := rfl
@[simp] theorem State.updVat_surveys (s : State) (v : Nat) (f : VatRec → VatRec) : (s.updVat v f).surveys = s.surveys := rfl
@[simp] theorem State.updVat_gov (s : State) (v : Nat) (f : VatRec → VatRec) : (s.updVat v f).gov = s.gov := rfl
@[simp] theorem State.updVat_hostMem (s : State) (v : Nat) (f : VatRec → VatRec) : (s.updVat v f).hostMem = s.hostMem := rfl

/-! State.setStream -/
@[simp] theorem State.setStream_pending (s : State) (i : Nat) (r : Stream) : (s.setStream i r).pending = s.pending := rfl
@[simp] theorem State.setStream_free (s : State) (i : Nat) (r : Stream) : (s.setStream i r).free = s.free := rfl
@[simp] theorem State.setStream_otp (s : State) (i : Nat) (r : Stream) : (s.setStream i r).otp = s.otp := rfl
@[simp] theorem State.setStream_dev (s : State) (i : Nat) (r : Stream) : (s.setStream i r).dev = s.dev := rfl
@[simp] theorem State.setStream_settings (s : State) (i : Nat) (r : Stream) : (s.setStream i r).settings = s.settings := rfl
@[simp] theorem State.setStream_events (s : State) (i : Nat) (r : Stream) : (s.setStream i r).events = s.events := rfl
@[simp] theorem State.setStream_mgmt (s : State) (i : Nat) (r : Stream) : (s.setStream i r).mgmt = s.mgmt := rfl
@[simp] theorem State.setStream_reports (s : State) (i : Nat) (r : Stream) : (s.setStream i r).reports = s.reports := rfl
@[simp] theorem State.setStream_reportQueue (s : State) (i : Nat) (r : Stream) : (s.setStream i r).reportQueue = s.reportQueue := rfl
@[simp] theorem State.setStream_vats (s : State) (i : Nat) (r : Stream) : (s.setStream i r).vats = s.vats := rfl
@[simp] theorem State.setStream_presses (s : State) (i : Nat) (r : Stream) : (s.setStream i r).presses = s.presses := rfl
@[simp] theorem State.setStream_engQueue (s : State) (i : Nat) (r : Stream) : (s.setStream i r).engQueue = s.engQueue := rfl
@[simp] theorem State.setStream_counters (s : State) (i : Nat) (r : Stream) : (s.setStream i r).counters = s.counters := rfl
@[simp] theorem State.setStream_heldOps (s : State) (i : Nat) (r : Stream) : (s.setStream i r).heldOps = s.heldOps := rfl
@[simp] theorem State.setStream_remoteReply (s : State) (i : Nat) (r : Stream) : (s.setStream i r).remoteReply = s.remoteReply := rfl
@[simp] theorem State.setStream_bridge (s : State) (i : Nat) (r : Stream) : (s.setStream i r).bridge = s.bridge := rfl
@[simp] theorem State.setStream_streams (s : State) (i : Nat) (r : Stream) : (s.setStream i r).streams = tput {} s.streams i r := rfl
@[simp] theorem State.setStream_hubs (s : State) (i : Nat) (r : Stream) : (s.setStream i r).hubs = s.hubs := rfl
@[simp] theorem State.setStream_surveys (s : State) (i : Nat) (r : Stream) : (s.setStream i r).surveys = s.surveys := rfl
@[simp] theorem State.setStream_gov (s : State) (i : Nat) (r : Stream) : (s.setStream i r).gov = s.gov := rfl
@[simp] theorem State.setStream_hostMem (s : State) (i : Nat) (r : Stream) : (s.setStream i r).hostMem = s.hostMem := rfl

/-! State.updStream -/
@[simp] theorem State.updStream_pending (s : State) (i : Nat) (f : Stream → Stream) : (s.updStream i f).pending = s.pending := rfl
@[simp] theorem State.updStream_free (s : State) (i : Nat) (f : Stream → Stream) : (s.updStream i f).free = s.free := rfl
@[simp] theorem State.updStream_otp (s : State) (i : Nat) (f : Stream → Stream) : (s.updStream i f).otp = s.otp := rfl
@[simp] theorem State.updStream_dev (s : State) (i : Nat) (f : Stream → Stream) : (s.updStream i f).dev = s.dev := rfl
@[simp] theorem State.updStream_settings (s : State) (i : Nat) (f : Stream → Stream) : (s.updStream i f).settings = s.settings := rfl
@[simp] theorem State.updStream_events (s : State) (i : Nat) (f : Stream → Stream) : (s.updStream i f).events = s.events := rfl
@[simp] theorem State.updStream_mgmt (s : State) (i : Nat) (f : Stream → Stream) : (s.updStream i f).mgmt = s.mgmt := rfl
@[simp] theorem State.updStream_reports (s : State) (i : Nat) (f : Stream → Stream) : (s.updStream i f).reports = s.reports := rfl
@[simp] theorem State.updStream_reportQueue (s : State) (i : Nat) (f : Stream → Stream) : (s.updStream i f).reportQueue = s.reportQueue := rfl
@[simp] theorem State.updStream_vats (s : State) (i : Nat) (f : Stream → Stream) : (s.updStream i f).vats = s.vats := rfl
@[simp] theorem State.updStream_presses (s : State) (i : Nat) (f : Stream → Stream) : (s.updStream i f).presses = s.presses := rfl
@[simp] theorem State.updStream_engQueue (s : State) (i : Nat) (f : Stream → Stream) : (s.updStream i f).engQueue = s.engQueue := rfl
@[simp] theorem State.updStream_counters (s : State) (i : Nat) (f : Stream → Stream) : (s.updStream i f).counters = s.counters := rfl
@[simp] theorem State.updStream_heldOps (s : State) (i : Nat) (f : Stream → Stream) : (s.updStream i f).heldOps = s.heldOps := rfl
@[simp] theorem State.updStream_remoteReply (s : State) (i : Nat) (f : Stream → Stream) : (s.updStream i f).remoteReply = s.remoteReply := rfl
@[simp] theorem State.updStream_bridge (s : State) (i : Nat) (f : Stream → Stream) : (s.updStream i f).bridge = s.bridge := rfl
@[simp] theorem State.updStream_hubs (s : State) (i : Nat) (f : Stream → Stream) : (s.updStream i f).hubs = s.hubs := rfl
@[simp] theorem State.updStream_surveys (s : State) (i : Nat) (f : Stream → Stream) : (s.updStream i f).surveys = s.surveys := rfl
@[simp] theorem State.updStream_gov (s : State) (i : Nat) (f : Stream → Stream) : (s.updStream i f).gov = s.gov := rfl
@[simp] theorem State.updStream_hostMem (s : State) (i : Nat) (f : Stream → Stream) : (s.updStream i f).hostMem = s.hostMem := rfl

/-! State.setFn -/
@[simp] theorem State.setFn_pending (s : State) (i : Nat) (r : FnRec) : (s.setFn i r).pending = s.pending := rfl
@[simp] theorem State.setFn_free (s : State) (i : Nat) (r : FnRec) : (s.setFn i r).free = s.free := rfl
@[simp] theorem State.setFn_otp (s : State) (i : Nat) (r : FnRec) : (s.setFn i r).otp = s.otp := rfl
@[simp] theorem State.setFn_dev (s : State) (i : Nat) (r : FnRec) : (s.setFn i r).dev = s.dev := rfl
@[simp] theorem State.setFn_settings (s : State) (i : Nat) (r : FnRec) : (s.setFn i r).settings = s.settings := rfl
@[simp] theorem State.setFn_events (s : State) (i : Nat) (r : FnRec) : (s.setFn i r).events = s.events := rfl
@[simp] theorem State.setFn_mgmt (s : State) (i : Nat) (r : FnRec) : (s.setFn i r).mgmt = s.mgmt := rfl
@[simp] theorem State.setFn_reports (s : State) (i : Nat) (r : FnRec) : (s.setFn i r).reports = s.reports := rfl
@[simp] theorem State.setFn_reportQueue (s : State) (i : Nat) (r : FnRec) : (s.setFn i r).reportQueue = s.reportQueue := rfl
@[simp] theorem State.setFn_vats (s : State) (i : Nat) (r : FnRec) : (s.setFn i r).vats = s.vats := rfl
@[simp] theorem State.setFn_presses (s : State) (i : Nat) (r : FnRec) : (s.setFn i r).presses = s.presses := rfl
@[simp] theorem State.setFn_engQueue (s : State) (i : Nat) (r : FnRec) : (s.setFn i r).engQueue = s.engQueue := rfl
@[simp] theorem State.setFn_counters (s : State) (i : Nat) (r : FnRec) : (s.setFn i r).counters = s.counters := rfl
@[simp] theorem State.setFn_heldOps (s : State) (i : Nat) (r : FnRec) : (s.setFn i r).heldOps = s.heldOps := rfl
@[simp] theorem State.setFn_remoteReply (s : State) (i : Nat) (r : FnRec) : (s.setFn i r).remoteReply = s.remoteReply := rfl
@[simp] theorem State.setFn_streams (s : State) (i : Nat) (r : FnRec) : (s.setFn i r).streams = s.streams := rfl
@[simp] theorem State.setFn_hubs (s : State) (i : Nat) (r : FnRec) : (s.setFn i r).hubs = s.hubs := rfl
@[simp] theorem State.setFn_surveys (s : State) (i : Nat) (r : FnRec) : (s.setFn i r).surveys = s.surveys := rfl
@[simp] theorem State.setFn_gov (s : State) (i : Nat) (r : FnRec) : (s.setFn i r).gov = s.gov := rfl
@[simp] theorem State.setFn_hostMem (s : State) (i : Nat) (r : FnRec) : (s.setFn i r).hostMem = s.hostMem := rfl

/-! State.updFn -/
@[simp] theorem State.updFn_pending (s : State) (i : Nat) (f : FnRec → FnRec) : (s.updFn i f).pending = s.pending := rfl
@[simp] theorem State.updFn_free (s : State) (i : Nat) (f : FnRec → FnRec) : (s.updFn i f).free = s.free := rfl
@[simp] theorem State.updFn_otp (s : State) (i : Nat) (f : FnRec → FnRec) : (s.updFn i f).otp = s.otp := rfl
@[simp] theorem State.updFn_dev (s : State) (i : Nat) (f : FnRec → FnRec) : (s.updFn i f).dev = s.dev := rfl
@[simp] theorem State.updFn_settings (s : State) (i : Nat) (f : FnRec → FnRec) : (s.updFn i f).settings = s.settings := rfl
@[simp] theorem State.updFn_events (s : State) (i : Nat) (f : FnRec → FnRec) : (s.updFn i f).events = s.events := rfl
@[simp] theorem State.updFn_mgmt (s : State) (i : Nat) (f : FnRec → FnRec) : (s.updFn i f).mgmt = s.mgmt := rfl
@[simp] theorem State.updFn_reports (s : State) (i : Nat) (f : FnRec → FnRec) : (s.updFn i f).reports = s.reports := rfl
@[simp] theorem State.updFn_reportQueue (s : State) (i : Nat) (f : FnRec → FnRec) : (s.updFn i f).reportQueue = s.reportQueue := rfl
@[simp] theorem State.updFn_vats (s : State) (i : Nat) (f : FnRec → FnRec) : (s.updFn i f).vats = s.vats := rfl
@[simp] theorem State.updFn_presses (s : State) (i : Nat) (f : FnRec → FnRec) : (s.updFn i f).presses = s.presses := rfl
@[simp] theorem State.updFn_engQueue (s : State) (i : Nat) (f : FnRec → FnRec) : (s.updFn i f).engQueue = s.engQueue := rfl
@[simp] theorem State.updFn_counters (s : State) (i : Nat) (f : FnRec → FnRec) : (s.updFn i f).counters = s.counters := rfl
@[simp] theorem State.updFn_heldOps (s : State) (i : Nat) (f : FnRec → FnRec) : (s.updFn i f).heldOps = s.heldOps := rfl
@[simp] theorem State.updFn_remoteReply (s : State) (i : Nat) (f : FnRec → FnRec) : (s.updFn i f).remoteReply = s.remoteReply := rfl
@[simp] theorem State.updFn_streams (s : State) (i : Nat) (f : FnRec → FnRec) : (s.updFn i f).streams = s.streams := rfl
@[simp] theorem State.updFn_hubs (s : State) (i : Nat) (f : FnRec → FnRec) : (s.updFn i f).hubs = s.hubs := rfl
@[simp] theorem State.updFn_surveys (s : State) (i : Nat) (f : FnRec → FnRec) : (s.updFn i f).surveys = s.surveys := rfl
@[simp] theorem State.updFn_gov (s : State) (i : Nat) (f : FnRec → FnRec) : (s.updFn i f).gov = s.gov := rfl
@[simp] theorem State.updFn_hostMem (s : State) (i : Nat) (f : FnRec → FnRec) : (s.updFn i f).hostMem = s.hostMem := rfl

/-! State.setCounter -/
@[simp] theorem State.setCounter_pending (s : State) (c : Nat) (r : Counter) : (s.setCounter c r).pending = s.pending := rfl
@[simp] theorem State.setCounter_free (s : State) (c : Nat) (r : Counter) : (s.setCounter c r).free = s.free := rfl
@[simp] theorem State.setCounter_otp (s : State) (c : Nat) (r : Counter) : (s.setCounter c r).otp = s.otp := rfl
@[simp] theorem State.setCounter_dev (s : State) (c : Nat) (r : Counter) : (s.setCounter c r).dev = s.dev := rfl
@[simp] theorem State.setCounter_settings (s : State) (c : Nat) (r : Counter) : (s.setCounter c r).settings = s.settings := rfl
@[simp] theorem State.setCounter_events (s : State) (c : Nat) (r : Counter) : (s.setCounter c r).events = s.events := rfl
@[simp] theorem State.setCounter_mgmt (s : State) (c : Nat) (r : Counter) : (s.setCounter c r).mgmt = s.mgmt := rfl
@[simp] theorem State.setCounter_reports (s : State) (c : Nat) (r : Counter) : (s.setCounter c r).reports = s.reports := rfl
@[simp] theorem State.setCounter_reportQueue (s : State) (c : Nat) (r : Counter) : (s.setCounter c r).reportQueue = s.reportQueue := rfl
@[simp] theorem State.setCounter_vats (s : State) (c : Nat) (r : Counter) : (s.setCounter c r).vats = s.vats := rfl
@[simp] theorem State.setCounter_presses (s : State) (c : Nat) (r : Counter) : (s.setCounter c r).presses = s.presses := rfl
@[simp] theorem State.setCounter_engQueue (s : State) (c : Nat) (r : Counter) : (s.setCounter c r).engQueue = s.engQueue := rfl
@[simp] theorem State.setCounter_counters (s : State) (c : Nat) (r : Counter) : (s.setCounter c r).counters = tput {} s.counters c r := rfl
@[simp] theorem State.setCounter_heldOps (s : State) (c : Nat) (r : Counter) : (s.setCounter c r).heldOps = s.heldOps := rfl
@[simp] theorem State.setCounter_remoteReply (s : State) (c : Nat) (r : Counter) : (s.setCounter c r).remoteReply = s.remoteReply := rfl
@[simp] theorem State.setCounter_bridge (s : State) (c : Nat) (r : Counter) : (s.setCounter c r).bridge = s.bridge := rfl
@[simp] theorem State.setCounter_streams (s : State) (c : Nat) (r : Counter) : (s.setCounter c r).streams = s.streams := rfl
@[simp] theorem State.setCounter_hubs (s : State) (c : Nat) (r : Counter) : (s.setCounter c r).hubs = s.hubs := rfl
@[simp] theorem State.setCounter_surveys (s : State) (c : Nat) (r : Counter) : (s.setCounter c r).surveys = s.surveys := rfl
@[simp] theorem State.setCounter_gov (s : State) (c : Nat) (r : Counter) : (s.setCounter c r).gov = s.gov := rfl
@[simp] theorem State.setCounter_hostMem (s : State) (c : Nat) (r : Counter) : (s.setCounter c r).hostMem = s.hostMem := rfl

/-! State.updCounter -/
@[simp] theorem State.updCounter_pending (s : State) (c : Nat) (f : Counter → Counter) : (s.updCounter c f).pending = s.pending := rfl
@[simp] theorem State.updCounter_free (s : State) (c : Nat) (f : Counter → Counter) : (s.updCounter c f).free = s.free := rfl
@[simp] theorem State.updCounter_otp (s : State) (c : Nat) (f : Counter → Counter) : (s.updCounter c f).otp = s.otp := rfl
@[simp] theorem State.updCounter_dev (s : State) (c : Nat) (f : Counter → Counter) : (s.updCounter c f).dev = s.dev := rfl
@[simp] theorem State.updCounter_settings (s : State) (c : Nat) (f : Counter → Counter) : (s.updCounter c f).settings = s.settings := rfl
@[simp] theorem State.updCounter_events (s : State) (c : Nat) (f : Counter → Counter) : (s.updCounter c f).events = s.events := rfl
@[simp] theorem State.updCounter_mgmt (s : State) (c : Nat) (f : Counter → Counter) : (s.updCounter c f).mgmt = s.mgmt := rfl
@[simp] theorem State.updCounter_reports (s : State) (c : Nat) (f : Counter → Counter) : (s.updCounter c f).reports = s.reports := rfl
@[simp] theorem State.updCounter_reportQueue (s : State) (c : Nat) (f : Counter → Counter) : (s.updCounter c f).reportQueue = s.reportQueue := rfl
@[simp] theorem State.updCounter_vats (s : State) (c : Nat) (f : Counter → Counter) : (s.updCounter c f).vats = s.vats := rfl
@[simp] theorem State.updCounter_presses (s : State) (c : Nat) (f : Counter → Counter) : (s.updCounter c f).presses = s.presses := rfl
@[simp] theorem State.updCounter_engQueue (s : State) (c : Nat) (f : Counter → Counter) : (s.updCounter c f).engQueue = s.engQueue := rfl
@[simp] theorem State.updCounter_heldOps (s : State) (c : Nat) (f : Counter → Counter) : (s.updCounter c f).heldOps = s.heldOps := rfl
@[simp] theorem State.updCounter_remoteReply (s : State) (c : Nat) (f : Counter → Counter) : (s.updCounter c f).remoteReply = s.remoteReply := rfl
@[simp] theorem State.updCounter_bridge (s : State) (c : Nat) (f : Counter → Counter) : (s.updCounter c f).bridge = s.bridge := rfl
@[simp] theorem State.updCounter_streams (s : State) (c : Nat) (f : Counter → Counter) : (s.updCounter c f).streams = s.streams := rfl
@[simp] theorem State.updCounter_hubs (s : State) (c : Nat) (f : Counter → Counter) : (s.updCounter c f).hubs = s.hubs := rfl
@[simp] theorem State.updCounter_surveys (s : State) (c : Nat) (f : Counter → Counter) : (s.updCounter c f).surveys = s.surveys := rfl
@[simp] theorem State.updCounter_gov (s : State) (c : Nat) (f : Counter → Counter) : (s.updCounter c f).gov = s.gov := rfl
@[simp] theorem State.updCounter_hostMem (s : State) (c : Nat) (f : Counter → Counter) : (s.updCounter c f).hostMem = s.hostMem := rfl

/-! State.updSurvey -/
@[simp] theorem State.updSurvey_pending (s : State) (c : Nat) (f : Survey → Survey) : (s.updSurvey c f).pending = s.pending := rfl
@[simp] theorem State.updSurvey_free (s : State) (c : Nat) (f : Survey → Survey) : (s.updSurvey c f).free = s.free := rfl
@[simp] theorem State.updSurvey_otp (s : State) (c : Nat) (f : Survey → Survey) : (s.updSurvey c f).otp = s.otp := rfl
@[simp] theorem State.updSurvey_dev (s : State) (c : Nat) (f : Survey → Survey) : (s.updSurvey c f).dev = s.dev := rfl
@[simp] theorem State.updSurvey_settings (s : State) (c : Nat) (f : Survey → Survey) : (s.updSurvey c f).settings = s.settings := rfl
@[simp] theorem State.updSurvey_events (s : State) (c : Nat) (f : Survey → Survey) : (s.updSurvey c f).events = s.events := rfl
@[simp] theorem State.updSurvey_mgmt (s : State) (c : Nat) (f : Survey → Survey) : (s.updSurvey c f).mgmt = s.mgmt := rfl
@[simp] theorem State.updSurvey_reports (s : State) (c : Nat) (f : Survey → Survey) : (s.updSurvey c f).reports = s.reports := rfl
@[simp] theorem State.updSurvey_reportQueue (s : State) (c : Nat) (f : Survey → Survey) : (s.updSurvey c f).reportQueue = s.reportQueue := rfl
@[simp] theorem State.updSurvey_vats (s : State) (c : Nat) (f : Survey → Survey) : (s.updSurvey c f).vats = s.vats := rfl
@[simp] theorem State.updSurvey_presses (s : State) (c : Nat) (f : Survey → Survey) : (s.updSurvey c f).presses = s.presses := rfl
@[simp] theorem State.updSurvey_engQueue (s : State) (c : Nat) (f : Survey → Survey) : (s.updSurvey c f).engQueue = s.engQueue := rfl
@[simp] theorem State.updSurvey_counters (s : State) (c : Nat) (f : Survey → Survey) : (s.updSurvey c f).counters = s.counters := rfl
@[simp] theorem State.updSurvey_heldOps (s : State) (c : Nat) (f : Survey → Survey) : (s.updSurvey c f).heldOps = s.heldOps := rfl
@[simp] theorem State.updSurvey_remoteReply (s : State) (c : Nat) (f : Survey → Survey) : (s.updSurvey c f).remoteReply = s.remoteReply := rfl
@[simp] theorem State.updSurvey_bridge (s : State) (c : Nat) (f : Survey → Survey) : (s.updSurvey c f).bridge = s.bridge := rfl
@[simp] theorem State.updSurvey_streams (s : State) (c : Nat) (f : Survey → Survey) : (s.updSurvey c f).streams = s.streams := rfl
@[simp] theorem State.updSurvey_hubs (s : State) (c : Nat) (f : Survey → Survey) : (s.updSurvey c f).hubs = s.hubs := rfl
@[simp] theorem State.updSurvey_gov (s : State) (c : Nat) (f : Survey → Survey) : (s.updSurvey c f).gov = s.gov := rfl
@[simp] theorem State.updSurvey_hostMem (s : State) (c : Nat) (f : Survey → Survey) : (s.updSurvey c f).hostMem = s.hostMem := rfl

/-! State.updReport -/
@[simp] theorem State.updReport_pending (s : State) (i : Nat) (f : Report → Report) : (s.updReport i f).pending = s.pending := rfl
@[simp] theorem State.updReport_free (s : State) (i : Nat) (f : Report → Report) : (s.updReport i f).free = s.free := rfl
@[simp] theorem State.updReport_otp (s : State) (i : Nat) (f : Report → Report) : (s.updReport i f).otp = s.otp := rfl
@[simp] theorem State.updReport_dev (s : State) (i : Nat) (f : Report → Report) : (s.updReport i f).dev = s.dev := rfl
@[simp] theorem State.updReport_settings (s : State) (i : Nat) (f : Report → Report) : (s.updReport i f).settings = s.settings := rfl
@[simp] theorem State.updReport_events (s : State) (i : Nat) (f : Report → Report) : (s.updReport i f).events = s.events := rfl
@[simp] theorem State.updReport_mgmt (s : State) (i : Nat) (f : Report → Report) : (s.updReport i f).mgmt = s.mgmt := rfl
@[simp] theorem State.updReport_reportQueue (s : State) (i : Nat) (f : Report → Report) : (s.updReport i f).reportQueue = s.reportQueue := rfl
@[simp] theorem State.updReport_vats (s : State) (i : Nat) (f : Report → Report) : (s.updReport i f).vats = s.vats := rfl
@[simp] theorem State.updReport_presses (s : State) (i : Nat) (f : Report → Report) : (s.updReport i f).presses = s.presses := rfl
@[simp] theorem State.updReport_engQueue (s : State) (i : Nat) (f : Report → Report) : (s.updReport i f).engQueue = s.engQueue := rfl
@[simp] theorem State.updReport_counters (s : State) (i : Nat) (f : Report → Report) : (s.updReport i f).counters = s.counters := rfl
@[simp] theorem State.updReport_heldOps (s : State) (i : Nat) (f : Report → Report) : (s.updReport i f).heldOps = s.heldOps := rfl
@[simp] theorem State.updReport_remoteReply (s : State) (i : Nat) (f : Report → Report) : (s.updReport i f).remoteReply = s.remoteReply := rfl
@[simp] theorem State.updReport_bridge (s : State) (i : Nat) (f : Report → Report) : (s.updReport i f).bridge = s.bridge := rfl
@[simp] theorem State.updReport_streams (s : State) (i : Nat) (f : Report → Report) : (s.updReport i f).streams = s.streams := rfl
@[simp] theorem State.updReport_hubs (s : State) (i : Nat) (f : Report → Report) : (s.updReport i f).hubs = s.hubs := rfl
@[simp] theorem State.updReport_surveys (s : State) (i : Nat) (f : Report → Report) : (s.updReport i f).surveys = s.surveys := rfl
@[simp] theorem State.updReport_gov (s : State) (i : Nat) (f : Report → Report) : (s.updReport i f).gov = s.gov := rfl
@[simp] theorem State.updReport_hostMem (s : State) (i : Nat) (f : Report → Report) : (s.updReport i f).hostMem = s.hostMem := rfl

/-! State.updPlate -/
@[simp] theorem State.updPlate_pending (s : State) (p q : Nat) (f : PlateRec → PlateRec) : (s.updPlate p q f).pending = s.pending := rfl
@[simp] theorem State.updPlate_free (s : State) (p q : Nat) (f : PlateRec → PlateRec) : (s.updPlate p q f).free = s.free := rfl
@[simp] theorem State.updPlate_otp (s : State) (p q : Nat) (f : PlateRec → PlateRec) : (s.updPlate p q f).otp = s.otp := rfl
@[simp] theorem State.updPlate_dev (s : State) (p q : Nat) (f : PlateRec → PlateRec) : (s.updPlate p q f).dev = s.dev := rfl
@[simp] theorem State.updPlate_settings (s : State) (p q : Nat) (f : PlateRec → PlateRec) : (s.updPlate p q f).settings = s.settings := rfl
@[simp] theorem State.updPlate_events (s : State) (p q : Nat) (f : PlateRec → PlateRec) : (s.updPlate p q f).events = s.events := rfl
@[simp] theorem State.updPlate_mgmt (s : State) (p q : Nat) (f : PlateRec → PlateRec) : (s.updPlate p q f).mgmt = s.mgmt := rfl
@[simp] theorem State.updPlate_reports (s : State) (p q : Nat) (f : PlateRec → PlateRec) : (s.updPlate p q f).reports = s.reports := rfl
@[simp] theorem State.updPlate_reportQueue (s : State) (p q : Nat) (f : PlateRec → PlateRec) : (s.updPlate p q f).reportQueue = s.reportQueue := rfl
@[simp] theorem State.updPlate_vats (s : State) (p q : Nat) (f : PlateRec → PlateRec) : (s.updPlate p q f).vats = s.vats := rfl
@[simp] theorem State.updPlate_engQueue (s : State) (p q : Nat) (f : PlateRec → PlateRec) : (s.updPlate p q f).engQueue = s.engQueue := rfl
@[simp] theorem State.updPlate_counters (s : State) (p q : Nat) (f : PlateRec → PlateRec) : (s.updPlate p q f).counters = s.counters := rfl
@[simp] theorem State.updPlate_heldOps (s : State) (p q : Nat) (f : PlateRec → PlateRec) : (s.updPlate p q f).heldOps = s.heldOps := rfl
@[simp] theorem State.updPlate_remoteReply (s : State) (p q : Nat) (f : PlateRec → PlateRec) : (s.updPlate p q f).remoteReply = s.remoteReply := rfl
@[simp] theorem State.updPlate_bridge (s : State) (p q : Nat) (f : PlateRec → PlateRec) : (s.updPlate p q f).bridge = s.bridge := rfl
@[simp] theorem State.updPlate_streams (s : State) (p q : Nat) (f : PlateRec → PlateRec) : (s.updPlate p q f).streams = s.streams := rfl
@[simp] theorem State.updPlate_hubs (s : State) (p q : Nat) (f : PlateRec → PlateRec) : (s.updPlate p q f).hubs = s.hubs := rfl
@[simp] theorem State.updPlate_surveys (s : State) (p q : Nat) (f : PlateRec → PlateRec) : (s.updPlate p q f).surveys = s.surveys := rfl
@[simp] theorem State.updPlate_gov (s : State) (p q : Nat) (f : PlateRec → PlateRec) : (s.updPlate p q f).gov = s.gov := rfl
@[simp] theorem State.updPlate_hostMem (s : State) (p q : Nat) (f : PlateRec → PlateRec) : (s.updPlate p q f).hostMem = s.hostMem := rfl

/-! State.updBank -/
@[simp] theorem State.updBank_pending (s : State) (p b : Nat) (f : Bank → Bank) : (s.updBank p b f).pending = s.pending := rfl
@[simp] theorem State.updBank_free (s : State) (p b : Nat) (f : Bank → Bank) : (s.updBank p b f).free = s.free := rfl
@[simp] theorem State.updBank_otp (s : State) (p b : Nat) (f : Bank → Bank) : (s.updBank p b f).otp = s.otp := rfl
@[simp] theorem State.updBank_dev (s : State) (p b : Nat) (f : Bank → Bank) : (s.updBank p b f).dev = s.dev := rfl
@[simp] theorem State.updBank_settings (s : State) (p b : Nat) (f : Bank → Bank) : (s.updBank p b f).settings = s.settings := rfl
@[simp] theorem State.updBank_events (s : State) (p b : Nat) (f : Bank → Bank) : (s.updBank p b f).events = s.events := rfl
@[simp] theorem State.updBank_mgmt (s : State) (p b : Nat) (f : Bank → Bank) : (s.updBank p b f).mgmt = s.mgmt := rfl
@[simp] theorem State.updBank_reports (s : State) (p b : Nat) (f : Bank → Bank) : (s.updBank p b f).reports = s.reports := rfl
@[simp] theorem State.updBank_reportQueue (s : State) (p b : Nat) (f : Bank → Bank) : (s.updBank p b f).reportQueue = s.reportQueue := rfl
@[simp] theorem State.updBank_vats (s : State) (p b : Nat) (f : Bank → Bank) : (s.updBank p b f).vats = s.vats := rfl
@[simp] theorem State.updBank_engQueue (s : State) (p b : Nat) (f : Bank → Bank) : (s.updBank p b f).engQueue = s.engQueue := rfl
@[simp] theorem State.updBank_counters (s : State) (p b : Nat) (f : Bank → Bank) : (s.updBank p b f).counters = s.counters := rfl
@[simp] theorem State.updBank_heldOps (s : State) (p b : Nat) (f : Bank → Bank) : (s.updBank p b f).heldOps = s.heldOps := rfl
@[simp] theorem State.updBank_remoteReply (s : State) (p b : Nat) (f : Bank → Bank) : (s.updBank p b f).remoteReply = s.remoteReply := rfl
@[simp] theorem State.updBank_bridge (s : State) (p b : Nat) (f : Bank → Bank) : (s.updBank p b f).bridge = s.bridge := rfl
@[simp] theorem State.updBank_streams (s : State) (p b : Nat) (f : Bank → Bank) : (s.updBank p b f).streams = s.streams := rfl
@[simp] theorem State.updBank_hubs (s : State) (p b : Nat) (f : Bank → Bank) : (s.updBank p b f).hubs = s.hubs := rfl
@[simp] theorem State.updBank_surveys (s : State) (p b : Nat) (f : Bank → Bank) : (s.updBank p b f).surveys = s.surveys := rfl
@[simp] theorem State.updBank_gov (s : State) (p b : Nat) (f : Bank → Bank) : (s.updBank p b f).gov = s.gov := rfl
@[simp] theorem State.updBank_hostMem (s : State) (p b : Nat) (f : Bank → Bank) : (s.updBank p b f).hostMem = s.hostMem := rfl

/-! State.updMacro -/
@[simp] theorem State.updMacro_pending (s : State) (p m : Nat) (f : MacroRec → MacroRec) : (s.updMacro p m f).pending = s.pending := rfl
@[simp] theorem State.updMacro_free (s : State) (p m : Nat) (f : MacroRec → MacroRec) : (s.updMacro p m f).free = s.free := rfl
@[simp] theorem State.updMacro_otp (s : State) (p m : Nat) (f : MacroRec → MacroRec) : (s.updMacro p m f).otp = s.otp := rfl
@[simp] theorem State.updMacro_dev (s : State) (p m : Nat) (f : MacroRec → MacroRec) : (s.updMacro p m f).dev = s.dev := rfl
@[simp] theorem State.updMacro_settings (s : State) (p m : Nat) (f : MacroRec → MacroRec) : (s.updMacro p m f).settings = s.settings := rfl
@[simp] theorem State.updMacro_events (s : State) (p m : Nat) (f : MacroRec → MacroRec) : (s.updMacro p m f).events = s.events := rfl
@[simp] theorem State.updMacro_mgmt (s : State) (p m : Nat) (f : MacroRec → MacroRec) : (s.updMacro p m f).mgmt = s.mgmt := rfl
@[simp] theorem State.updMacro_reports (s : State) (p m : Nat) (f : MacroRec → MacroRec) : (s.updMacro p m f).reports = s.reports := rfl
@[simp] theorem State.updMacro_reportQueue (s : State) (p m : Nat) (f : MacroRec → MacroRec) : (s.updMacro p m f).reportQueue = s.reportQueue := rfl
@[simp] theorem State.updMacro_vats (s : State) (p m : Nat) (f : MacroRec → MacroRec) : (s.updMacro p m f).vats = s.vats := rfl
@[simp] theorem State.updMacro_engQueue (s : State) (p m : Nat) (f : MacroRec → MacroRec) : (s.updMacro p m f).engQueue = s.engQueue := rfl
@[simp] theorem State.updMacro_counters (s : State) (p m : Nat) (f : MacroRec → MacroRec) : (s.updMacro p m f).counters = s.counters := rfl
@[simp] theorem State.updMacro_heldOps (s : State) (p m : Nat) (f : MacroRec → MacroRec) : (s.updMacro p m f).heldOps = s.heldOps := rfl
@[simp] theorem State.updMacro_remoteReply (s : State) (p m : Nat) (f : MacroRec → MacroRec) : (s.updMacro p m f).remoteReply = s.remoteReply := rfl
@[simp] theorem State.updMacro_bridge (s : State) (p m : Nat) (f : MacroRec → MacroRec) : (s.updMacro p m f).bridge = s.bridge := rfl
@[simp] theorem State.updMacro_streams (s : State) (p m : Nat) (f : MacroRec → MacroRec) : (s.updMacro p m f).streams = s.streams := rfl
@[simp] theorem State.updMacro_hubs (s : State) (p m : Nat) (f : MacroRec → MacroRec) : (s.updMacro p m f).hubs = s.hubs := rfl
@[simp] theorem State.updMacro_surveys (s : State) (p m : Nat) (f : MacroRec → MacroRec) : (s.updMacro p m f).surveys = s.surveys := rfl
@[simp] theorem State.updMacro_gov (s : State) (p m : Nat) (f : MacroRec → MacroRec) : (s.updMacro p m f).gov = s.gov := rfl
@[simp] theorem State.updMacro_hostMem (s : State) (p m : Nat) (f : MacroRec → MacroRec) : (s.updMacro p m f).hostMem = s.hostMem := rfl

/-! State.setSlot -/
@[simp] theorem State.setSlot_pending (s : State) (p k : Nat) (j : Option Job) : (s.setSlot p k j).pending = s.pending := rfl
@[simp] theorem State.setSlot_free (s : State) (p k : Nat) (j : Option Job) : (s.setSlot p k j).free = s.free := rfl
@[simp] theorem State.setSlot_otp (s : State) (p k : Nat) (j : Option Job) : (s.setSlot p k j).otp = s.otp := rfl
@[simp] theorem State.setSlot_dev (s : State) (p k : Nat) (j : Option Job) : (s.setSlot p k j).dev = s.dev := rfl
@[simp] theorem State.setSlot_settings (s : State) (p k : Nat) (j : Option Job) : (s.setSlot p k j).settings = s.settings := rfl
@[simp] theorem State.setSlot_events (s : State) (p k : Nat) (j : Option Job) : (s.setSlot p k j).events = s.events := rfl
@[simp] theorem State.setSlot_mgmt (s : State) (p k : Nat) (j : Option Job) : (s.setSlot p k j).mgmt = s.mgmt := rfl
@[simp] theorem State.setSlot_reports (s : State) (p k : Nat) (j : Option Job) : (s.setSlot p k j).reports = s.reports := rfl
@[simp] theorem State.setSlot_reportQueue (s : State) (p k : Nat) (j : Option Job) : (s.setSlot p k j).reportQueue = s.reportQueue := rfl
@[simp] theorem State.setSlot_vats (s : State) (p k : Nat) (j : Option Job) : (s.setSlot p k j).vats = s.vats := rfl
@[simp] theorem State.setSlot_engQueue (s : State) (p k : Nat) (j : Option Job) : (s.setSlot p k j).engQueue = s.engQueue := rfl
@[simp] theorem State.setSlot_counters (s : State) (p k : Nat) (j : Option Job) : (s.setSlot p k j).counters = s.counters := rfl
@[simp] theorem State.setSlot_heldOps (s : State) (p k : Nat) (j : Option Job) : (s.setSlot p k j).heldOps = s.heldOps := rfl
@[simp] theorem State.setSlot_remoteReply (s : State) (p k : Nat) (j : Option Job) : (s.setSlot p k j).remoteReply = s.remoteReply := rfl
@[simp] theorem State.setSlot_bridge (s : State) (p k : Nat) (j : Option Job) : (s.setSlot p k j).bridge = s.bridge := rfl
@[simp] theorem State.setSlot_streams (s : State) (p k : Nat) (j : Option Job) : (s.setSlot p k j).streams = s.streams := rfl
@[simp] theorem State.setSlot_hubs (s : State) (p k : Nat) (j : Option Job) : (s.setSlot p k j).hubs = s.hubs := rfl
@[simp] theorem State.setSlot_surveys (s : State) (p k : Nat) (j : Option Job) : (s.setSlot p k j).surveys = s.surveys := rfl
@[simp] theorem State.setSlot_gov (s : State) (p k : Nat) (j : Option Job) : (s.setSlot p k j).gov = s.gov := rfl
@[simp] theorem State.setSlot_hostMem (s : State) (p k : Nat) (j : Option Job) : (s.setSlot p k j).hostMem = s.hostMem := rfl

/-! State.updJob -/
@[simp] theorem State.updJob_pending (s : State) (p k : Nat) (f : Job → Job) : (s.updJob p k f).pending = s.pending := rfl
@[simp] theorem State.updJob_free (s : State) (p k : Nat) (f : Job → Job) : (s.updJob p k f).free = s.free := rfl
@[simp] theorem State.updJob_otp (s : State) (p k : Nat) (f : Job → Job) : (s.updJob p k f).otp = s.otp := rfl
@[simp] theorem State.updJob_dev (s : State) (p k : Nat) (f : Job → Job) : (s.updJob p k f).dev = s.dev := rfl
@[simp] theorem State.updJob_settings (s : State) (p k : Nat) (f : Job → Job) : (s.updJob p k f).settings = s.settings := rfl
@[simp] theorem State.updJob_events (s : State) (p k : Nat) (f : Job → Job) : (s.updJob p k f).events = s.events := rfl
@[simp] theorem State.updJob_mgmt (s : State) (p k : Nat) (f : Job → Job) : (s.updJob p k f).mgmt = s.mgmt := rfl
@[simp] theorem State.updJob_reports (s : State) (p k : Nat) (f : Job → Job) : (s.updJob p k f).reports = s.reports := rfl
@[simp] theorem State.updJob_reportQueue (s : State) (p k : Nat) (f : Job → Job) : (s.updJob p k f).reportQueue = s.reportQueue := rfl
@[simp] theorem State.updJob_vats (s : State) (p k : Nat) (f : Job → Job) : (s.updJob p k f).vats = s.vats := rfl
@[simp] theorem State.updJob_engQueue (s : State) (p k : Nat) (f : Job → Job) : (s.updJob p k f).engQueue = s.engQueue := rfl
@[simp] theorem State.updJob_counters (s : State) (p k : Nat) (f : Job → Job) : (s.updJob p k f).counters = s.counters := rfl
@[simp] theorem State.updJob_heldOps (s : State) (p k : Nat) (f : Job → Job) : (s.updJob p k f).heldOps = s.heldOps := rfl
@[simp] theorem State.updJob_remoteReply (s : State) (p k : Nat) (f : Job → Job) : (s.updJob p k f).remoteReply = s.remoteReply := rfl
@[simp] theorem State.updJob_bridge (s : State) (p k : Nat) (f : Job → Job) : (s.updJob p k f).bridge = s.bridge := rfl
@[simp] theorem State.updJob_streams (s : State) (p k : Nat) (f : Job → Job) : (s.updJob p k f).streams = s.streams := rfl
@[simp] theorem State.updJob_hubs (s : State) (p k : Nat) (f : Job → Job) : (s.updJob p k f).hubs = s.hubs := rfl
@[simp] theorem State.updJob_surveys (s : State) (p k : Nat) (f : Job → Job) : (s.updJob p k f).surveys = s.surveys := rfl
@[simp] theorem State.updJob_gov (s : State) (p k : Nat) (f : Job → Job) : (s.updJob p k f).gov = s.gov := rfl
@[simp] theorem State.updJob_hostMem (s : State) (p k : Nat) (f : Job → Job) : (s.updJob p k f).hostMem = s.hostMem := rfl

/-! State.updThermal -/
@[simp] theorem State.updThermal_pending (s : State) (p : Nat) (f : Thermal → Thermal) : (s.updThermal p f).pending = s.pending := rfl
@[simp] theorem State.updThermal_free (s : State) (p : Nat) (f : Thermal → Thermal) : (s.updThermal p f).free = s.free := rfl
@[simp] theorem State.updThermal_otp (s : State) (p : Nat) (f : Thermal → Thermal) : (s.updThermal p f).otp = s.otp := rfl
@[simp] theorem State.updThermal_dev (s : State) (p : Nat) (f : Thermal → Thermal) : (s.updThermal p f).dev = s.dev := rfl
@[simp] theorem State.updThermal_settings (s : State) (p : Nat) (f : Thermal → Thermal) : (s.updThermal p f).settings = s.settings := rfl
@[simp] theorem State.updThermal_events (s : State) (p : Nat) (f : Thermal → Thermal) : (s.updThermal p f).events = s.events := rfl
@[simp] theorem State.updThermal_mgmt (s : State) (p : Nat) (f : Thermal → Thermal) : (s.updThermal p f).mgmt = s.mgmt := rfl
@[simp] theorem State.updThermal_reports (s : State) (p : Nat) (f : Thermal → Thermal) : (s.updThermal p f).reports = s.reports := rfl
@[simp] theorem State.updThermal_reportQueue (s : State) (p : Nat) (f : Thermal → Thermal) : (s.updThermal p f).reportQueue = s.reportQueue := rfl
@[simp] theorem State.updThermal_vats (s : State) (p : Nat) (f : Thermal → Thermal) : (s.updThermal p f).vats = s.vats := rfl
@[simp] theorem State.updThermal_engQueue (s : State) (p : Nat) (f : Thermal → Thermal) : (s.updThermal p f).engQueue = s.engQueue := rfl
@[simp] theorem State.updThermal_counters (s : State) (p : Nat) (f : Thermal → Thermal) : (s.updThermal p f).counters = s.counters := rfl
@[simp] theorem State.updThermal_heldOps (s : State) (p : Nat) (f : Thermal → Thermal) : (s.updThermal p f).heldOps = s.heldOps := rfl
@[simp] theorem State.updThermal_remoteReply (s : State) (p : Nat) (f : Thermal → Thermal) : (s.updThermal p f).remoteReply = s.remoteReply := rfl
@[simp] theorem State.updThermal_bridge (s : State) (p : Nat) (f : Thermal → Thermal) : (s.updThermal p f).bridge = s.bridge := rfl
@[simp] theorem State.updThermal_streams (s : State) (p : Nat) (f : Thermal → Thermal) : (s.updThermal p f).streams = s.streams := rfl
@[simp] theorem State.updThermal_hubs (s : State) (p : Nat) (f : Thermal → Thermal) : (s.updThermal p f).hubs = s.hubs := rfl
@[simp] theorem State.updThermal_surveys (s : State) (p : Nat) (f : Thermal → Thermal) : (s.updThermal p f).surveys = s.surveys := rfl
@[simp] theorem State.updThermal_gov (s : State) (p : Nat) (f : Thermal → Thermal) : (s.updThermal p f).gov = s.gov := rfl
@[simp] theorem State.updThermal_hostMem (s : State) (p : Nat) (f : Thermal → Thermal) : (s.updThermal p f).hostMem = s.hostMem := rfl

/-! State.updDev -/
@[simp] theorem State.updDev_pending (s : State) (f : Dev → Dev) : (s.updDev f).pending = s.pending := rfl
@[simp] theorem State.updDev_free (s : State) (f : Dev → Dev) : (s.updDev f).free = s.free := rfl
@[simp] theorem State.updDev_otp (s : State) (f : Dev → Dev) : (s.updDev f).otp = s.otp := rfl
@[simp] theorem State.updDev_dev (s : State) (f : Dev → Dev) : (s.updDev f).dev = f s.dev := rfl
@[simp] theorem State.updDev_settings (s : State) (f : Dev → Dev) : (s.updDev f).settings = s.settings := rfl
@[simp] theorem State.updDev_events (s : State) (f : Dev → Dev) : (s.updDev f).events = s.events := rfl
@[simp] theorem State.updDev_mgmt (s : State) (f : Dev → Dev) : (s.updDev f).mgmt = s.mgmt := rfl
@[simp] theorem State.updDev_reports (s : State) (f : Dev → Dev) : (s.updDev f).reports = s.reports := rfl
@[simp] theorem State.updDev_reportQueue (s : State) (f : Dev → Dev) : (s.updDev f).reportQueue = s.reportQueue := rfl
@[simp] theorem State.updDev_vats (s : State) (f : Dev → Dev) : (s.updDev f).vats = s.vats := rfl
@[simp] theorem State.updDev_presses (s : State) (f : Dev → Dev) : (s.updDev f).presses = s.presses := rfl
@[simp] theorem State.updDev_engQueue (s : State) (f : Dev → Dev) : (s.updDev f).engQueue = s.engQueue := rfl
@[simp] theorem State.updDev_counters (s : State) (f : Dev → Dev) : (s.updDev f).counters = s.counters := rfl
@[simp] theorem State.updDev_heldOps (s : State) (f : Dev → Dev) : (s.updDev f).heldOps = s.heldOps := rfl
@[simp] theorem State.updDev_remoteReply (s : State) (f : Dev → Dev) : (s.updDev f).remoteReply = s.remoteReply := rfl
@[simp] theorem State.updDev_bridge (s : State) (f : Dev → Dev) : (s.updDev f).bridge = s.bridge := rfl
@[simp] theorem State.updDev_streams (s : State) (f : Dev → Dev) : (s.updDev f).streams = s.streams := rfl
@[simp] theorem State.updDev_hubs (s : State) (f : Dev → Dev) : (s.updDev f).hubs = s.hubs := rfl
@[simp] theorem State.updDev_surveys (s : State) (f : Dev → Dev) : (s.updDev f).surveys = s.surveys := rfl
@[simp] theorem State.updDev_gov (s : State) (f : Dev → Dev) : (s.updDev f).gov = s.gov := rfl
@[simp] theorem State.updDev_hostMem (s : State) (f : Dev → Dev) : (s.updDev f).hostMem = s.hostMem := rfl

/-! State.updMgmt -/
@[simp] theorem State.updMgmt_pending (s : State) (f : Mgmt → Mgmt) : (s.updMgmt f).pending = s.pending := rfl
@[simp] theorem State.updMgmt_free (s : State) (f : Mgmt → Mgmt) : (s.updMgmt f).free = s.free := rfl
@[simp] theorem State.updMgmt_otp (s : State) (f : Mgmt → Mgmt) : (s.updMgmt f).otp = s.otp := rfl
@[simp] theorem State.updMgmt_dev (s : State) (f : Mgmt → Mgmt) : (s.updMgmt f).dev = s.dev := rfl
@[simp] theorem State.updMgmt_settings (s : State) (f : Mgmt → Mgmt) : (s.updMgmt f).settings = s.settings := rfl
@[simp] theorem State.updMgmt_events (s : State) (f : Mgmt → Mgmt) : (s.updMgmt f).events = s.events := rfl
@[simp] theorem State.updMgmt_mgmt (s : State) (f : Mgmt → Mgmt) : (s.updMgmt f).mgmt = f s.mgmt := rfl
@[simp] theorem State.updMgmt_reports (s : State) (f : Mgmt → Mgmt) : (s.updMgmt f).reports = s.reports := rfl
@[simp] theorem State.updMgmt_reportQueue (s : State) (f : Mgmt → Mgmt) : (s.updMgmt f).reportQueue = s.reportQueue := rfl
@[simp] theorem State.updMgmt_vats (s : State) (f : Mgmt → Mgmt) : (s.updMgmt f).vats = s.vats := rfl
@[simp] theorem State.updMgmt_presses (s : State) (f : Mgmt → Mgmt) : (s.updMgmt f).presses = s.presses := rfl
@[simp] theorem State.updMgmt_engQueue (s : State) (f : Mgmt → Mgmt) : (s.updMgmt f).engQueue = s.engQueue := rfl
@[simp] theorem State.updMgmt_counters (s : State) (f : Mgmt → Mgmt) : (s.updMgmt f).counters = s.counters := rfl
@[simp] theorem State.updMgmt_heldOps (s : State) (f : Mgmt → Mgmt) : (s.updMgmt f).heldOps = s.heldOps := rfl
@[simp] theorem State.updMgmt_remoteReply (s : State) (f : Mgmt → Mgmt) : (s.updMgmt f).remoteReply = s.remoteReply := rfl
@[simp] theorem State.updMgmt_bridge (s : State) (f : Mgmt → Mgmt) : (s.updMgmt f).bridge = s.bridge := rfl
@[simp] theorem State.updMgmt_streams (s : State) (f : Mgmt → Mgmt) : (s.updMgmt f).streams = s.streams := rfl
@[simp] theorem State.updMgmt_hubs (s : State) (f : Mgmt → Mgmt) : (s.updMgmt f).hubs = s.hubs := rfl
@[simp] theorem State.updMgmt_surveys (s : State) (f : Mgmt → Mgmt) : (s.updMgmt f).surveys = s.surveys := rfl
@[simp] theorem State.updMgmt_gov (s : State) (f : Mgmt → Mgmt) : (s.updMgmt f).gov = s.gov := rfl
@[simp] theorem State.updMgmt_hostMem (s : State) (f : Mgmt → Mgmt) : (s.updMgmt f).hostMem = s.hostMem := rfl

/-! State.updBridge -/
@[simp] theorem State.updBridge_pending (s : State) (f : Bridge → Bridge) : (s.updBridge f).pending = s.pending := rfl
@[simp] theorem State.updBridge_free (s : State) (f : Bridge → Bridge) : (s.updBridge f).free = s.free := rfl
@[simp] theorem State.updBridge_otp (s : State) (f : Bridge → Bridge) : (s.updBridge f).otp = s.otp := rfl
@[simp] theorem State.updBridge_dev (s : State) (f : Bridge → Bridge) : (s.updBridge f).dev = s.dev := rfl
@[simp] theorem State.updBridge_settings (s : State) (f : Bridge → Bridge) : (s.updBridge f).settings = s.settings := rfl
@[simp] theorem State.updBridge_events (s : State) (f : Bridge → Bridge) : (s.updBridge f).events = s.events := rfl
@[simp] theorem State.updBridge_mgmt (s : State) (f : Bridge → Bridge) : (s.updBridge f).mgmt = s.mgmt := rfl
@[simp] theorem State.updBridge_reports (s : State) (f : Bridge → Bridge) : (s.updBridge f).reports = s.reports := rfl
@[simp] theorem State.updBridge_reportQueue (s : State) (f : Bridge → Bridge) : (s.updBridge f).reportQueue = s.reportQueue := rfl
@[simp] theorem State.updBridge_vats (s : State) (f : Bridge → Bridge) : (s.updBridge f).vats = s.vats := rfl
@[simp] theorem State.updBridge_presses (s : State) (f : Bridge → Bridge) : (s.updBridge f).presses = s.presses := rfl
@[simp] theorem State.updBridge_engQueue (s : State) (f : Bridge → Bridge) : (s.updBridge f).engQueue = s.engQueue := rfl
@[simp] theorem State.updBridge_counters (s : State) (f : Bridge → Bridge) : (s.updBridge f).counters = s.counters := rfl
@[simp] theorem State.updBridge_heldOps (s : State) (f : Bridge → Bridge) : (s.updBridge f).heldOps = s.heldOps := rfl
@[simp] theorem State.updBridge_remoteReply (s : State) (f : Bridge → Bridge) : (s.updBridge f).remoteReply = s.remoteReply := rfl
@[simp] theorem State.updBridge_bridge (s : State) (f : Bridge → Bridge) : (s.updBridge f).bridge = f s.bridge := rfl
@[simp] theorem State.updBridge_streams (s : State) (f : Bridge → Bridge) : (s.updBridge f).streams = s.streams := rfl
@[simp] theorem State.updBridge_hubs (s : State) (f : Bridge → Bridge) : (s.updBridge f).hubs = s.hubs := rfl
@[simp] theorem State.updBridge_surveys (s : State) (f : Bridge → Bridge) : (s.updBridge f).surveys = s.surveys := rfl
@[simp] theorem State.updBridge_gov (s : State) (f : Bridge → Bridge) : (s.updBridge f).gov = s.gov := rfl
@[simp] theorem State.updBridge_hostMem (s : State) (f : Bridge → Bridge) : (s.updBridge f).hostMem = s.hostMem := rfl

/-! State.updHubs -/
@[simp] theorem State.updHubs_pending (s : State) (f : Hubs → Hubs) : (s.updHubs f).pending = s.pending := rfl
@[simp] theorem State.updHubs_free (s : State) (f : Hubs → Hubs) : (s.updHubs f).free = s.free := rfl
@[simp] theorem State.updHubs_otp (s : State) (f : Hubs → Hubs) : (s.updHubs f).otp = s.otp := rfl
@[simp] theorem State.updHubs_dev (s : State) (f : Hubs → Hubs) : (s.updHubs f).dev = s.dev := rfl
@[simp] theorem State.updHubs_settings (s : State) (f : Hubs → Hubs) : (s.updHubs f).settings = s.settings := rfl
@[simp] theorem State.updHubs_events (s : State) (f : Hubs → Hubs) : (s.updHubs f).events = s.events := rfl
@[simp] theorem State.updHubs_mgmt (s : State) (f : Hubs → Hubs) : (s.updHubs f).mgmt = s.mgmt := rfl
@[simp] theorem State.updHubs_reports (s : State) (f : Hubs → Hubs) : (s.updHubs f).reports = s.reports := rfl
@[simp] theorem State.updHubs_reportQueue (s : State) (f : Hubs → Hubs) : (s.updHubs f).reportQueue = s.reportQueue := rfl
@[simp] theorem State.updHubs_vats (s : State) (f : Hubs → Hubs) : (s.updHubs f).vats = s.vats := rfl
@[simp] theorem State.updHubs_presses (s : State) (f : Hubs → Hubs) : (s.updHubs f).presses = s.presses := rfl
@[simp] theorem State.updHubs_engQueue (s : State) (f : Hubs → Hubs) : (s.updHubs f).engQueue = s.engQueue := rfl
@[simp] theorem State.updHubs_counters (s : State) (f : Hubs → Hubs) : (s.updHubs f).counters = s.counters := rfl
@[simp] theorem State.updHubs_heldOps (s : State) (f : Hubs → Hubs) : (s.updHubs f).heldOps = s.heldOps := rfl
@[simp] theorem State.updHubs_remoteReply (s : State) (f : Hubs → Hubs) : (s.updHubs f).remoteReply = s.remoteReply := rfl
@[simp] theorem State.updHubs_bridge (s : State) (f : Hubs → Hubs) : (s.updHubs f).bridge = s.bridge := rfl
@[simp] theorem State.updHubs_streams (s : State) (f : Hubs → Hubs) : (s.updHubs f).streams = s.streams := rfl
@[simp] theorem State.updHubs_hubs (s : State) (f : Hubs → Hubs) : (s.updHubs f).hubs = f s.hubs := rfl
@[simp] theorem State.updHubs_surveys (s : State) (f : Hubs → Hubs) : (s.updHubs f).surveys = s.surveys := rfl
@[simp] theorem State.updHubs_gov (s : State) (f : Hubs → Hubs) : (s.updHubs f).gov = s.gov := rfl
@[simp] theorem State.updHubs_hostMem (s : State) (f : Hubs → Hubs) : (s.updHubs f).hostMem = s.hostMem := rfl

/-! State.updEvents -/
@[simp] theorem State.updEvents_pending (s : State) (f : Events → Events) : (s.updEvents f).pending = s.pending := rfl
@[simp] theorem State.updEvents_free (s : State) (f : Events → Events) : (s.updEvents f).free = s.free := rfl
@[simp] theorem State.updEvents_otp (s : State) (f : Events → Events) : (s.updEvents f).otp = s.otp := rfl
@[simp] theorem State.updEvents_dev (s : State) (f : Events → Events) : (s.updEvents f).dev = s.dev := rfl
@[simp] theorem State.updEvents_settings (s : State) (f : Events → Events) : (s.updEvents f).settings = s.settings := rfl
@[simp] theorem State.updEvents_events (s : State) (f : Events → Events) : (s.updEvents f).events = f s.events := rfl
@[simp] theorem State.updEvents_mgmt (s : State) (f : Events → Events) : (s.updEvents f).mgmt = s.mgmt := rfl
@[simp] theorem State.updEvents_reports (s : State) (f : Events → Events) : (s.updEvents f).reports = s.reports := rfl
@[simp] theorem State.updEvents_reportQueue (s : State) (f : Events → Events) : (s.updEvents f).reportQueue = s.reportQueue := rfl
@[simp] theorem State.updEvents_vats (s : State) (f : Events → Events) : (s.updEvents f).vats = s.vats := rfl
@[simp] theorem State.updEvents_presses (s : State) (f : Events → Events) : (s.updEvents f).presses = s.presses := rfl
@[simp] theorem State.updEvents_engQueue (s : State) (f : Events → Events) : (s.updEvents f).engQueue = s.engQueue := rfl
@[simp] theorem State.updEvents_counters (s : State) (f : Events → Events) : (s.updEvents f).counters = s.counters := rfl
@[simp] theorem State.updEvents_heldOps (s : State) (f : Events → Events) : (s.updEvents f).heldOps = s.heldOps := rfl
@[simp] theorem State.updEvents_remoteReply (s : State) (f : Events → Events) : (s.updEvents f).remoteReply = s.remoteReply := rfl
@[simp] theorem State.updEvents_bridge (s : State) (f : Events → Events) : (s.updEvents f).bridge = s.bridge := rfl
@[simp] theorem State.updEvents_streams (s : State) (f : Events → Events) : (s.updEvents f).streams = s.streams := rfl
@[simp] theorem State.updEvents_hubs (s : State) (f : Events → Events) : (s.updEvents f).hubs = s.hubs := rfl
@[simp] theorem State.updEvents_surveys (s : State) (f : Events → Events) : (s.updEvents f).surveys = s.surveys := rfl
@[simp] theorem State.updEvents_gov (s : State) (f : Events → Events) : (s.updEvents f).gov = s.gov := rfl
@[simp] theorem State.updEvents_hostMem (s : State) (f : Events → Events) : (s.updEvents f).hostMem = s.hostMem := rfl

/-! State.updSettings -/
@[simp] theorem State.updSettings_pending (s : State) (f : Settings → Settings) : (s.updSettings f).pending = s.pending := rfl
@[simp] theorem State.updSettings_free (s : State) (f : Settings → Settings) : (s.updSettings f).free = s.free := rfl
@[simp] theorem State.updSettings_otp (s : State) (f : Settings → Settings) : (s.updSettings f).otp = s.otp := rfl
@[simp] theorem State.updSettings_dev (s : State) (f : Settings → Settings) : (s.updSettings f).dev = s.dev := rfl
@[simp] theorem State.updSettings_settings (s : State) (f : Settings → Settings) : (s.updSettings f).settings = f s.settings := rfl
@[simp] theorem State.updSettings_events (s : State) (f : Settings → Settings) : (s.updSettings f).events = s.events := rfl
@[simp] theorem State.updSettings_mgmt (s : State) (f : Settings → Settings) : (s.updSettings f).mgmt = s.mgmt := rfl
@[simp] theorem State.updSettings_reports (s : State) (f : Settings → Settings) : (s.updSettings f).reports = s.reports := rfl
@[simp] theorem State.updSettings_reportQueue (s : State) (f : Settings → Settings) : (s.updSettings f).reportQueue = s.reportQueue := rfl
@[simp] theorem State.updSettings_vats (s : State) (f : Settings → Settings) : (s.updSettings f).vats = s.vats := rfl
@[simp] theorem State.updSettings_presses (s : State) (f : Settings → Settings) : (s.updSettings f).presses = s.presses := rfl
@[simp] theorem State.updSettings_engQueue (s : State) (f : Settings → Settings) : (s.updSettings f).engQueue = s.engQueue := rfl
@[simp] theorem State.updSettings_counters (s : State) (f : Settings → Settings) : (s.updSettings f).counters = s.counters := rfl
@[simp] theorem State.updSettings_heldOps (s : State) (f : Settings → Settings) : (s.updSettings f).heldOps = s.heldOps := rfl
@[simp] theorem State.updSettings_remoteReply (s : State) (f : Settings → Settings) : (s.updSettings f).remoteReply = s.remoteReply := rfl
@[simp] theorem State.updSettings_bridge (s : State) (f : Settings → Settings) : (s.updSettings f).bridge = s.bridge := rfl
@[simp] theorem State.updSettings_streams (s : State) (f : Settings → Settings) : (s.updSettings f).streams = s.streams := rfl
@[simp] theorem State.updSettings_hubs (s : State) (f : Settings → Settings) : (s.updSettings f).hubs = s.hubs := rfl
@[simp] theorem State.updSettings_surveys (s : State) (f : Settings → Settings) : (s.updSettings f).surveys = s.surveys := rfl
@[simp] theorem State.updSettings_gov (s : State) (f : Settings → Settings) : (s.updSettings f).gov = s.gov := rfl
@[simp] theorem State.updSettings_hostMem (s : State) (f : Settings → Settings) : (s.updSettings f).hostMem = s.hostMem := rfl

/-! State.updGov -/
@[simp] theorem State.updGov_pending (s : State) (f : Gov → Gov) : (s.updGov f).pending = s.pending := rfl
@[simp] theorem State.updGov_free (s : State) (f : Gov → Gov) : (s.updGov f).free = s.free := rfl
@[simp] theorem State.updGov_otp (s : State) (f : Gov → Gov) : (s.updGov f).otp = s.otp := rfl
@[simp] theorem State.updGov_dev (s : State) (f : Gov → Gov) : (s.updGov f).dev = s.dev := rfl
@[simp] theorem State.updGov_settings (s : State) (f : Gov → Gov) : (s.updGov f).settings = s.settings := rfl
@[simp] theorem State.updGov_events (s : State) (f : Gov → Gov) : (s.updGov f).events = s.events := rfl
@[simp] theorem State.updGov_mgmt (s : State) (f : Gov → Gov) : (s.updGov f).mgmt = s.mgmt := rfl
@[simp] theorem State.updGov_reports (s : State) (f : Gov → Gov) : (s.updGov f).reports = s.reports := rfl
@[simp] theorem State.updGov_reportQueue (s : State) (f : Gov → Gov) : (s.updGov f).reportQueue = s.reportQueue := rfl
@[simp] theorem State.updGov_vats (s : State) (f : Gov → Gov) : (s.updGov f).vats = s.vats := rfl
@[simp] theorem State.updGov_presses (s : State) (f : Gov → Gov) : (s.updGov f).presses = s.presses := rfl
@[simp] theorem State.updGov_engQueue (s : State) (f : Gov → Gov) : (s.updGov f).engQueue = s.engQueue := rfl
@[simp] theorem State.updGov_counters (s : State) (f : Gov → Gov) : (s.updGov f).counters = s.counters := rfl
@[simp] theorem State.updGov_heldOps (s : State) (f : Gov → Gov) : (s.updGov f).heldOps = s.heldOps := rfl
@[simp] theorem State.updGov_remoteReply (s : State) (f : Gov → Gov) : (s.updGov f).remoteReply = s.remoteReply := rfl
@[simp] theorem State.updGov_bridge (s : State) (f : Gov → Gov) : (s.updGov f).bridge = s.bridge := rfl
@[simp] theorem State.updGov_streams (s : State) (f : Gov → Gov) : (s.updGov f).streams = s.streams := rfl
@[simp] theorem State.updGov_hubs (s : State) (f : Gov → Gov) : (s.updGov f).hubs = s.hubs := rfl
@[simp] theorem State.updGov_surveys (s : State) (f : Gov → Gov) : (s.updGov f).surveys = s.surveys := rfl
@[simp] theorem State.updGov_gov (s : State) (f : Gov → Gov) : (s.updGov f).gov = f s.gov := rfl
@[simp] theorem State.updGov_hostMem (s : State) (f : Gov → Gov) : (s.updGov f).hostMem = s.hostMem := rfl

/-! State.hostWrite -/
@[simp] theorem State.hostWrite_pending (s : State) (a : Nat) (bs : List Byte) : (s.hostWrite a bs).pending = s.pending := rfl
@[simp] theorem State.hostWrite_free (s : State) (a : Nat) (bs : List Byte) : (s.hostWrite a bs).free = s.free := rfl
@[simp] theorem State.hostWrite_otp (s : State) (a : Nat) (bs : List Byte) : (s.hostWrite a bs).otp = s.otp := rfl
@[simp] theorem State.hostWrite_dev (s : State) (a : Nat) (bs : List Byte) : (s.hostWrite a bs).dev = s.dev := rfl
@[simp] theorem State.hostWrite_settings (s : State) (a : Nat) (bs : List Byte) : (s.hostWrite a bs).settings = s.settings := rfl
@[simp] theorem State.hostWrite_events (s : State) (a : Nat) (bs : List Byte) : (s.hostWrite a bs).events = s.events := rfl
@[simp] theorem State.hostWrite_mgmt (s : State) (a : Nat) (bs : List Byte) : (s.hostWrite a bs).mgmt = s.mgmt := rfl
@[simp] theorem State.hostWrite_reports (s : State) (a : Nat) (bs : List Byte) : (s.hostWrite a bs).reports = s.reports := rfl
@[simp] theorem State.hostWrite_reportQueue (s : State) (a : Nat) (bs : List Byte) : (s.hostWrite a bs).reportQueue = s.reportQueue := rfl
@[simp] theorem State.hostWrite_vats (s : State) (a : Nat) (bs : List Byte) : (s.hostWrite a bs).vats = s.vats := rfl
@[simp] theorem State.hostWrite_presses (s : State) (a : Nat) (bs : List Byte) : (s.hostWrite a bs).presses = s.presses := rfl
@[simp] theorem State.hostWrite_engQueue (s : State) (a : Nat) (bs : List Byte) : (s.hostWrite a bs).engQueue = s.engQueue := rfl
@[simp] theorem State.hostWrite_counters (s : State) (a : Nat) (bs : List Byte) : (s.hostWrite a bs).counters = s.counters := rfl
@[simp] theorem State.hostWrite_heldOps (s : State) (a : Nat) (bs : List Byte) : (s.hostWrite a bs).heldOps = s.heldOps := rfl
@[simp] theorem State.hostWrite_remoteReply (s : State) (a : Nat) (bs : List Byte) : (s.hostWrite a bs).remoteReply = s.remoteReply := rfl
@[simp] theorem State.hostWrite_bridge (s : State) (a : Nat) (bs : List Byte) : (s.hostWrite a bs).bridge = s.bridge := rfl
@[simp] theorem State.hostWrite_streams (s : State) (a : Nat) (bs : List Byte) : (s.hostWrite a bs).streams = s.streams := rfl
@[simp] theorem State.hostWrite_hubs (s : State) (a : Nat) (bs : List Byte) : (s.hostWrite a bs).hubs = s.hubs := rfl
@[simp] theorem State.hostWrite_surveys (s : State) (a : Nat) (bs : List Byte) : (s.hostWrite a bs).surveys = s.surveys := rfl
@[simp] theorem State.hostWrite_gov (s : State) (a : Nat) (bs : List Byte) : (s.hostWrite a bs).gov = s.gov := rfl
@[simp] theorem State.hostWrite_hostMem (s : State) (a : Nat) (bs : List Byte) : (s.hostWrite a bs).hostMem = tputL 0 s.hostMem a bs := rfl

/-! State.hostBytes -/
@[simp] theorem State.hostBytes_pending (s : State) (w : List (Nat × Byte)) : (s.hostBytes w).pending = s.pending := rfl
@[simp] theorem State.hostBytes_free (s : State) (w : List (Nat × Byte)) : (s.hostBytes w).free = s.free := rfl
@[simp] theorem State.hostBytes_otp (s : State) (w : List (Nat × Byte)) : (s.hostBytes w).otp = s.otp := rfl
@[simp] theorem State.hostBytes_dev (s : State) (w : List (Nat × Byte)) : (s.hostBytes w).dev = s.dev := rfl
@[simp] theorem State.hostBytes_settings (s : State) (w : List (Nat × Byte)) : (s.hostBytes w).settings = s.settings := rfl
@[simp] theorem State.hostBytes_events (s : State) (w : List (Nat × Byte)) : (s.hostBytes w).events = s.events := rfl
@[simp] theorem State.hostBytes_mgmt (s : State) (w : List (Nat × Byte)) : (s.hostBytes w).mgmt = s.mgmt := rfl
@[simp] theorem State.hostBytes_reports (s : State) (w : List (Nat × Byte)) : (s.hostBytes w).reports = s.reports := rfl
@[simp] theorem State.hostBytes_reportQueue (s : State) (w : List (Nat × Byte)) : (s.hostBytes w).reportQueue = s.reportQueue := rfl
@[simp] theorem State.hostBytes_vats (s : State) (w : List (Nat × Byte)) : (s.hostBytes w).vats = s.vats := rfl
@[simp] theorem State.hostBytes_presses (s : State) (w : List (Nat × Byte)) : (s.hostBytes w).presses = s.presses := rfl
@[simp] theorem State.hostBytes_engQueue (s : State) (w : List (Nat × Byte)) : (s.hostBytes w).engQueue = s.engQueue := rfl
@[simp] theorem State.hostBytes_counters (s : State) (w : List (Nat × Byte)) : (s.hostBytes w).counters = s.counters := rfl
@[simp] theorem State.hostBytes_heldOps (s : State) (w : List (Nat × Byte)) : (s.hostBytes w).heldOps = s.heldOps := rfl
@[simp] theorem State.hostBytes_remoteReply (s : State) (w : List (Nat × Byte)) : (s.hostBytes w).remoteReply = s.remoteReply := rfl
@[simp] theorem State.hostBytes_bridge (s : State) (w : List (Nat × Byte)) : (s.hostBytes w).bridge = s.bridge := rfl
@[simp] theorem State.hostBytes_streams (s : State) (w : List (Nat × Byte)) : (s.hostBytes w).streams = s.streams := rfl
@[simp] theorem State.hostBytes_hubs (s : State) (w : List (Nat × Byte)) : (s.hostBytes w).hubs = s.hubs := rfl
@[simp] theorem State.hostBytes_surveys (s : State) (w : List (Nat × Byte)) : (s.hostBytes w).surveys = s.surveys := rfl
@[simp] theorem State.hostBytes_gov (s : State) (w : List (Nat × Byte)) : (s.hostBytes w).gov = s.gov := rfl

/-! State.answer -/
@[simp] theorem State.answer_pending (s : State) (r : Byte) : (s.answer r).pending = s.pending := rfl
@[simp] theorem State.answer_free (s : State) (r : Byte) : (s.answer r).free = s.free := rfl
@[simp] theorem State.answer_otp (s : State) (r : Byte) : (s.answer r).otp = s.otp := rfl
@[simp] theorem State.answer_dev (s : State) (r : Byte) : (s.answer r).dev = s.dev := rfl
@[simp] theorem State.answer_settings (s : State) (r : Byte) : (s.answer r).settings = s.settings := rfl
@[simp] theorem State.answer_events (s : State) (r : Byte) : (s.answer r).events = s.events := rfl
@[simp] theorem State.answer_reports (s : State) (r : Byte) : (s.answer r).reports = s.reports := rfl
@[simp] theorem State.answer_reportQueue (s : State) (r : Byte) : (s.answer r).reportQueue = s.reportQueue := rfl
@[simp] theorem State.answer_vats (s : State) (r : Byte) : (s.answer r).vats = s.vats := rfl
@[simp] theorem State.answer_presses (s : State) (r : Byte) : (s.answer r).presses = s.presses := rfl
@[simp] theorem State.answer_engQueue (s : State) (r : Byte) : (s.answer r).engQueue = s.engQueue := rfl
@[simp] theorem State.answer_counters (s : State) (r : Byte) : (s.answer r).counters = s.counters := rfl
@[simp] theorem State.answer_heldOps (s : State) (r : Byte) : (s.answer r).heldOps = s.heldOps := rfl
@[simp] theorem State.answer_remoteReply (s : State) (r : Byte) : (s.answer r).remoteReply = s.remoteReply := rfl
@[simp] theorem State.answer_bridge (s : State) (r : Byte) : (s.answer r).bridge = s.bridge := rfl
@[simp] theorem State.answer_streams (s : State) (r : Byte) : (s.answer r).streams = s.streams := rfl
@[simp] theorem State.answer_hubs (s : State) (r : Byte) : (s.answer r).hubs = s.hubs := rfl
@[simp] theorem State.answer_surveys (s : State) (r : Byte) : (s.answer r).surveys = s.surveys := rfl
@[simp] theorem State.answer_gov (s : State) (r : Byte) : (s.answer r).gov = s.gov := rfl
@[simp] theorem State.answer_hostMem (s : State) (r : Byte) : (s.answer r).hostMem = s.hostMem := rfl

end Sys2Proof.Machine
end

