-- ==== Sys2Proof/Laws/Tables.lean ====
section
/-! SUPPORT. Laws/Tables.lean: read after write of sparse tables, their canonical form, and both for host memory. -/

namespace Sys2Proof.Machine

variable {α : Type} [DecidableEq α] {d : α}

theorem twfFrom_mono {m : Tab α} {a b : Nat} (h : twfFrom d b m = true) (hab : a ≤ b) : twfFrom d a m = true := by
  cases m with
  | nil => rfl
  | cons x r =>
    obtain ⟨j, v⟩ := x
    simp only [twfFrom, Bool.and_eq_true, decide_eq_true_eq] at h ⊢
    exact ⟨⟨Nat.le_trans hab h.1.1, h.1.2⟩, h.2⟩

theorem tdel_wfFrom {m : Tab α} {lo k : Nat} (h : twfFrom d lo m = true) : twfFrom d lo (tdel m k) = true := by
  induction m generalizing lo with
  | nil => rfl
  | cons x r ih =>
    obtain ⟨j, v⟩ := x
    simp only [twfFrom, Bool.and_eq_true, decide_eq_true_eq] at h
    obtain ⟨⟨h1, h2⟩, h3⟩ := h
    simp only [tdel]
    split
    · exact twfFrom_mono (ih h3) (by omega)
    · simp only [twfFrom, Bool.and_eq_true, decide_eq_true_eq]
      exact ⟨⟨h1, h2⟩, ih h3⟩

theorem tput_wfFrom {m : Tab α} {lo k : Nat} {v : α} (h : twfFrom d lo m = true) (hk : lo ≤ k) :
    twfFrom d lo (tput d m k v) = true := by
  induction m generalizing lo with
  | nil =>
    simp only [tput]; split
    · rfl
    · simp_all [twfFrom]
  | cons x r ih =>
    obtain ⟨j, w⟩ := x
    simp only [twfFrom, Bool.and_eq_true, decide_eq_true_eq] at h
    obtain ⟨⟨h1, h2⟩, h3⟩ := h
    simp only [tput]
    split
    · rename_i hkj
      split
      · simp only [twfFrom, Bool.and_eq_true, decide_eq_true_eq]
        exact ⟨⟨h1, h2⟩, tdel_wfFrom h3⟩
      · simp only [twfFrom, Bool.and_eq_true, decide_eq_true_eq]
        exact ⟨⟨hk, by simpa using ‹¬ v = d›⟩, ⟨⟨by omega, h2⟩, h3⟩⟩
    · split
      · rename_i hjk; subst hjk
        split
        · exact twfFrom_mono (tdel_wfFrom h3) (by omega)
        · simp only [twfFrom, Bool.and_eq_true, decide_eq_true_eq]
          exact ⟨⟨h1, by simpa using ‹¬ v = d›⟩, h3⟩
      · simp only [twfFrom, Bool.and_eq_true, decide_eq_true_eq]
        exact ⟨⟨h1, h2⟩, ih h3 (by omega)⟩

/-- A write keeps the canonical form. -/
theorem tput_wf {m : Tab α} {k : Nat} {v : α} (h : twf d m = true) : twf d (tput d m k v) = true :=
  tput_wfFrom h (Nat.zero_le k)

theorem tmod_wf {m : Tab α} {k : Nat} {f : α → α} (h : twf d m = true) : twf d (tmod d m k f) = true := tput_wf h

/-- A write of several values keeps the canonical form. -/
theorem tputL_wf {m : Tab α} {k : Nat} {vs : List α} (h : twf d m = true) : twf d (tputL d m k vs) = true := by
  induction vs generalizing m k with
  | nil => exact h
  | cons v vs ih => exact ih (tput_wf h)

omit [DecidableEq α] in
theorem tget_tdel (m : Tab α) (k i : Nat) : tget d (tdel m k) i = if i = k then d else tget d m i := by
  induction m with
  | nil => simp [tdel, tget]
  | cons x r ih =>
    obtain ⟨j, w⟩ := x
    by_cases hjk : j = k
    · subst hjk
      by_cases hij : i = j
      · subst hij; simpa [tdel] using ih
      · simp [tdel, ih, hij, tget, Ne.symm hij]
    · by_cases hji : j = i
      · subst hji; simp [tdel, hjk, tget]
      · simp [tdel, hjk, tget, hji, ih]

/-- Read after write. -/
theorem tget_tput (m : Tab α) (k i : Nat) (v : α) : tget d (tput d m k v) i = if i = k then v else tget d m i := by
  induction m with
  | nil =>
    by_cases hv : v = d
    · simp [tput, hv, tget]
    · by_cases hik : i = k
      · simp [tput, hv, tget, hik]
      · simp [tput, hv, tget, hik, Ne.symm hik]
  | cons x r ih =>
    obtain ⟨j, w⟩ := x
    by_cases hkj : k < j
    · by_cases hv : v = d
      · by_cases hik : i = k
        · subst hik
          have hji : j ≠ i := by omega
          simp [tput, hkj, hv, tget, hji, tget_tdel]
        · simp [tput, hkj, hv, tget, hik, tget_tdel]
      · by_cases hik : i = k
        · simp [tput, hkj, hv, tget, hik]
        · simp [tput, hkj, hv, tget, hik, Ne.symm hik]
    · by_cases hjk : j = k
      · subst hjk
        by_cases hv : v = d
        · by_cases hik : i = j
          · simp [tput, hv, tget_tdel, hik]
          · simp [tput, hv, tget_tdel, hik, tget, Ne.symm hik]
        · by_cases hik : i = j
          · simp [tput, hv, tget, hik]
          · simp [tput, hv, tget, hik, Ne.symm hik]
      · by_cases hji : j = i
        · subst hji; simp [tput, hkj, hjk, tget]
        · simp [tput, hkj, hjk, tget, hji, ih]

/-- A write leaves every other place alone. -/
theorem tget_tput_ne (m : Tab α) (k i : Nat) (v : α) (hi : i ≠ k) : tget d (tput d m k v) i = tget d m i := by
  simp [tget_tput, hi]

/-- What has been written is read. -/
@[simp] theorem tget_tput_self (m : Tab α) (k : Nat) (v : α) : tget d (tput d m k v) k = v := by simp [tget_tput]

/-- A write of several values leaves the places outside it alone. -/
theorem tget_tputL_out (vs : List α) (m : Tab α) (k i : Nat) (hi : i < k ∨ k + vs.length ≤ i) :
    tget d (tputL d m k vs) i = tget d m i := by
  induction vs generalizing m k with
  | nil => rfl
  | cons v vs ih =>
    simp only [tputL, List.length_cons] at hi ⊢
    rw [ih _ _ (by omega), tget_tput_ne _ _ _ _ (by omega)]

/-- A write of several values, read back at one place. -/
theorem tget_tputL_in (vs : List α) (m : Tab α) (k i : Nat) (hi : i < vs.length) :
    tget d (tputL d m k vs) (k + i) = vs.getD i d := by
  induction vs generalizing m k i with
  | nil => simp at hi
  | cons v vs ih =>
    simp only [tputL]
    cases i with
    | zero => rw [tget_tputL_out _ _ _ _ (by omega), Nat.add_zero, tget_tput]; simp
    | succ i =>
      have e : k + (i + 1) = k + 1 + i := by omega
      rw [e, ih _ _ _ (by simpa using hi)]
      simp

/-- A table without a range of its keys is in canonical form when the table was. -/
theorem tcut_wfFrom {m : Tab α} {at' lo hi : Nat} (h : twfFrom d at' m = true) : twfFrom d at' (tcut m lo hi) = true := by
  induction m generalizing at' with
  | nil => rfl
  | cons x r ih =>
    obtain ⟨j, v⟩ := x
    simp only [twfFrom, Bool.and_eq_true, decide_eq_true_eq] at h
    obtain ⟨⟨h1, h2⟩, h3⟩ := h
    simp only [tcut, List.filter_cons]
    split
    · simp only [twfFrom, Bool.and_eq_true, decide_eq_true_eq]
      exact ⟨⟨h1, h2⟩, ih h3⟩
    · exact twfFrom_mono (ih h3) (by omega)

theorem tcut_wf {m : Tab α} {lo hi : Nat} (h : twf d m = true) : twf d (tcut m lo hi) = true := tcut_wfFrom h

/-- f of every listed entry keeps the canonical form. -/
theorem tmap_wfFrom {m : Tab α} {lo : Nat} {f : Nat → α → α} (h : twfFrom d lo m = true) :
    twfFrom d lo (tmap d f m) = true := by
  induction m generalizing lo with
  | nil => rfl
  | cons x r ih =>
    obtain ⟨j, v⟩ := x
    simp only [twfFrom, Bool.and_eq_true, decide_eq_true_eq] at h
    obtain ⟨⟨h1, h2⟩, h3⟩ := h
    simp only [tmap]
    split
    · exact twfFrom_mono (tdel_wfFrom (ih h3)) (by omega)
    · simp_all [twfFrom]

/-- Every place holds f of what it held, when f keeps the default. -/
theorem tget_tmap (m : Tab α) (f : Nat → α → α) (i : Nat) (hf : f i d = d) :
    tget d (tmap d f m) i = f i (tget d m i) := by
  induction m with
  | nil => exact hf.symm
  | cons x r ih =>
    obtain ⟨j, v⟩ := x
    by_cases hji : j = i
    · subst hji
      by_cases hv : f j v = d
      · simp [tmap, hv, tget_tdel, tget]
      · simp [tmap, hv, tget]
    · by_cases hv : f j v = d
      · simp [tmap, hv, tget_tdel, tget, hji, Ne.symm hji, ih]
      · simp [tmap, hv, tget, hji, ih]

omit [DecidableEq α] in
/-- A cut leaves the places outside it alone. -/
theorem tget_tcut (m : Tab α) (lo hi i : Nat) :
    tget d (tcut m lo hi) i = if lo ≤ i ∧ i < hi then d else tget d m i := by
  induction m with
  | nil => simp [tcut, tget]
  | cons x r ih =>
    obtain ⟨j, v⟩ := x
    by_cases hj : j < lo ∨ hi ≤ j
    · by_cases hji : j = i
      · subst hji
        have : ¬ (lo ≤ j ∧ j < hi) := by omega
        simp [tcut, hj, tget, this]
      · simpa [tcut, hj, tget, hji] using ih
    · by_cases hji : j = i
      · subst hji
        have h' : lo ≤ j ∧ j < hi := by omega
        have := ih
        simp only [h', and_self, ite_true] at this
        simpa [tcut, hj, h'] using this
      · simpa [tcut, hj, tget, hji] using ih

/-! ## Host memory -/

/-- Bytes that host software wrote keep the canonical form. -/
theorem hostBytes_wf {s : State} {w : List (Nat × Byte)} (h : twf (0 : Byte) s.hostMem = true) :
    twf (0 : Byte) (s.hostBytes w).hostMem = true := by
  simp only [State.hostBytes]
  revert h
  generalize s.hostMem = m
  intro h
  induction w generalizing m with
  | nil => exact h
  | cons e r ih => exact ih _ (tput_wf h)

/-- A write of the device to host memory keeps the canonical form. -/
theorem hostWrite_wf {s : State} {a : Nat} {bs : List Byte} (h : twf (0 : Byte) s.hostMem = true) :
    twf (0 : Byte) (s.hostWrite a bs).hostMem = true := tputL_wf h

/-! ## Parts of the state read back -/

@[simp] theorem State.press_setPress (s : State) (p i : Nat) (r : PressRec) :
    (s.setPress p r).press i = if i = p then r else s.press i := tget_tput _ _ _ _
@[simp] theorem State.press_updPress (s : State) (p i : Nat) (g : PressRec → PressRec) :
    (s.updPress p g).press i = if i = p then g (s.press p) else s.press i := tget_tput _ _ _ _

@[simp] theorem State.vat_setVat (s : State) (v i : Nat) (r : VatRec) :
    (s.setVat v r).vat i = if i = v then r else s.vat i := tget_tput _ _ _ _
@[simp] theorem State.vat_updVat (s : State) (v i : Nat) (g : VatRec → VatRec) :
    (s.updVat v g).vat i = if i = v then g (s.vat v) else s.vat i := tget_tput _ _ _ _

@[simp] theorem State.stream_setStream (s : State) (k i : Nat) (r : Stream) :
    (s.setStream k r).stream i = if i = k then r else s.stream i := tget_tput _ _ _ _
@[simp] theorem State.stream_updStream (s : State) (k i : Nat) (g : Stream → Stream) :
    (s.updStream k g).stream i = if i = k then g (s.stream k) else s.stream i := tget_tput _ _ _ _

@[simp] theorem State.fn_setFn (s : State) (f i : Nat) (r : FnRec) :
    (s.setFn f r).fn i = if i = f then r else s.fn i := tget_tput _ _ _ _
@[simp] theorem State.fn_updFn (s : State) (f i : Nat) (g : FnRec → FnRec) :
    (s.updFn f g).fn i = if i = f then g (s.fn f) else s.fn i := tget_tput _ _ _ _

@[simp] theorem State.counter_setCounter (s : State) (c i : Nat) (r : Counter) :
    (s.setCounter c r).counter i = if i = c then r else s.counter i := tget_tput _ _ _ _
@[simp] theorem State.counter_updCounter (s : State) (c i : Nat) (g : Counter → Counter) :
    (s.updCounter c g).counter i = if i = c then g (s.counter c) else s.counter i := tget_tput _ _ _ _

@[simp] theorem State.survey_updSurvey (s : State) (c i : Nat) (g : Survey → Survey) :
    (s.updSurvey c g).survey i = if i = c then g (s.survey c) else s.survey i := tget_tput _ _ _ _

@[simp] theorem State.report_updReport (s : State) (k i : Nat) (g : Report → Report) :
    (s.updReport k g).report i = if i = k then g (s.report k) else s.report i := tget_tput _ _ _ _

@[simp] theorem PressRec.plate_updPlate (r : PressRec) (q i : Nat) (g : PlateRec → PlateRec) :
    (r.updPlate q g).plate i = if i = q then g (r.plate q) else r.plate i := tget_tput _ _ _ _

@[simp] theorem PressRec.bank_updBank (r : PressRec) (b i : Nat) (g : Bank → Bank) :
    (r.updBank b g).bank i = if i = b then g (r.bank b) else r.bank i := tget_tput _ _ _ _

@[simp] theorem PressRec.macro_updMacro (r : PressRec) (m i : Nat) (g : MacroRec → MacroRec) :
    (r.updMacro m g).macro' i = if i = m then g (r.macro' m) else r.macro' i := tget_tput _ _ _ _

@[simp] theorem PressRec.slot_setSlot (r : PressRec) (k i : Nat) (j : Option Job) :
    (r.setSlot k j).slot i = if i = k then j else r.slot i := tget_tput _ _ _ _

end Sys2Proof.Machine
end

