-- ==== Sys2Proof/Laws/Ops.lean ====
section
/-! SUPPORT. Laws/Ops.lean: what the shared operations can do, said once: reading a part of the state after it was
written, loops, events, messages, work counters, exact counts, package memory, and how a job ends. -/

namespace Sys2Proof.Machine

/-! ## Parts read after they were written -/

/-- A change of one job changes one slot of one press. -/
theorem State.slot_updJob (s : State) (p k q i : Nat) (f : Job → Job) :
    ((s.updJob p k f).press q).slot i =
      if q = p ∧ i = k then ((s.press p).slot k).map f else (s.press q).slot i := by
  simp only [State.updJob, State.press_updPress]
  by_cases hq : q = p
  · subst hq
    by_cases hi : i = k
    · simp [hi, PressRec.slot_setSlot]
    · simp [hi, PressRec.slot_setSlot]
  · simp [hq]

/-! ## Loops -/

/-- What every turn of a loop keeps, the loop keeps. -/
theorem forL_keep {α β : Type} (g : State → β) (l : List α) (f : α → State → State)
    (h : ∀ x ∈ l, ∀ t, g (f x t) = g t) (s : State) : g (forL l f s) = g s := by
  induction l generalizing s with
  | nil => rfl
  | cons x r ih =>
    show g (forL r f (f x s)) = g s
    rw [ih (fun y hy => h y (List.mem_cons_of_mem _ hy)), h x List.mem_cons_self]

/-- What every turn of a loop over numbers keeps, the loop keeps. -/
theorem forN_keep {β : Type} (g : State → β) (n : Nat) (f : Nat → State → State)
    (h : ∀ i, i < n → ∀ t, g (f i t) = g t) (s : State) : g (forN n f s) = g s :=
  forL_keep g (List.range n) f (fun i hi => h i (List.mem_range.mp hi)) s

/-- An invariant of every turn of a loop is one of the loop. -/
theorem forL_inv {α : Type} (P : State → Prop) (l : List α) (f : α → State → State)
    (h : ∀ x ∈ l, ∀ t, P t → P (f x t)) (s : State) (hs : P s) : P (forL l f s) := by
  induction l generalizing s with
  | nil => exact hs
  | cons x r ih =>
    exact ih (fun y hy => h y (List.mem_cons_of_mem _ hy)) (f x s) (h x List.mem_cons_self s hs)

theorem forN_inv (P : State → Prop) (n : Nat) (f : Nat → State → State)
    (h : ∀ i, i < n → ∀ t, P t → P (f i t)) (s : State) (hs : P s) : P (forN n f s) :=
  forL_inv P (List.range n) f (fun i hi => h i (List.mem_range.mp hi)) s hs

/-! ## Events and messages -/

/-- Raising an event changes nothing but the events. -/
theorem raise_frame (code : BitVec 16) (press unit vat : Option Nat) (detail : List Byte) (s : State) :
    raise code press unit vat detail s = { s with events := (raise code press unit vat detail s).events } := rfl

@[simp] theorem raise_pending (c : BitVec 16) (p u v : Option Nat) (d : List Byte) (s : State) : (raise c p u v d s).pending = s.pending := rfl
@[simp] theorem raise_free (c : BitVec 16) (p u v : Option Nat) (d : List Byte) (s : State) : (raise c p u v d s).free = s.free := rfl
@[simp] theorem raise_otp (c : BitVec 16) (p u v : Option Nat) (d : List Byte) (s : State) : (raise c p u v d s).otp = s.otp := rfl
@[simp] theorem raise_dev (c : BitVec 16) (p u v : Option Nat) (d : List Byte) (s : State) : (raise c p u v d s).dev = s.dev := rfl
@[simp] theorem raise_settings (c : BitVec 16) (p u v : Option Nat) (d : List Byte) (s : State) : (raise c p u v d s).settings = s.settings := rfl
@[simp] theorem raise_mgmt (c : BitVec 16) (p u v : Option Nat) (d : List Byte) (s : State) : (raise c p u v d s).mgmt = s.mgmt := rfl
@[simp] theorem raise_reports (c : BitVec 16) (p u v : Option Nat) (d : List Byte) (s : State) : (raise c p u v d s).reports = s.reports := rfl
@[simp] theorem raise_reportQueue (c : BitVec 16) (p u v : Option Nat) (d : List Byte) (s : State) : (raise c p u v d s).reportQueue = s.reportQueue := rfl
@[simp] theorem raise_vats (c : BitVec 16) (p u v : Option Nat) (d : List Byte) (s : State) : (raise c p u v d s).vats = s.vats := rfl
@[simp] theorem raise_presses (c : BitVec 16) (p u v : Option Nat) (d : List Byte) (s : State) : (raise c p u v d s).presses = s.presses := rfl
@[simp] theorem raise_engQueue (c : BitVec 16) (p u v : Option Nat) (d : List Byte) (s : State) : (raise c p u v d s).engQueue = s.engQueue := rfl
@[simp] theorem raise_counters (c : BitVec 16) (p u v : Option Nat) (d : List Byte) (s : State) : (raise c p u v d s).counters = s.counters := rfl
@[simp] theorem raise_heldOps (c : BitVec 16) (p u v : Option Nat) (d : List Byte) (s : State) : (raise c p u v d s).heldOps = s.heldOps := rfl
@[simp] theorem raise_remoteReply (c : BitVec 16) (p u v : Option Nat) (d : List Byte) (s : State) : (raise c p u v d s).remoteReply = s.remoteReply := rfl
@[simp] theorem raise_bridge (c : BitVec 16) (p u v : Option Nat) (d : List Byte) (s : State) : (raise c p u v d s).bridge = s.bridge := rfl
@[simp] theorem raise_streams (c : BitVec 16) (p u v : Option Nat) (d : List Byte) (s : State) : (raise c p u v d s).streams = s.streams := rfl
@[simp] theorem raise_hubs (c : BitVec 16) (p u v : Option Nat) (d : List Byte) (s : State) : (raise c p u v d s).hubs = s.hubs := rfl
@[simp] theorem raise_surveys (c : BitVec 16) (p u v : Option Nat) (d : List Byte) (s : State) : (raise c p u v d s).surveys = s.surveys := rfl
@[simp] theorem raise_gov (c : BitVec 16) (p u v : Option Nat) (d : List Byte) (s : State) : (raise c p u v d s).gov = s.gov := rfl
@[simp] theorem raise_hostMem (c : BitVec 16) (p u v : Option Nat) (d : List Byte) (s : State) : (raise c p u v d s).hostMem = s.hostMem := rfl

/-- Raising an event logs exactly one record, with the next number, at the front of the log (R398). -/
theorem raise_logged (code : BitVec 16) (press unit vat : Option Nat) (detail : List Byte) (s : State) :
    Safety.Logged s (raise code press unit vat detail s) code press unit vat detail :=
  ⟨rfl, _, rfl, rfl, rfl, rfl, rfl, rfl, rfl⟩

/-- Raising an event keeps the log and the EMCY queue within their sizes (R398). -/
theorem raise_bounded {code : BitVec 16} {press unit vat : Option Nat} {detail : List Byte} {s : State}
    (h : Safety.eventsBounded s = true) : Safety.eventsBounded (raise code press unit vat detail s) = true := by
  simp only [Safety.eventsBounded, Bool.and_eq_true, decide_eq_true_eq] at h ⊢
  refine ⟨by simp [raise, List.length_take], ?_⟩
  by_cases hq : s.events.emcy.length < 64
  · simp [raise, hq]
    try omega
  · simp [raise, hq, h.2]

/-- A message changes nothing but the records of the functions. -/
theorem sendMsix_frame (f vec : Nat) (s : State) :
    sendMsix f vec s = { s with bridge := { s.bridge with fns := (sendMsix f vec s).bridge.fns } } := rfl

/-! ## Counters and counts -/

/-- A signal adds 1 to one work counter (R235, R236). -/
theorem counterSignal_value (v c i : Nat) (s : State) :
    ((counterSignal v c s).counter i).value =
      if i = counterNo v c then (s.counter i).value + 1 else (s.counter i).value := by
  simp only [counterSignal, State.counter_updCounter]
  by_cases h : i = counterNo v c
  · simp [h]
  · simp [h]

theorem counterSignal_frame (v c : Nat) (s : State) :
    counterSignal v c s = { s with counters := (counterSignal v c s).counters } := rfl

/-- The signal of a job that ends changes nothing but the work counters (R235). -/
theorem signalDone_frame (d : Descriptor) (s : State) :
    signalDone d s = { s with counters := (signalDone d s).counters } := by
  unfold signalDone
  split <;> rfl

/-- A claim fetch-add changes nothing but the work counters (R239). -/
theorem claimFetchAdd_frame (c : Nat) (p : Press) (s : State) :
    (claimFetchAdd c p s).2 = { s with counters := (claimFetchAdd c p s).2.counters } := by
  simp only [claimFetchAdd]
  split
  · rfl
  · split
    · rfl
    · split <;> rfl

/-- A claim that is answered with an index stands in the ledger, and no other counter changes (R239). -/
theorem claimFetchAdd_index {c : Nat} {p : Press} {s t : State} {i : Nat} (h : claimFetchAdd c p s = (.index i, t)) :
    (t.counter c).ledger = (s.counter c).ledger ++ [(p, i)] ∧ ∀ x, x ≠ c → t.counter x = s.counter x := by
  simp only [claimFetchAdd] at h
  split at h
  · cases h
  · split at h
    · cases h
      exact ⟨by simp [State.counter_setCounter], fun x hx => by simp [State.counter_setCounter, hx]⟩
    · split at h
      · cases h
        exact ⟨by simp [State.counter_setCounter], fun x hx => by simp [State.counter_setCounter, hx]⟩
      · cases h

/-- An exact count of a vat changes nothing but that vat's counts (R360). -/
theorem countExact_vat (v i n w : Nat) (s : State) :
    (countExact v i n s).vat w = if w = v then { s.vat v with exact := ((countExact v i n s).vat v).exact } else s.vat w := by
  simp only [countExact, State.vat_updVat]
  by_cases h : w = v
  · simp [h]
  · simp [h]

/-! ## Package memory -/

/-- A write to package memory changes nothing but memory and poison (R284, R294). -/
theorem State.pkgWrite_frame (s : State) (v a : Nat) (bs : List Byte) :
    s.pkgWrite v a bs = { s with hubs := (s.pkgWrite v a bs).hubs } := rfl

/-- A write to package memory keeps its canonical form. -/
theorem State.pkgWrite_wf {s : State} {v a : Nat} {bs : List Byte} (h : Safety.packageWf s = true) :
    Safety.packageWf (s.pkgWrite v a bs) = true := by
  simp only [Safety.packageWf] at h ⊢
  simp only [State.pkgWrite, State.updHubs]
  revert h
  generalize s.hubs = m
  generalize ((List.range bs.length).zip bs |>.map fun e => (a + e.1, e.2)) = l
  intro h
  induction l generalizing m with
  | nil => exact h
  | cons e r ih =>
    refine ih _ ?_
    dsimp only
    cases s.vatFrame v (e.1 / 2048) with
    | none => exact h
    | some f => exact tput_wf h

/-- A frame written with zeros keeps the canonical form, and reads 0 (R292, R300). -/
theorem zeroFrame_wf {f : Nat} {s : State} (h : Safety.packageWf s = true) : Safety.packageWf (zeroFrame f s) = true :=
  tcut_wf h

theorem zeroFrame_reads (f a : Nat) (s : State) :
    tget 0 (zeroFrame f s).hubs.mem a = if 2048 * f ≤ a ∧ a < 2048 * f + 2048 then 0 else tget 0 s.hubs.mem a :=
  tget_tcut _ _ _ _

/-- A live copy that ends keeps the canonical form (R298). -/
theorem finishCopy_wf {c : Copy} {s : State} (h : Safety.packageWf s = true) :
    Safety.packageWf (finishCopy c s) = true := by
  have e : (finishCopy c s).hubs.mem =
      tputL 0 (zeroFrame c.target s).hubs.mem (2048 * c.target) (s.frameRead c.frame 0 2048) := by
    unfold finishCopy
    simp only [raisePageRetired, raise_hubs, State.updEntry, State.updHubs]
  simp only [Safety.packageWf, e]
  exact tputL_wf (zeroFrame_wf h)

/-! ## How a job ends -/

/-- A job that fails a check waits to be posted with the status and the cause of the check, and signals (R216, R218,
R235); nothing but its slot and the work counters changes. -/
theorem failJob_slot {p k : Nat} {status cause : BitVec 8} {s : State} {j : Job} (h : (s.press p).slot k = some j) :
    ((failJob p k status cause s).press p).slot k =
        some { j with state := .posting, barrier := false, checkStatus := some status, cause := cause } ∧
      ∀ q i, ¬(q = p ∧ i = k) → ((failJob p k status cause s).press q).slot i = (s.press q).slot i := by
  have e : ∀ (d : Descriptor) (t : State) (q i : Nat), ((signalDone d t).press q).slot i = (t.press q).slot i := by
    intro d t q i; rw [signalDone_frame]; rfl
  simp only [failJob, h, e, State.slot_updJob]
  refine ⟨by simp, fun q i hq => ?_⟩
  simp [hq]

theorem failJob_frame (p k : Nat) (status cause : BitVec 8) (s : State) :
    failJob p k status cause s =
      { s with presses := (failJob p k status cause s).presses, counters := (failJob p k status cause s).counters } := by
  simp only [failJob]
  split
  · rfl
  · rw [signalDone_frame]; rfl

/-- The claim of a job that ends changes nothing but its slot and the work counters (R238). -/
theorem returnClaim_frame (p k : Nat) (s : State) :
    returnClaim p k s =
      { s with presses := (returnClaim p k s).presses, counters := (returnClaim p k s).counters } := by
  simp only [returnClaim]
  split
  · rfl
  · split <;> rfl

end Sys2Proof.Machine
end

