-- ==== Sys2Proof/Laws/Bar.lean ====
section
/-! SUPPORT. Laws/Bar.lean: what host software's own writes can change: the configuration of ALLOCATED streams, the bridge
and host memory. -/

namespace Sys2Proof.Machine

/-- A write of configuration space changes the bridge alone (R245). -/
theorem configWrite_frame (w : ConfigWrite) (s : State) : configWrite w s = { s with bridge := (configWrite w s).bridge } := by
  cases w <;> simp only [configWrite]
  · split <;> rfl
  · split <;> rfl
  · rfl
  · rfl

/-- A write of 4 bytes to BAR0 changes streams and the bridge alone (R252). -/
theorem storeWord_frame (f : Fn) (off : Nat) (w : BitVec 32) (s : State) :
    storeWord f off w s = { s with streams := (storeWord f off w s).streams, bridge := (storeWord f off w s).bridge } := by
  simp only [storeWord]
  repeat' split
  all_goals rfl

/-- A register of a stream is written only while the stream is ALLOCATED, and only its configuration changes (R256, R257). -/
theorem storeWord_stream (f : Fn) (off : Nat) (w : BitVec 32) (s : State) (i : Nat) :
    (storeWord f off w s).stream i = { s.stream i with cfg := ((storeWord f off w s).stream i).cfg } ∧
      ((s.stream i).state ≠ .allocated → (storeWord f off w s).stream i = s.stream i) := by
  simp only [storeWord]
  split
  · exact ⟨rfl, fun _ => rfl⟩
  · split
    · split
      · rename_i st o _ hg
        rw [State.stream_updStream]
        by_cases hi : i = st.val
        · subst hi
          simp [hg.2]
        · simp [hi]
      · exact ⟨rfl, fun _ => rfl⟩
    all_goals
      repeat' split
      all_goals exact ⟨rfl, fun _ => rfl⟩

/-- The frame of a run of accesses (R252). -/
theorem regWrite_frame (w : RegWrite) (s : State) :
    regWrite w s = { s with streams := (regWrite w s).streams, bridge := (regWrite w s).bridge } := by
  let P : State → Prop := fun t => t = { s with streams := t.streams, bridge := t.bridge }
  have store : ∀ (o : Nat) (x : BitVec 32) (t : State), P t → P (storeWord w.fn o x t) := by
    intro o x t ht
    show _ = _
    rw [storeWord_frame, ht]
  have h0 : P s := rfl
  show P (regWrite w s)
  simp only [regWrite]
  split
  · exact h0
  · split
    · exact h0
    · refine forL_inv P _ _ (fun e _ t ht => ?_) s h0
      split
      · exact store _ _ _ (store _ _ _ ht)
      · exact ht
  · split
    · exact h0
    · exact forL_inv P _ _ (fun e _ t ht => store _ _ _ ht) s h0

/-- What host software wrote before a command changes streams, the bridge and host memory alone. -/
theorem hostWrites_frame (w : HostWrites) (s : State) :
    s.hostWrites w =
      { s with
        streams := (s.hostWrites w).streams, bridge := (s.hostWrites w).bridge, hostMem := (s.hostWrites w).hostMem } := by
  let P : State → Prop := fun t => t = { s with streams := t.streams, bridge := t.bridge }
  have h : P (forL w.regs regWrite (forL w.config configWrite s)) := by
    refine forL_inv P _ _ (fun e _ t ht => ?_) _ (forL_inv P _ _ (fun e _ t ht => ?_) s rfl)
    · show _ = _
      rw [regWrite_frame, ht]
    · show _ = _
      rw [configWrite_frame, ht]
  simp only [State.hostWrites, State.hostBytes]
  rw [h]

/-- What host software wrote keeps the canonical form of host memory. -/
theorem hostWrites_wf {s : State} {w : HostWrites} (h : twf (0 : Byte) s.hostMem = true) :
    twf (0 : Byte) (s.hostWrites w).hostMem = true := by
  have e : ∀ {α : Type} (l : List α) (f : α → State → State), (∀ x t, (f x t).hostMem = t.hostMem) → ∀ t,
      (forL l f t).hostMem = t.hostMem := fun l f hf => forL_keep State.hostMem l f (fun x _ t => hf x t)
  refine hostBytes_wf ?_
  rw [e w.regs regWrite (fun x t => by rw [regWrite_frame]), e w.config configWrite (fun x t => by rw [configWrite_frame])]
  exact h

end Sys2Proof.Machine
end

