-- ==== Sys2Proof/Tests/Slice0.lean ====
section
/-! SUPPORT. Slice0.lean: the author's own tests. For every statement with hypotheses a witness shows states and operands
that meet them, clause by clause and at boundary values; the rest are single steps whose results the spec gives. -/

namespace Sys2Proof.Tests

open Sys2Proof Sys2Proof.Machine Sys2Proof.Safety

set_option Elab.async false

/-! ## States -/

/-- A device in service that holds nothing yet. -/
def svc : State :=
  { dev := { started := true, state := .service, serviceReady := true, perstHigh := true, clockLock := 63 }
    mgmt := { nmt := .operational, nodeId := 1 } }

/-- A press of vat 0. -/
def p0 : PressRec := { state := .active, vat := some 0, vatPress := 0, clocked := true }

/-- A vat with one press, four pages from frame 65,536 and two streams. -/
def v0 : VatRec :=
  { state := .serving, pressMap := [(0, 0)], quotaBase := 65536, quotaPages := 4, streamCount := 2, tenantKey := 7 }

/-- The pages of vat 0. -/
def pages0 : Tab PageEntry :=
  [(65536, { state := .owned }), (65537, { state := .owned, vatPage := 1 }), (65538, { state := .owned, vatPage := 2 }),
    (65539, { state := .owned, vatPage := 3 })]

/-- Vat 0 in service on press 0 with an OPEN stream 0. -/
def base : State :=
  { svc with
    presses := [(0, p0)], vats := [(0, v0)], hubs := { map := pages0 }
    streams := [(0, { state := .opened, key := some 9, cfg := { ringConfig := 0 } })] }

/-- A descriptor of zeros with an opcode. -/
def d0 (op : BitVec 8) : Descriptor :=
  { decodeDescriptor [] with opcode := op }

/-- A job of an opcode that runs. -/
def j0 (op : BitVec 8) : Job := { desc := d0 op, stream := 0, sqIndex := 3, counter := 1, state := .running, m := 2, n := 4, k := 4 }

/-- Vat 0 with a job in slot 5 of press 0. -/
def withJob (j : Job) : State := base.setSlot 0 5 (some j)

/-- The next state of an outcome, none for a stop. -/
def nextOf (o : Out) : Option State :=
  match o with
  | .next t => some t
  | _ => none

/-- The state that a command answers; the given one when it stops. -/
def run (c : Instr) (s : State) : State :=
  match exec c s with
  | .next t => t
  | _ => s

/-! ## WellFormed -/

/-- An access of 4 bytes by the physical function. -/
def a4 : BarAccess := ⟨0, .four⟩

/-- A write beyond the 64-bit space of the host. -/
def far : HostWrites := { mem := [(2 ^ 64, 1)] }

/-- Well-formed commands, one for each check. -/
theorem test_wf_accepts :
    (Instr.streamStart ⟨a4, 0⟩ 1 { mem := [(2 ^ 64 - 1, 1)] }).wf ∧ (Instr.doorbell ⟨a4, 0⟩ 1 {}).wf ∧
      (Instr.blockPost ⟨a4, 0⟩ .data 1 {}).wf ∧ (Instr.reamLoad .M 0 [] {}).wf ∧ (Instr.quirePost .M 0 0 { mem := [(0, 1)] }).wf ∧
      (Instr.memoryAccess 0 2047 (.read 1) .clean none).wf ∧ (Instr.memoryAccess 0 0 (.write [1]) .clean none).wf ∧
      (Instr.remoteOperation { vat := 0, dst := .counter 0, kind := .put [1] }).wf ∧ (Instr.msixUnmask ⟨1, .four⟩ 27).wf ∧
      (Instr.dictGo 0 .four {}).wf ∧ (Instr.proofPass 0 0 (List.replicate 8 0)).wf ∧
      (Instr.spareSelfCheck 0 0 (List.replicate 5 0)).wf ∧ (Instr.fallbackCheckDone 0 (List.replicate 5 0)).wf ∧
      (Instr.engravingDone 0 (List.replicate 8 0)).wf := by decide +kernel

/-- A host address of more than 64 bits is refused. -/
theorem test_wf_host_address :
    (Instr.streamStart ⟨a4, 0⟩ 1 far).wf = false ∧ (Instr.doorbell ⟨a4, 0⟩ 1 far).wf = false ∧
      (Instr.blockPost ⟨a4, 0⟩ .data 1 far).wf = false ∧ (Instr.reamLoad .M 0 [] far).wf = false ∧
      (Instr.quirePost .M 0 0 far).wf = false ∧ (Instr.dictGo 0 .four far).wf = false := by decide +kernel

/-- An access over the end of a page, of no byte, and a put or get of no byte are refused. -/
theorem test_wf_access :
    (Instr.memoryAccess 0 2047 (.read 2) .clean none).wf = false ∧
      (Instr.memoryAccess 0 0 (.read 0) .clean none).wf = false ∧
      (Instr.memoryAccess 0 2047 (.write [1, 2]) .clean none).wf = false ∧
      (Instr.memoryAccess 0 0 (.write []) .clean none).wf = false ∧
      (Instr.remoteOperation { vat := 0, dst := .counter 0, kind := .put [] }).wf = false ∧
      (Instr.remoteOperation { vat := 0, dst := .counter 0, kind := .get 0 }).wf = false := by decide +kernel

/-- A vector that a virtual function lacks and lists of another length than the hardware has are refused. -/
theorem test_wf_lists :
    (Instr.msixUnmask ⟨1, .four⟩ 28).wf = false ∧ (Instr.proofPass 0 0 []).wf = false ∧
      (Instr.spareSelfCheck 0 0 []).wf = false ∧ (Instr.fallbackCheckDone 0 []).wf = false ∧
      (Instr.engravingDone 0 []).wf = false := by decide +kernel

/-! ## The machine, reset, start-up and images -/

/-- StepRunsFront: a queue with a command, and an empty one. -/
theorem wit_StepRunsFront :
    ({ svc with pending := [.linkDown, .usdoTimeout] } : State).pending = .linkDown :: [.usdoTimeout] ∧ svc.pending = [] := by
  decide

/-- EventStoreBounded: a full EMCY queue, and a step from that state. -/
theorem wit_EventStoreBounded :
    eventsBounded { svc with events := { emcy := List.replicate 64 ⟨0, 0, 0, 0, 0, 0, []⟩ } } = true ∧
      nextOf (step { svc with pending := [.linkDown] }) = some { svc with bridge := { link := none } } := by
  decide +kernel

/-- MemoryStaysCanonical: memories with a byte each, and a step. -/
theorem wit_MemoryStaysCanonical :
    hostMemWf { svc with hostMem := [(7, 1)] } = true ∧ packageWf { svc with hubs := { mem := [(0, 1)] } } = true ∧
      hostMemWf { svc with hostMem := [(7, 0)] } = false ∧ nextOf (step svc) = some svc := by decide +kernel

/-- ThermtripLatched: a state with the pin low, a command that is no cold reset, and a cold reset. -/
theorem wit_ThermtripLatched :
    (run (.thermtrip 67) svc).dev.thermtripLow = true ∧
      nextOf (exec .linkDown (run (.thermtrip 67) svc)) = some { run (.thermtrip 67) svc with bridge := { link := none } } ∧
      nextOf (exec (.coldReset .perstLow) svc) = some { State.reset with dev := { State.reset.dev with scan := svc.dev.scan } } := by
  decide +kernel

/-- StartUp: started and not; HOST_ASSIGNED and not; a link that trains and one that does not. -/
theorem wit_StartUp :
    svc.dev.started = true ∧ State.reset.dev.started = false ∧ State.reset.presses = [] ∧
      State.reset.otp.hostAssigned = false ∧ ({ otp := { hostAssigned := true } } : State).otp.hostAssigned = true ∧
      State.reset.mgmt.busOff = false ∧ ({} : SelfTest).link = some (.x8, .gt32) ∧ ({ link := none } : SelfTest).link = none ∧
      67 ∈ ({ sramFail := [67] } : SelfTest).sramFail := by decide +kernel

/-- A HOST_ASSIGNED device that waits for its node-ID. -/
def restricted : State := { svc with otp := { hostAssigned := true }, mgmt := { restricted := true } }

/-- HostAssignsNodeId: node-IDs 1 and 127; 0 and 128; a write that comes again. -/
theorem wit_HostAssignsNodeId :
    restricted.dev.started = true ∧ restricted.otp.hostAssigned = true ∧ restricted.mgmt.nodeIdWritten = false ∧
      restricted.mgmt.restricted = true ∧ restricted.mgmt.busOff = false ∧ 1 ≤ (1#8).toNat ∧ (127#8).toNat ≤ 127 ∧
      (0#8).toNat = 0 ∧ 128 ≤ (128#8).toNat ∧ (run (.nodeIdWrite .H 127) restricted).mgmt.nodeIdWritten = true ∧
      svc.otp.hostAssigned = false := by decide +kernel

/-- A write of the smallest node-ID takes effect (R375). -/
theorem test_nodeIdWrite :
    (run (.nodeIdWrite .H 1) restricted).mgmt.nodeId = 1 ∧
      (run (.nodeIdWrite .H 1) restricted).mgmt.lastFrame = some ⟨0x701, [0], true, false⟩ ∧
      (run (.nodeIdWrite .H 128) restricted).mgmt.result = resRange := by decide +kernel

/-- A chunk of 8 bytes at an Offset, of an image of 16 bytes. -/
def chunk (off : Nat) : List Byte := leBytes 4 off ++ leBytes 4 16 ++ List.replicate 8 1

/-- A device that has received 8 of 16 bytes. -/
def receiving : State :=
  { svc with dev := { svc.dev with image := .receiving, imageBytes := List.replicate 8 1, bytesReceived := 8, imageLength := 16 } }

/-- ImageChunks: the first chunk, the last, one that leaves a gap, one beyond the length, and a PENDING image. -/
theorem wit_ImageChunks :
    16 ≤ (chunk 0).length ∧ (List.replicate 1024 (0 : Byte)).length ≤ 1024 ∧ receiving.dev.started = true ∧
      leAt (chunk 0) 0 4 + ((chunk 0).length - 8) ≤ leAt (chunk 0) 4 4 ∧ leAt (chunk 0) 0 4 = 0 ∧
      leAt (chunk 8) 0 4 = receiving.dev.bytesReceived.toNat ∧ leAt (chunk 8) 4 4 = receiving.dev.imageLength.toNat ∧
      leAt (chunk 4) 0 4 ≠ receiving.dev.bytesReceived.toNat ∧ leAt (chunk 9) 4 4 < leAt (chunk 9) 0 4 + ((chunk 9).length - 8) ∧
      receiving.dev.image = .receiving ∧ svc.dev.image = .none ∧ svc.dev.state ≠ .failed ∧
      leAt (leBytes 4 0 ++ leBytes 4 7 ++ List.replicate 8 (1 : Byte)) 4 4 < 0 + 8 ∧ (List.replicate 15 (0 : Byte)).length < 16 ∧
      ({ svc.dev with image := .pending } : Dev).image = .pending := by decide +kernel

/-- The last chunk completes the image, and a gap is refused (R456). -/
theorem test_imageChunk :
    (run (.imageChunk .H (chunk 8)) receiving).dev.image = .verifying ∧
      (run (.imageChunk .H (chunk 8)) receiving).dev.bytesReceived = 16 ∧
      (run (.imageChunk .H (chunk 4)) receiving).mgmt.result = resRange := by decide +kernel

/-- A device with an image of 192 bytes and no record, whose signature fits its key when the standard says so. -/
def image0 : List Byte :=
  [0x4F, 0x5A, 0x50, 0x49, 1, 0, 0, 0, 192, 0, 0, 0, 0, 0, 0, 0, 7, 0, 0, 0, 0, 0, 0, 0] ++ List.replicate 168 0

/-- A device that verifies an image. -/
def verifying (l : List Byte) : State := { svc with dev := { svc.dev with image := .verifying, imageBytes := l } }

set_option maxRecDepth 20000 in
/-- ImageVerdict, its first clause: only the signature stands between this image and PENDING. -/
theorem wit_ImageVerdict_staged
    (h : Config.sm2Verify 0 (image0.take 128) (ofBytes 512 (image0.drop 128)) = true) :
    imageCause (verifying image0) image0 = 0 := by
  have e : imageCause (verifying image0) image0 =
      if !Config.sm2Verify 0 (image0.take 128) (ofBytes 512 (image0.drop 128)) then 3 else 0 := by rfl
  rw [e, h]; rfl

/-- ImageVerdict, its other clauses: an image with a wrong Magic, a PENDING image and none. -/
theorem wit_ImageVerdict :
    (verifying []).dev.image = .verifying ∧ imageCause (verifying []) [] = 1 ∧ (verifying []).dev.started = true ∧
      ({ svc.dev with image := .pending } : Dev).image = .pending ∧ svc.dev.image ≠ .pending := by decide +kernel

/-- An image with a wrong Magic is rejected with cause 1 and its event (R456, R458, R463). -/
theorem test_imageVerify :
    (run .imageVerify (verifying [])).dev.rejectCause = 1 ∧ (run .imageVerify (verifying [])).dev.image = .rejected ∧
      (run .imageVerify (verifying [])).events.newest = 1 := by decide +kernel

/-- A device that holds a PENDING image. -/
def pendingImage : State := { svc with dev := { svc.dev with image := .pending, imageBytes := image0 } }

/-- Activation: at start-up, in service with and without a hindrance, and at the end of the hold. -/
theorem wit_Activation :
    ({ pendingImage.dev with state := .awaitingImage } : Dev).image = .pending ∧ pendingImage.dev.state = .service ∧
      rootsFused pendingImage.otp = true ∧ rootsFused { pendingImage.otp with masterFused := false } = false ∧
      imageRecords pendingImage.dev.imageBytes = [] ∧
      pendingImage.dev.image = .pending ∧
      (∀ v : Vat, (pendingImage.vat v).state ≠ .pulping ∧ (pendingImage.vat v).state ≠ .resetting ∧
        (pendingImage.vat v).swap.active = false) ∧
      (∀ p : Press, (pendingImage.press p).state ≠ .engaging ∧ (pendingImage.press p).state ≠ .retiring) ∧
      svc.dev.image ≠ .pending ∧ ((run (.activate .H) pendingImage).dev.state = .activating) ∧
      ((installImage pendingImage).press 67).state = .testing := by decide +kernel

/-- ACTIVATE with a press that engages is refused, without one it holds the device (R457). -/
theorem test_activate :
    (run (.activate .M) { pendingImage with presses := [(5, { state := .engaging })] }).mgmt.result = resState ∧
      (run (.activationHoldEnd 9) (run (.activate .M) pendingImage)).dev.outageMs = 9 ∧
      (run (.activationHoldEnd 9) (run (.activate .M) pendingImage)).dev.state = .service := by decide +kernel

/-- DeviceReset: refused, accepted with a vat that is OFF and one that is not, held up, and ended. -/
theorem wit_DeviceReset :
    pendingImage.dev.started = true ∧ ({ svc.dev with state := .activating } : Dev).state ≠ .service ∧
      base.dev.state = .service ∧ (base.vat 7).state = .off ∧ (base.vat 0).state ≠ .off ∧
      ({ svc with dev := { svc.dev with state := .deviceReset } } : State).dev.state = .deviceReset ∧
      (∀ v : Vat, (svc.vat v).state = .off) ∧ (∀ e ∈ svc.streams, e.2.state = .free) ∧
      (∀ p : Press, (svc.press p).state ≠ .engaging ∧ (svc.press p).state ≠ .retiring) ∧
      (∃ e ∈ base.streams, e.2.state ≠ .free) ∧
      (∃ p : Press, (({ svc with presses := [(0, { state := .retiring })] } : State).press p).state = .retiring) := by decide +kernel

/-- A device reset of a device without a vat ends at once with its event (R448, R463). -/
theorem test_deviceReset :
    (run (.deviceReset .M) svc).dev.state = .deviceReset ∧
      (run (.deviceResetEnd 3) (run (.deviceReset .M) svc)).dev.state = .service ∧
      (run (.deviceResetEnd 3) (run (.deviceReset .M) svc)).dev.resetCounts = [1, 0, 0, 0] := by decide +kernel

/-! ## Presses and vats -/

/-- PressReset: an ACTIVE press with a running job whose vat serves, a press that is not ACTIVE, a vat that is PULPING. -/
theorem wit_PressReset :
    (base.press 0).state = .active ∧ base.dev.state ≠ .deviceReset ∧ (base.press 0).vat = some 0 ∧
      (base.vat 0).state ≠ .pulping ∧ (base.vat 0).state ≠ .resetting ∧ (base.press 67).state ≠ .active ∧
      ((withJob (j0 opPlate)).press 0).slot 5 = some (j0 opPlate) ∧ (j0 opPlate).state ≠ .posting ∧
      ((run (.pulp .M 0) base).vat 0).state = .pulping := by decide +kernel

/-- A press reset zeroes scratch, ends the job INTERNAL and raises RESET_DONE; in a vat that is PULPING it is refused. -/
theorem test_pressReset :
    ((run (.pressReset .H 0 3) (withJob (j0 opMacroLoad))).press 0).slot 5 |>.any (fun j => j.internal ∧ j.state = .posting) := by
  decide +kernel

/-- PressRetired: each state of the press, and a SPARE press to take the place, or none. -/
theorem wit_PressRetired :
    base.dev.started = true ∧ (base.press 3).state = .testing ∧ ({ p0 with state := .spare } : PressRec).state = .spare ∧
      ({ p0 with state := .engaging } : PressRec).state = .engaging ∧ (base.press 0).state = .active ∧
      (base.press 0).vat = some 0 ∧ nearestSpare base 0 = none ∧
      nearestSpare { base with presses := [(0, p0), (2, { state := .spare }), (67, { state := .spare })] } 0 = some 2 := by
  decide +kernel

/-- An ACTIVE press of no vat that engraves and waits to engrave. -/
def novat : State :=
  { base with
    vats := [], presses := [(0, { p0 with vat := none, engraving := some { plate := 3, purpose := .refresh, cls := 1 } })]
    engQueue := [{ cls := 3, press := 0, plate := 4, purpose := .refresh }] }

/-- PressRetired: an ACTIVE press of no vat, the last SPARE press and one that is not the last. -/
theorem wit_PressRetired_spares :
    (novat.press 0).state = .active ∧ (novat.press 0).vat = none ∧ novat.dev.started = true ∧
      (∀ q : Press, q ≠ 2 → (({ base with presses := [(0, p0), (2, { state := .spare })] } : State).press q).state ≠ .spare) ∧
      (∃ q : Press, q ≠ 2 ∧
        (({ base with presses := [(2, { state := .spare }), (67, { state := .spare })] } : State).press q).state = .spare) ∧
      (run (.retire .M 0) novat).engQueue = [] := by decide +kernel

/-- RETIRE lets the nearest SPARE press engage for the place (R438, R439). -/
theorem test_retire :
    ((run (.retire .M 0) { base with presses := [(0, p0), (2, { state := .spare }), (67, { state := .spare })] }).press 2).state =
      .engaging ∧
      (run (.retire .H 0) base).mgmt.result = resRights ∧ ((run (.retire .M 0) base).press 0).state = .retired := by
  decide +kernel

/-- Press 2 engages for press 0, which is RETIRING; nothing is left to engrave. -/
def engaging : State :=
  { base with
    presses := [(0, { p0 with state := .retiring, replacement := some 2 }),
      (2, { p0 with state := .engaging, replaces := some 0, engagingFor := some 0 })] }

/-- SpareEngages: before the check, with and without another SPARE press, and ready. -/
theorem wit_SpareEngages :
    (engaging.press 2).engagingFor = some 0 ∧ (engaging.press 2).state = .engaging ∧
      (engaging.press 2).engageChecked = false ∧ nearestSpare engaging 0 = none ∧
      (engaging.press 0).vat = some 0 ∧ engageReady engaging 2 = false ∧
      engageReady (run (.engageCheckDone 2 ⟨true, [], []⟩) engaging) 2 = true ∧ (engaging.press 2).vat = some 0 ∧
      nearestSpare { engaging with presses := engaging.presses ++ [(67, { state := .spare })] } 0 = some 67 ∧
      calFails (engaging.press 2) [] = false ∧ calFails (engaging.press 2) [(3, 4)] = false ∧
      calFails (engaging.press 2) [(1, 1), (1, 2), (2, 1), (2, 2)] = true ∧ ((engaging.press 2).bank 3).state = .working ∧
      ((engaging.press 2).bank 3).spareFailed = false ∧ ((engaging.press 2).bank 3).substituted = 0xFF := by decide +kernel

/-- SpareEngages: a macro of the press that retires whose source is under copy, and one whose source is not. -/
theorem wit_SpareEngages_held :
    recordsHeld engaging 0 2 = false ∧
      recordsHeld ((({ engaging with hubs := { engaging.hubs with copies :=
        [{ frame := 65537, target := 70000, vat := 0, vatPage := 1, cause := 1 }] } } : State).updPress 0 fun r =>
          { r with macros := [(0, { valid := 1, records := [(0, { source := 0x400000000000 })] })] })) 0 2 = true := by decide +kernel

/-- A failed slice of an engaging press is substituted; two banks that need the converter retire it (R104, R439). -/
theorem test_engage_slices :
    (((run (.engageCheckDone 2 ⟨true, [(3, 4)], []⟩) engaging).press 2).bank 3).substituted = 4 ∧
      ((run (.engageCheckDone 2 ⟨true, [(1, 1), (1, 2), (2, 1), (2, 2)], []⟩) engaging).press 2).retireCause = 5 := by
  decide +kernel

/-- A press that fails its check is RETIRED with cause 5; one that has engaged is in the PressMap (R439, R441). -/
theorem test_engage :
    ((run (.engageCheckDone 2 ⟨false, [], []⟩) engaging).press 2).retireCause = 5 ∧
      (((run (.spareEngagementDone 2 1) (run (.engageCheckDone 2 ⟨true, [], []⟩) engaging)).vat 0).pressMap = [(0, 2)]) := by
  decide +kernel

/-- A vat that is OFF with a press, pages, streams and a tenant key. -/
def configurable : State :=
  { svc with presses := [(0, { state := .active })], vats := [(0, { v0 with state := .off })] }

/-- VatConfigured: conditions met, each unmet one, a vat that is not OFF, and an allocation with a debug entry. -/
theorem wit_VatConfigured :
    (configurable.vat 0).state = .off ∧ configurable.dev.state ≠ .deviceReset ∧ pressMapOk configurable 0 = true ∧
      quotaOk configurable 0 = true ∧ streamRangeOk configurable 0 = true ∧ (configurable.vat 0).tenantKey ≠ 0 ∧
      (mapPresses (configurable.vat 0))[0]? = some 0 ∧ pressMapOk svc 0 = false ∧
      quotaOk { configurable with vats := [(0, { v0 with state := .off, quotaBase := 65535 })] } 0 = false ∧
      streamRangeOk { configurable with vats := [(0, { v0 with state := .off, streamCount := 4097 })] } 0 = false ∧
      (svc.vat 0).tenantKey = 0 ∧ (base.vat 0).state ≠ .off ∧
      ((run (.configure .M 0) configurable).vat 0).state = .allocating ∧
      (configurable.pageEntry 65539).state = .free ∧ ({ v0 with debug := .entering } : VatRec).debug = .entering := by
  decide +kernel

/-- CONFIGURE and the end of the allocation make the vat SERVING with its pages (R344). -/
theorem test_configure :
    ((run (.allocationDone 0) (run (.configure .M 0) configurable)).vat 0).state = .serving ∧
      ((run (.allocationDone 0) (run (.configure .M 0) configurable)).pageEntry 65539).vatPage = 3 ∧
      (run (.configure .M 0) base).mgmt.result = resState ∧ (run (.configure .M 1) configurable).mgmt.result = resRange := by
  decide +kernel

/-- VatPulped: a SERVING vat with a page, a press and a job; one that is OFF. -/
theorem wit_VatPulped :
    (base.vat 0).state = .serving ∧ (base.vat 1).state ≠ .serving ∧ (base.pageEntry 65536).state = .owned ∧
      (base.pageEntry 65536).vat = 0 ∧ base.hubs.copies = [] ∧ (servingPresses base 0).contains 0 = true ∧
      ((withJob (j0 opStipple)).press 0).slot 5 = some (j0 opStipple) ∧
      hostRanges (withJob (j0 opStipple)) 0 (j0 opStipple) = [] := by decide +kernel

/-- Pulping leaves no page OWNED and raises VAT_PULP_STARTED (R352). -/
theorem test_pulp :
    ((run (.pulp .M 0) base).pageEntry 65539).state = .pulping ∧ (run (.pulp .M 0) base).events.newest = 1 ∧
      (run (.pulp .H 1) base).mgmt.result = resState := by decide +kernel

/-- A vat whose plates and pages are pulped. -/
def pulped (debug : Bool) (st : StreamSt) : State :=
  { base with vats := [(0, { v0 with state := .pulping, pulpForDebug := debug })], hubs := {}
              streams := [(0, { state := st, key := some 9 })] }

/-- PulpingEnds: held up by a page, then after PULP with an OPEN and with FREE streams, and after debug entry. -/
theorem wit_PulpingEnds :
    ((pulped false .opened).vat 0).state = .pulping ∧ platesPulped (pulped false .opened) 0 .vatPulp = 0 ∧
      vatFrames (pulped false .opened) 0 .pulping = [] ∧ vatFrames (pulped false .opened) 0 .owned = [] ∧
      vatDrained (pulped false .opened) 0 = true ∧ streamsFree (pulped false .free) 0 = true ∧
      ((pulped false .opened).stream 0).state = .opened ∧ ((pulped true .opened).vat 0).pulpForDebug = true ∧
      vatFrames (run (.pulp .M 0) base) 0 .pulping ≠ [] ∧ ((pulped false .opened).press 0).vat = some 0 ∧
      ((pulped false .opened).press 1).vat ≠ some 0 ∧
      ((pulped false .allocated).stream 0).state = .allocated ∧
      ((pulped false .opened).vat 0).streamBase.toNat + ((pulped false .opened).vat 0).streamCount.toNat ≤ 4096 := by decide +kernel

/-- PULPING_END closes streams first and then makes the vat OFF (R352). -/
theorem test_pulpingEnd :
    ((run (.pulpingEnd 0) (pulped false .opened)).stream 0).state = .closing ∧
      ((run (.pulpingEnd 0) (pulped false .free)).vat 0).state = .off ∧
      ((run (.pulpingEnd 0) (pulped true .opened)).vat 0).state = .allocating := by decide +kernel

/-- Vat 0 with page 3 in its staging area, which holds a byte. -/
def stagedPage : State :=
  { base with hubs := { map := tput {} pages0 65539 { state := .owned, vatPage := 3, use := .staging }, mem := [(2048 * 65539, 7)] } }

/-- VatReset: a SERVING vat, one that is not, a reset that runs with and without plates to pulp. -/
theorem wit_VatReset :
    (base.vat 0).state = .serving ∧ (base.vat 1).state ≠ .serving ∧ (servingPresses base 0).contains 0 = true ∧
      ((run (.vatReset .M 0) base).vat 0).state = .resetting ∧ platesPulped (run (.vatReset .M 0) base) 0 .resetPulp = 17 ∧
      platesPulped { base with vats := [(0, { v0 with state := .resetting })] } 0 .resetPulp = 0 ∧
      vatDrained { base with vats := [(0, { v0 with state := .resetting })] } 0 = true ∧
      (∀ e ∈ base.hubs.map, e.1 = 65536 → e.2.use ≠ .staging) ∧ (stagedPage.pageEntry 65539).state = .owned ∧
      (stagedPage.pageEntry 65539).vat = 0 ∧ (stagedPage.pageEntry 65539).use = .staging := by decide +kernel

/-- A vat reset leaves the staging pages zero (R356, R445). -/
theorem test_vatReset : (run (.vatReset .M 0) stagedPage).frameRead 65539 0 1 = [0] := by decide +kernel

/-- The end of a vat reset raises RESET_DONE (R445, R463). -/
theorem test_vatResetEnd :
    ((run (.vatResetEnd 0 4) { base with vats := [(0, { v0 with state := .resetting })] }).vat 0).state = .serving ∧
      (run (.vatResetEnd 0 4) { base with vats := [(0, { v0 with state := .resetting })] }).events.log.map Event.code =
        [evResetDone] := by decide +kernel

/-- A ream that is protected. -/
def ream0 : Ream := { digest := 1, isProtected := true, editionCount := 2 }

/-- DebugRequests: a vat without a protected ream, one with it, and one that is not SERVING. -/
theorem wit_DebugRequests :
    (base.vat 0).state = .serving ∧ holdsProtected (base.vat 0) = false ∧
      holdsProtected { v0 with active := some ream0 } = true ∧ (base.vat 1).state ≠ .serving ∧
      ({ v0 with swap := { active := true, fromPending := true }, pendingReam := some { ream0 with isProtected := false } } :
        VatRec).pendingReam.isSome ∧ ({ v0 with load := { state := .staged } } : VatRec).load.state = .staged := by decide +kernel

/-- Debug entry without a protected ream is ACTIVE at once; with one the vat is pulped first (R358). -/
theorem test_debugRequest :
    ((run (.debugRequestTrue .M 0) base).vat 0).debug = .active ∧
      ((run (.debugRequestTrue .H 0) { base with vats := [(0, { v0 with active := some ream0 })] }).vat 0).pulpForDebug = true ∧
      ((run (.debugRequestFalse .M 0) (run (.debugRequestTrue .M 0) base)).vat 0).debug = .off := by decide +kernel

/-! ## Streams and the host bridge -/

/-- Ring registers that pass R256: credit 2, rings of 16, vector 1, IrqThreshold 1. -/
def cfg0 : StreamCfg := { ringConfig := 0x01440002, bounceBlocks := 1, irqConfig := 1 }

/-- Vat 0 with stream 0 in a state, keyed and configured. -/
def strm (st : StreamSt) : State := { base with streams := [(0, { state := st, key := some 9, cfg := cfg0 })] }

/-- Vat 0 with stream 0 in a state, its record changed. -/
def strmWith (st : StreamSt) (f : Stream → Stream) : State := (strm st).updStream 0 f

/-- StreamOpens: function 0 serves vat 0; ServiceReady 0; a vat not SERVING; no stream FREE; stream 1 the lowest FREE one. -/
theorem wit_StreamOpens :
    serves base 0 0 = true ∧ fnDecodes base 0 = true ∧ fnDecodes base 8 = false ∧ ({ base.dev with serviceReady := false } : Dev).serviceReady = false ∧
      base.dev.serviceReady = true ∧ serves base 0 7 = true ∧ (base.vat 7).state ≠ .serving ∧ (base.vat 0).state = .serving ∧
      (base.stream 0).state ≠ .free ∧ (base.stream 1).state = .free ∧ (base.vat 0).streamCount.toNat = 2 ∧
      ({ base with vats := [(0, { v0 with streamCount := 1 })] } : State).vat 0 = { v0 with streamCount := 1 } := by
  decide +kernel

/-- StreamOpen answers the number with Opened, and STREAM_LIMIT beyond the range (R254). -/
theorem test_streamOpen :
    (run (.streamOpen a4 0) base).bridge.lastRead = 0x80000001 ∧ ((run (.streamOpen a4 0) base).stream 1).state = .allocated ∧
      (run (.streamOpen a4 0) (run (.streamOpen a4 0) base)).bridge.lastRead = 0x200000 := by decide +kernel

/-- StreamStarts: an ALLOCATED stream with registers that pass and that do not, KEYING and REKEY with nothing asked for, and
the states that ignore Start. -/
theorem wit_StreamStarts :
    windowOpen (strm .allocated) 0 0 = true ∧ ((strm .allocated).stream 0).state = .allocated ∧
      configOk cfg0 (((strm .allocated).streamFn 0).getD 0) = true ∧ configOk {} (((strm .allocated).streamFn 0).getD 0) = false ∧
      configOk { cfg0 with ringConfig := 0x01440010 } 0 = false ∧ configOk { cfg0 with ringConfig := 0x0144000F } 0 = true ∧
      windowOpen (strm .rekey) 0 0 = true ∧ ((strm .keying).stream 0).exchange = false ∧ ((strm .rekey).stream 0).newKey = none ∧
      windowOpen (strm .closing) 0 0 = true ∧ windowOpen (strm .resetting) 0 0 = true ∧ windowOpen (strm .opened) 0 0 = true := by
  decide +kernel

/-- Start of an ALLOCATED stream asks for its exchange or sets ConfigError (R255, R256). -/
theorem test_streamStart :
    ((run (.streamStart ⟨a4, 0⟩ 1 {}) (strm .allocated)).stream 0).state = .keying ∧
      (run (.streamStart ⟨a4, 0⟩ 1 {}) (strm .allocated)).bridge.exchanges = [0] ∧
      ((run (.streamStart ⟨a4, 0⟩ 1 {}) (strmWith .allocated fun r => { r with cfg := {} })).stream 0).configError = true := by decide +kernel

/-- Address of the key exchange area of stream 0. -/
def keyAreaAt : Nat := ((strm .keying).stream 0).keyArea

/-- The bytes of an offer there: Magic, version 1 and twice the base point of SM2. -/
def offerMem : Tab Byte :=
  [(keyAreaAt, 0x4F), (keyAreaAt + 1, 0x5A), (keyAreaAt + 2, 0x4B), (keyAreaAt + 3, 0x4F), (keyAreaAt + 4, 1)] ++
    ((List.range 128).map fun i => (keyAreaAt + 8 + i, slice (beBytes 64
      0x32C4AE2C1F1981195F9904466A39C9948FE30BBFF2660BE1715A4589334C74C7BC3736A2F4F6779C59BDCEE36B692153D0A9877CC62A474002DF32E52139F0A0)
      (i % 64) 1 |>.getD 0 0)).filter fun e => e.2 ≠ 0

/-- A stream first in order for its exchange; the vat's tenant key is the digest of the offered static key. -/
def offered (st : StreamSt) (bytes : Tab Byte) (digest : BitVec 256) : State :=
  { strm st with bridge := { exchanges := [0] }, hostMem := bytes, vats := [(0, { v0 with tenantKey := digest })] }

/-- The digest of the offered static key. -/
def offerDigest : BitVec 256 := Config.sm3 (slice ((offered .keying offerMem 0).hostRead ((strm .keying).stream 0).keyArea 256) 8 64)

/-- KeyExchange: a stream not first in order, a bad offer in KEYING and REKEY, and a key that waits in REKEY with and without
a job. -/
theorem wit_KeyExchange :
    (strm .keying).bridge.exchanges.head? ≠ some 0 ∧ (offered .keying [] 0).bridge.exchanges.head? = some 0 ∧
      ((offered .keying [] 0).stream 0).state = .keying ∧ ((offered .rekey [] 0).stream 0).state = .rekey ∧
      offerResult (offered .keying [] 0) ((offered .keying [] 0).streamVat 0)
        ((offered .keying [] 0).hostRead ((offered .keying [] 0).stream 0).keyArea 256) = 1 ∧
      ((strmWith .rekey fun r => { r with newKey := some 3 }).stream 0).newKey = some 3 ∧
      unposted (strmWith .rekey fun r => { r with newKey := some 3 }) 0 = false ∧
      unposted (strmWith .rekey fun r => { r with newKey := some 3, ended := [j0 opPlate] }) 0 = true := by decide +kernel

set_option maxRecDepth 20000 in
/-- KeyExchange: a good offer, whatever the digest of its static key is. -/
theorem wit_KeyExchange_good :
    offerResult (offered .keying offerMem offerDigest) ((offered .keying offerMem offerDigest).streamVat 0)
      ((offered .keying offerMem offerDigest).hostRead ((offered .keying offerMem offerDigest).stream 0).keyArea 256) = 0 := by
  have hv : (offered .keying offerMem offerDigest).streamVat 0 = some 0 := by decide +kernel
  have hb : (offered .keying offerMem offerDigest).hostRead ((offered .keying offerMem offerDigest).stream 0).keyArea 256 =
      (offered .keying offerMem 0).hostRead ((strm .keying).stream 0).keyArea 256 := by decide +kernel
  rw [hv, hb]
  unfold offerResult
  rw [if_neg (by decide +kernel), if_neg ?_, if_neg (by decide +kernel), if_neg (by decide +kernel)]
  rintro (h | h)
  · cases h
  · exact h rfl

/-- A bad offer leaves the stream KEYING with Result 1 (R349); a waiting key takes effect (R350). -/
theorem test_keyExchange :
    ((run (.keyExchangeDone 0) (offered .keying [] 0)).stream 0).state = .keying ∧
      (run (.keyExchangeDone 0) (offered .keying [] 0)).events.newest = 1 ∧
      ((run (.newKeyInstall 0) (strmWith .rekey fun r => { r with newKey := some 3 })).stream 0).key = some 3 := by
  decide +kernel

/-- StreamCloses: each state of the stream, with and without an unposted job. -/
theorem wit_StreamCloses :
    windowOpen (strm .allocated) 0 0 = true ∧ windowOpen (strm .keying) 0 0 = true ∧ windowOpen (strm .opened) 0 0 = true ∧
      windowOpen (strm .rekey) 0 0 = true ∧ ((strm .free).stream 0).state = .free ∧ ((strm .closing).stream 0).state = .closing ∧
      unposted (strm .closing) 0 = false ∧ unposted (strmWith .closing fun r => { r with bridge := [j0 opPlate] }) 0 = true := by
  decide +kernel

/-- A close drops what was submitted and not fetched (R261). -/
theorem test_streamClose :
    ((run (.streamClose ⟨a4, 0, 2⟩) (strmWith .opened fun r => { r with sqTail := 3, sqHead := 1 })).stream 0).dropped = 2 ∧
      ((run (.closingEnd 0) (strm .closing)).stream 0).state = .free := by decide +kernel

/-- StreamResets: a stream with jobs in slots, begun in CLOSING and not, and a function with its streams. -/
theorem wit_StreamResets :
    windowOpen (withJob (j0 opPlate)) 0 0 = true ∧ ((withJob (j0 opPlate)).stream 0).state ≠ .resetting ∧
      ((withJob (j0 opPlate)).press 0).slot 5 = some (j0 opPlate) ∧ (j0 opPlate).stream = 0 ∧
      ((withJob { j0 opPlate with stream := 1 }).press 0).slot 5 = some { j0 opPlate with stream := 1 } ∧
      ((strmWith .resetting fun r => { r with resetFromClosing := true }).stream 0).resetFromClosing = true ∧
      ((strm .resetting).stream 0).resetFromClosing = false ∧ base.streamFn 0 = some 0 ∧ base.streamFn 4095 = none ∧
      ((strm .allocated).stream 0).state = .allocated ∧ ((strm .keying).stream 0).state = .keying ∧ windowOpen (strm .allocated) 0 0 = true ∧
      ({ base.dev with state := .deviceReset } : Dev).state = .deviceReset ∧ (strm .opened).dev.state ≠ .deviceReset := by
  decide +kernel

/-- A stream reset frees the job's slot without a completion (R447). -/
theorem test_streamReset :
    ((run (.streamReset ⟨a4, 0, 4⟩) (withJob (j0 opPlate))).press 0).slot 5 = none ∧
      ((run (.streamResetDone 0) (run (.streamReset ⟨a4, 0, 4⟩) (withJob (j0 opPlate)))).stream 0).state = .allocated := by decide +kernel

/-- An OPEN stream with no credit left. -/
def full : State := strmWith .opened fun r => { r with fetched := 2 }

/-- Doorbells: beyond the ring (17 of 16), back past SqTail, all 16, a closed stream, and two descriptors over the credit limit. -/
theorem wit_Doorbells :
    windowOpen (strm .opened) 0 0 = true ∧ cfgSqEntries cfg0 = 16 ∧ cfgSqEntries cfg0 < (17#16 - ((strm .opened).stream 0).sqHead).toNat ∧
      ((0 : BitVec 16) - ((strmWith .opened fun r => { r with sqTail := 1 }).stream 0).sqHead).toNat <
        ((0 : BitVec 16) - ((strmWith .opened fun r => { r with sqTail := 1 }).stream 0).sqTail).toNat ∧
      (16#16 - ((strm .opened).stream 0).sqHead).toNat ≤ cfgSqEntries cfg0 ∧
      (16#16 - ((strm .opened).stream 0).sqTail).toNat ≤ (16#16 - ((strm .opened).stream 0).sqHead).toNat ∧
      ((strm .closing).stream 0).state ≠ .opened ∧ ((strm .opened).stream 0).grant = 0 ∧ ((strm .opened).stream 0).condemned = 0 ∧
      ((strm .opened).stream 0).inFlight < cfgCreditLimit cfg0 ∧ windowOpen (strm .closing) 0 0 = true ∧
      cfgCreditLimit cfg0 ≤ (full.stream 0).inFlight ∧ windowOpen full 0 0 = true ∧ (full.stream 0).grant = 0 ∧ (full.stream 0).condemned = 0 ∧
      ((strmWith .opened fun r => { r with grant := 1, sqTail := 1 }).stream 0).grant ≠ 0 ∧ ((strm .opened).stream 0).sqHead ≠ 4 := by
  decide +kernel

/-- Of four descriptors at a credit limit of 2, two are granted and two condemned (R264). -/
theorem test_doorbell :
    ((run (.doorbell ⟨a4, 0⟩ 4 {}) full).stream 0).dropped = 4 ∧ ((run (.doorbell ⟨a4, 0⟩ 4 {}) full).stream 0).records = [true] ∧
      ((run (.doorbell ⟨a4, 0⟩ 4 {}) (strm .opened)).stream 0).grant = 2 ∧ ((run (.doorbell ⟨a4, 0⟩ 4 {}) (strm .opened)).stream 0).condemned = 2 ∧
      ((run (.doorbell ⟨a4, 0⟩ 17 {}) (strm .opened)).stream 0).doorbellRejects = 1 := by decide +kernel

/-- A stream with n descriptors granted whose first submission entry has Counter 1. -/
def granted (n : Nat) : State :=
  { strmWith .opened fun r => { r with grant := n, sqTail := BitVec.ofNat 16 n, submitted := BitVec.ofNat 32 n } with hostMem := [(0, 1)] }

/-- DescriptorsFetched: ACTIVATING; the last and one of two granted; an entry that fails (Counter 0); a descriptor admitted,
and one that its vat ends. -/
theorem wit_DescriptorsFetched :
    ({ svc.dev with state := .activating } : Dev).state = .activating ∧ (granted 1).dev.state ≠ .activating ∧
      nextFetch (granted 1) = some 0 ∧ ((granted 1).stream 0).grant = 1 ∧ ((granted 2).stream 0).grant = 2 ∧
      unsealed { granted 1 with hostMem := [] } 0 = none ∧ admission (granted 1) 0 (d0 opPlate) = none ∧
      admission { granted 1 with vats := [(0, { v0 with state := .pulping })] } 0 (d0 opPlate) = some (stVatPulping, 0) ∧
      nextFetch (strmWith .opened fun r => { r with condemned := 1, sqTail := 1 }) = some 0 ∧
      ((strmWith .opened fun r => { r with condemned := 1, sqTail := 1 }).stream 0).grant = 0 ∧ postsHeld (granted 1) 0 = false ∧
      postsHeld (run (.functionPowerState 0 true) (granted 1)) 0 = true ∧
      (((granted 1).stream 0).sqTail - ((granted 1).stream 0).sqHead).toNat = 1 + ((granted 1).stream 0).condemned := by
  decide +kernel

set_option maxRecDepth 20000 in
/-- DescriptorsFetched: where the tag that the standard gives is 0, the entry authenticates. -/
theorem wit_DescriptorsFetched_plain (h : Config.gcmTag 9 (sealNonce false 0 1) (List.replicate 8 0) (List.replicate 64 0) = 0) :
    unsealed (granted 1) 0 = some (xorBytes (List.replicate 64 0) (gcmBytes 9 (sealNonce false 0 1) 64)) := by
  have he : ringEntry (granted 1) 0 = 1 :: List.replicate 127 0 := by decide +kernel
  have hk : ((granted 1).stream (0 : StreamId).val).key = some 9 := by decide +kernel
  unfold unsealed
  simp only [ringCounter, he, hk]
  rw [if_pos (by decide +kernel)]
  exact if_pos h

/-- An entry that does not authenticate ends SEAL_FAIL and takes a credit (R216, R264). -/
theorem test_descriptorFetch :
    ((run .descriptorFetch { granted 1 with hostMem := [] }).stream 0).fetched = 1 ∧
      ((run .descriptorFetch { granted 1 with hostMem := [] }).stream 0).ended.map Job.checkStatus = [some stSealFail] := by
  decide +kernel

/-- CreditsConserved: the invariant holds with descriptors pending, granted and condemned, and a step runs there. -/
theorem wit_CreditsConserved :
    (∀ i, ((run (.doorbell ⟨a4, 0⟩ 4 {}) (strm .opened)).stream i).submitted =
        ((run (.doorbell ⟨a4, 0⟩ 4 {}) (strm .opened)).stream i).fetched + ((run (.doorbell ⟨a4, 0⟩ 4 {}) (strm .opened)).stream i).dropped +
          (((run (.doorbell ⟨a4, 0⟩ 4 {}) (strm .opened)).stream i).sqTail -
            ((run (.doorbell ⟨a4, 0⟩ 4 {}) (strm .opened)).stream i).sqHead).setWidth 32 ∧
      ((run (.doorbell ⟨a4, 0⟩ 4 {}) (strm .opened)).stream i).grant + ((run (.doorbell ⟨a4, 0⟩ 4 {}) (strm .opened)).stream i).condemned ≤
        (((run (.doorbell ⟨a4, 0⟩ 4 {}) (strm .opened)).stream i).sqTail -
          ((run (.doorbell ⟨a4, 0⟩ 4 {}) (strm .opened)).stream i).sqHead).toNat) ∧
      (nextOf (step { run (.doorbell ⟨a4, 0⟩ 4 {}) (strm .opened) with pending := [.descriptorFetch] })).isSome := by
  have h : (run (.doorbell ⟨a4, 0⟩ 4 {}) (strm .opened)).streams =
      [(0, { state := .opened, key := some 9, cfg := cfg0, sqTail := 4, submitted := 4, grant := 2, condemned := 2 })] := by
    decide +kernel
  refine ⟨fun i => ?_, by decide +kernel⟩
  have h0 : (run (.doorbell ⟨a4, 0⟩ 4 {}) (strm .opened)).stream i =
      tget {} [(0, { state := .opened, key := some 9, cfg := cfg0, sqTail := 4, submitted := 4, grant := 2, condemned := 2 })] i := by
    rw [← h]; rfl
  rw [h0]
  rcases Nat.eq_zero_or_pos i with rfl | hp
  · decide
  · have : i ≠ 0 := by omega
    have h1 : tget ({} : Stream) [(0, { state := .opened, key := some 9, cfg := cfg0, sqTail := 4, submitted := 4, grant := 2, condemned := 2 })] i
        = {} := by simp [tget, Ne.symm this]
    rw [h1]; decide

/-- Stream 0 holds an admitted job in the bridge. -/
def bridged (op : BitVec 8) : State := strmWith .opened fun r => { r with bridge := [{ j0 op with state := .issued }] }

/-- JobPlaced: its vat PULPING, RESETTING or SERVING; no slot free; press not ACTIVE; slot 0 the lowest free one. -/
theorem wit_JobPlaced :
    ((bridged opPlate).stream 0).bridge = { j0 opPlate with state := .issued } :: [] ∧
      (({ bridged opPlate with vats := [(0, { v0 with state := .pulping })] }).vat 0).state = .pulping ∧
      (({ bridged opPlate with vats := [(0, { v0 with state := .resetting })] }).vat 0).state = .resetting ∧
      ((bridged opPlate).vat 0).state = .serving ∧ (j0 opPlate).desc.vat = 0 ∧
      ({ j0 opPlate with vatPulping := true } : Job).vatPulping = true ∧ (j0 opPlate).vatPulping = false ∧
      ({ j0 opPlate with vatResetting := true } : Job).vatResetting = true ∧ (j0 opPlate).vatResetting = false ∧
      (bridged opPlate).physPress 0 0 = some 0 ∧ ((bridged opPlate).press 0).state = .active ∧
      ({ p0 with state := .retiring } : PressRec).state ≠ .active ∧ freeSlot ((bridged opPlate).press 0) = some 0 ∧
      freeSlot { p0 with slots := (List.range 128).map fun k => (k, j0 opPlate) } = none ∧
      namedMailbox (bridged opMacroLoad) 0 { j0 opMacroLoad with state := .issued } = none ∧
      placementHeld (bridged opPlate) { j0 opPlate with state := .issued } = false := by decide +kernel

/-- A job that no plate can serve fails its check in the lowest slot (R218); a MACRO_LOAD there waits. -/
theorem test_jobPlacement :
    (((run (.jobPlacement 0) (bridged opPlate)).press 0).slot 0).isSome ∧
      ((run (.jobPlacement 0) (bridged opPlate)).press 0).placed = 1 ∧
      ((run (.jobPlacement 0) { bridged opPlate with vats := [(0, { v0 with state := .pulping })] }).stream 0).ended.map Job.checkStatus =
        [some stVatPulping] := by decide +kernel

/-- Slot 5 of press 0 holds a job that has ended. -/
def posting (j : Job) : State := ((strm .opened)).setSlot 0 5 (some { j with state := .posting })

/-- CompletionsPost: an ended job in a slot, with and without a mailbox entry, one that runs, a function in D3hot, and a job
that the bridge ended. -/
theorem wit_CompletionsPost :
    ((posting (j0 opPlate)).press 0).slot 5 = some { j0 opPlate with state := .posting } ∧
      ((posting { j0 opPlate with mailbox := some 3 }).press 0).slot 5 = some { j0 opPlate with mailbox := some 3, state := .posting } ∧
      (j0 opPlate).state ≠ .posting ∧ postsHeld (posting (j0 opPlate)) 0 = false ∧
      postsHeld (run (.functionPowerState 0 true) (posting (j0 opPlate))) 0 = true ∧
      ((posting (j0 opPlate)).stream 0).key = some 9 ∧
      ((strmWith .opened fun r => { r with ended := [j0 opPlate] }).stream 0).ended = j0 opPlate :: [] := by decide +kernel

/-- A vat reset that has come and gone ends a job that waited in the bridge (R233). -/
theorem test_waitingMarked :
    ((run (.jobPlacement 0) (run (.vatReset .M 0) (bridged opPlate))).stream 0).ended.map Job.checkStatus = [some stVatResetting] := by
  decide +kernel

/-- A post empties the slot and adds one unconsumed record (R269, R232). -/
theorem test_completionPost :
    ((run (.completionPost (.slot 0 5)) (posting (j0 opPlate))).press 0).slot 5 = none ∧
      ((run (.completionPost (.slot 0 5)) (posting (j0 opPlate))).stream 0).records = [false] ∧
      ((run (.completionPost (.slot 0 5)) (posting { j0 opPlate with mailbox := some 3 })).stream 0).mailboxes.map Prod.fst = [3] := by
  decide +kernel

/-- Stream 0 with two unconsumed records, the first a CREDIT_VIOLATION record. -/
def recorded : State := strmWith .opened fun r => { r with records := [true, false], cqTail := 2, fetched := 1 }

/-- RecordsConsumed: none, all and more than the records written. -/
theorem wit_RecordsConsumed :
    windowOpen recorded 0 0 = true ∧ ((0 : BitVec 16) - (recorded.stream 0).cqHead).toNat ≤ (recorded.stream 0).records.length ∧
      ((2 : BitVec 16) - (recorded.stream 0).cqHead).toNat ≤ (recorded.stream 0).records.length ∧
      (recorded.stream 0).records.length < ((3 : BitVec 16) - (recorded.stream 0).cqHead).toNat := by decide +kernel

/-- A CREDIT_VIOLATION record returns no credit (R272). -/
theorem test_cqHeadWrite :
    ((run (.cqHeadWrite ⟨a4, 0⟩ 2) recorded).stream 0).returned = 1 ∧ ((run (.cqHeadWrite ⟨a4, 0⟩ 2) recorded).stream 0).records = [] ∧
      ((run (.cqHeadWrite ⟨a4, 0⟩ 3) recorded).stream 0).doorbellRejects = 1 := by decide +kernel

/-- Stream 0 with mailbox entry 3 in a state. -/
def mailed (m : MailSt) : State :=
  strmWith .opened fun r => { r with mailboxes := [(3, { state := m, generation := 2, status := stSaturated })] }

/-- MailboxRead: entry 3 in each state. -/
theorem wit_MailboxRead :
    windowServed (mailed .valid) 0 0 = true ∧ (tget {} ((mailed .valid).stream 0).mailboxes 3).state = .valid ∧
      windowServed (strm .free) 0 0 = true ∧ windowServed (mailed .reserved) 0 0 = true ∧ (tget {} ((mailed .reserved).stream 0).mailboxes 3).state = .reserved ∧
      (tget {} ((mailed .valid).stream 0).mailboxes 0).state = .free := by decide +kernel

/-- A read of MailboxHead frees a VALID entry and returns its credit (R275). -/
theorem test_mailboxHeadRead :
    (tget {} ((run (.mailboxHeadRead ⟨⟨0, .eight⟩, 0⟩ 3) (mailed .valid)).stream 0).mailboxes 3).state = .free ∧
      ((run (.mailboxHeadRead ⟨⟨0, .eight⟩, 0⟩ 3) (mailed .valid)).stream 0).returned = 1 ∧
      ((run (.mailboxHeadRead ⟨⟨0, .eight⟩, 0⟩ 3) (mailed .reserved)).stream 0).returned = 0 := by decide +kernel

/-- A running streamed job with a list of arrived blocks, in a stream whose next blocks are posted or not. -/
def streamed (posted : BitVec 16) (arrived : Tab Bool) : State :=
  { base with streams := [(0, { state := .opened, dataPosted := posted, scalePosted := posted })] }.setSlot 0 5
    (some { j0 opPlate with desc := { d0 opPlate with scaleSource := 2 }, arrived := arrived })

/-- StreamedBlocks: no streamed job; a pair with a block that does not verify, with one block and with none; and the timeout
with one block, both and neither. -/
theorem wit_StreamedBlocks :
    windowOpen base 0 0 = true ∧ streamedJobs base 0 = [] ∧ streamedJobs (streamed 0 []) 0 = [(0, 5)] ∧
      ((streamed 0 []).press 0).slot 5 = some { j0 opPlate with desc := { d0 opPlate with scaleSource := 2 } } ∧
      channelBlock (streamed 0 []) { j0 opPlate with desc := { d0 opPlate with scaleSource := 2 } } .data 0 = .bad ∧
      channelBlock (streamed 0xFFFF []) { j0 opPlate with desc := { d0 opPlate with scaleSource := 2 } } .scale 0 = .unposted ∧
      nextBlock (streamed 0 []) 0 { j0 opPlate with desc := { d0 opPlate with scaleSource := 2 } } = 0 ∧
      tget false [(0, true)] (channelKey .data 0) = true ∧ tget false [(0, true)] (channelKey .scale 0) = false ∧
      (j0 opPlate).next < (j0 opPlate).m ∧ (j0 opPlate).leading = (j0 opPlate).next ∧
      ({ j0 opPlate with next := 1 } : Job).leading ≠ 1 := by decide +kernel

/-- StreamedBlocks: a pair that has arrived, a block not posted, and one that does not verify. -/
theorem wit_StreamedBlocks_pairs :
    blockFound (streamed 0xFFFF [(0, true), (1, true)])
        (clearStale .data { j0 opPlate with desc := { d0 opPlate with scaleSource := 2 }, arrived := [(0, true), (1, true)] }) .data 0
        = BlockRead.arrived ∧
      blockFound (streamed 0xFFFF []) (clearStale .data { j0 opPlate with desc := { d0 opPlate with scaleSource := 2 } }) .scale 0
        = BlockRead.unposted ∧
      blockFound (streamed 0 []) (clearStale .data { j0 opPlate with desc := { d0 opPlate with scaleSource := 2 } }) .data 0 = BlockRead.bad ∧
      (((streamed 0xFFFF [(0, true), (1, true)]).press 0).slot 5 |>.any fun j => !j.sealFail && !j.scaleSkew) := by decide +kernel

/-- A block that fails ends the job; one block of a pair leads to SCALE_SKEW (R276, R277). -/
theorem test_streamedBlocks :
    (((run (.blockPost ⟨a4, 0⟩ .data 0 {}) (streamed 0xFFFF [])).press 0).slot 5 |>.any (·.sealFail)) ∧
      (((run (.skewTimeout 0 5) (streamed 0xFFFF [(0, true)])).press 0).slot 5 |>.any (·.scaleSkew)) ∧
      (((run (.skewTimeout 0 5) (streamed 0xFFFF [(0, true), (1, true)])).press 0).slot 5 |>.any (!·.scaleSkew)) ∧
      ((run (.jobQuery ⟨a4, 0⟩ 9) base).stream 0).query = 9 := by decide +kernel

/-- FunctionsAndLink: a NumVFs that moves no stream in use and one that does; a function with held messages; a link; vectors. -/
theorem wit_FunctionsAndLink :
    (∀ v : Vat, decide (v.val < svc.bridge.numVfs.val) ≠ decide (v.val < 8) →
        ∀ e ∈ svc.streams, svc.streamVat e.1 = some v.val → e.2.state = .free) ∧
      decide (0 < base.bridge.numVfs.val) ≠ decide (0 < 1) ∧
      (∃ e ∈ base.streams, base.streamVat e.1 = some 0 ∧ e.2.state ≠ .free) ∧
      svc.dev.perstHigh = true ∧ svc.dev.started = true ∧ (svc.fn 8).d3hot = false ∧ 27 < vectorsOf 8 ∧ 31 < vectorsOf 0 ∧
      (∀ vec, vec ∈ ({ held := [1, 1, 2] } : FnRec).held → vec = 2 ∨ vec = 1) ∧
      tget false ({ unmasked := [(1, true)] } : FnRec).unmasked 2 = false := by decide +kernel

/-- A message held in D3hot leaves in D0; a pending one leaves when its vector is unmasked (R246, R278). -/
theorem test_functions :
    ((run (.functionPowerState 0 false) { svc with bridge := { fns := [(0, { d3hot := true, held := [1], unmasked := [(1, true)] })] } }).fn 0).sent
        = [(1, 1)] ∧
      ((run (.msixUnmask a4 1) { svc with bridge := { fns := [(0, { pendingBits := [(1, true)] })] } }).fn 0).sent = [(1, 1)] ∧
      (run (.numvfsWrite 8) svc).bridge.numVfs = 8 ∧ (run (.numvfsWrite 8) base).bridge.numVfs = 0 := by decide +kernel

/-- Link training below the bounds and its reset by LINK_DOWN (R279, R280). -/
theorem test_link :
    (run (.linkTraining .x4 .gt32) svc).events.newest = 1 ∧ (run (.linkTraining .x8 .gt32) svc).events.newest = 0 ∧
      (run .linkDown (run (.linkTraining .x8 .gt32) svc)).bridge.link = none ∧
      (run (.aerErrorLogged 9) svc).bridge.aer = some 9 ∧
      (run (.aerErrorLogged 5) (run (.aerErrorLogged 9) svc)).bridge.aer = some 9 ∧
      (run (.aerErrorLogged 5) (run (.aerErrorLogged 9) svc)).bridge.aerStatus = 0x220 := by decide +kernel

/-! ## Staging pages, counters, remote operations and vector jobs -/

/-- A device in which no vat has been configured, with a free frame. -/
def unconfigured : State := { svc with hubs := { everConfigured := false } }

/-- StagingAndRetiredFrames: a vat with a ream, with a load, above its quota, at its quota and OFF; pieces at each bound. -/
theorem wit_StagingAndRetiredFrames :
    ({ v0 with active := some ream0 } : VatRec).active.isSome = true ∧ ({ v0 with load := { state := .staged } } : VatRec).load.state = .staged ∧
      base.dev.started = true ∧ (base.vat 0).active = none ∧ (base.vat 0).pendingReam = none ∧ (base.vat 0).load.state ≠ .fetching ∧
      (base.vat 0).load.state ≠ .staged ∧ (base.vat 0).state ≠ .off ∧ (base.vat 0).quotaPages.toNat < (5#32).toNat ∧
      (4#32).toNat ≤ (base.vat 0).quotaPages.toNat ∧ (svc.vat 7).state = .off ∧ twf ({} : PageEntry) base.hubs.map = true ∧
      (base.pageEntry 65539).state = .owned ∧ (base.pageEntry 65540).state ≠ .owned ∧
      2 % 4 ≠ 0 ∧ 4096 < 4096 + (leBytes 4 65536).length ∧ 4092 + (leBytes 4 65536).length ≤ 4096 ∧
      ({ everConfigured := true } : Hubs).everConfigured = true ∧ unconfigured.hubs.everConfigured = false ∧
      unconfigured.hubs.copies = [] ∧ leAt (leBytes 4 65535) 0 4 < 65536 ∧ 16777216 ≤ leAt (leBytes 4 16777216) 0 4 ∧
      65536 ≤ leAt (leBytes 4 65536) 0 4 ∧ leAt (leBytes 4 16777215) 0 4 < 16777216 ∧
      (unconfigured.pageEntry 16777215).state ≠ .owned := by decide +kernel

/-- The last n pages become staging pages (R309); a frame is retired at start (R301). -/
theorem test_stagingPages :
    ((run (.stagingPagesWrite .M 0 1) base).pageEntry 65539).use = .staging ∧
      ((run (.stagingPagesWrite .M 0 1) base).pageEntry 65538).use = .data ∧
      (run (.stagingPagesWrite .M 0 5) base).mgmt.result = resRange ∧
      ((run (.retireAtStart .M 0 (leBytes 4 70000)) unconfigured).pageEntry 70000).state = .retired ∧
      (run (.retireAtStart .M 0 (leBytes 4 65535)) unconfigured).mgmt.result = resRange := by decide +kernel

/-- Counter 0 of vat 0 in a state, with a job in slot 5. -/
def counted (c : Counter) (j : Job) : State := { withJob j with counters := [(0, c)] }

/-- A running claimed job. -/
def jc : Job := { j0 opPlate with desc := { d0 opPlate with claimed := true }, limit := 4 }

/-- A full ledger. -/
def fullLedger : List (Press × Nat) := (List.range 256).map fun i => (0, i)

/-- CountersAndClaims: an empty ledger and one with a claim; a poll below and at WaitValue; a full ledger, one with a place, a
returned index, a Value below and at Limit. -/
theorem wit_CountersAndClaims :
    startReady (withJob { j0 opCounterSet with state := .waiting }) 0 { j0 opCounterSet with state := .waiting } = true ∧
      pressIssues base 0 = true ∧ counterNo (j0 opCounterSet).desc.vat.toNat (j0 opCounterSet).desc.claimCounter.toNat = 0 ∧
      ((counted { ledger := [(0, 1)] } (j0 opCounterSet)).counter 0).ledger ≠ [] ∧
      ((counted {} (j0 opCounterSet)).counter 0).ledger = [] ∧ usedFields (d0 opCounterSet) = d0 opCounterSet ∧
      (j0 opCounterSet).internal = false ∧ (j0 opCounterSet).checkStatus = none ∧
      (3#32).toNat ≤ ((counted { value := 3 } jc).counter 0).value.toNat ∧ ((counted { value := 3 } jc).counter 0).value.toNat < (4#32).toNat ∧
      ((counted {} jc).press 0).slot 5 = some jc ∧ jc.state = .running ∧ jc.desc.claimed = true ∧ jc.chunk = none ∧
      jc.ledgerFull = false ∧ 256 ≤ fullLedger.length ∧ (fullLedger.drop 1).length < 256 ∧
      ({ returns := [3] } : Counter).returns.head? = some 3 ∧ ((3 : BitVec 64) < 4) ∧ 3 < jc.limit ∧ ¬ ((4 : BitVec 64) < 4) ∧
      hostRanges base 0 jc = [] := by decide +kernel

/-- COUNTER_SET, a poll, a claim and a full ledger (R236 to R239). -/
theorem test_counters :
    ((run (.counterSet 0 5) (counted { value := 9 } { j0 opCounterSet with state := .waiting })).counter 0) = { limit := 2 } ∧
      (((run (.counterPoll 0 5) (counted { value := 3 } { jc with state := .waiting, counterMet := false })).press 0).slot 5 |>.any
        (·.counterMet)) ∧
      ((run (.claimFetchAdd 0 5) (counted { value := 3, limit := 4 } jc)).counter 0).value = 4 ∧
      (((run (.claimFetchAdd 0 5) (counted { limit := 4, ledger := fullLedger } jc)).press 0).slot 5 |>.any (·.ledgerFull)) ∧
      (((run (.ledgerFullRetry 0 5) (counted { value := 3, limit := 4 } { jc with ledgerFull := true })).press 0).slot 5 |>.any
        fun j => decide (j.chunk = some 3)) := by
  decide +kernel

/-- RemoteOperations: an issuer of another vat, one of its own and the bridge; a press that is RETIRING; scratch and package
addresses at the end of their ranges. -/
theorem wit_RemoteOperations :
    issuerOk base ⟨some (1, 0), 0, .counter 511, .signal⟩ = false ∧ issuerOk base ⟨some (0, 0), 0, .counter 511, .signal⟩ = true ∧
      issuerOk base ⟨none, 0, .counter 511, .signal⟩ = true ∧
      destinationHeld { base with presses := [(0, { p0 with state := .retiring })] } ⟨none, 0, .scratch 0 0, .signal⟩ = true ∧
      base.physPress 0 0 = some 0 ∧ (base.press 0).state ≠ .retiring ∧ (0xAFFFE#20).toNat + [1#8, 2].length ≤ 0xB0000 ∧
      (8190#46).toNat + [1#8, 2].length ≤ (base.vat 0).quotaPages.toNat * 2048 ∧ base.badPage 0 8190 2 = none ∧
      base.badWord 0 8190 2 = none := by decide +kernel

/-- A page of vat 0 under copy. -/
def copies0 (page : Nat) (s : State) : State :=
  s.updHubs fun h => { h with copies := [{ frame := 65536 + page, target := 70000, vat := 0, vatPage := page, cause := 1 }] }

/-- RemoteOperations: a put and a get of one page under copy, and of two pages of which one is. -/
theorem wit_RemoteOperations_copied :
    (copies0 1 base).copying 0 2046 4 = true ∧ (pageParts 2046 4).length ≠ 1 ∧ (copies0 1 base).badPage 0 2046 4 = none ∧
      (copies0 1 base).badWord 0 2046 4 = none ∧ (pagePieces 2046 [1, 2, 3, 4]) = [(2046, [1, 2]), (2048, [3, 4])] ∧
      (copies0 1 base).copying 0 2046 2 = false ∧ (copies0 1 base).copying 0 2048 2 = true ∧ (pageParts 2048 2).length = 1 ∧
      base.hubs.gathers = [] := by decide +kernel

/-- The part of a put on a page that is not under copy is there at once (R298). -/
theorem test_remote_copied :
    (run (.remoteOperation ⟨none, 0, .package 2046, .put [1, 2, 3, 4]⟩) (copies0 1 base)).pkgRead 0 2046 4 = [1, 2, 0, 0] ∧
      ((run (.remoteOperation ⟨none, 0, .package 2046, .put [1, 2, 3, 4]⟩) (copies0 1 base)).hubs.copies.map fun c => c.held.length) =
        [1] ∧
      (run (.remoteOperation ⟨none, 0, .package 2047, .get 2⟩) (copies0 1 base)).hubs.gathers.map Gather.parts =
        [[(2047, some [0])]] := by decide +kernel

/-- A compare-and-swap that finds its value, a fetch-add and a put (R27, R236). -/
theorem test_remoteOperation :
    ((run (.remoteOperation ⟨none, 0, .counter 0, .compareSwap 3 8⟩) (counted { value := 3 } jc)).counter 0).value = 8 ∧
      (run (.remoteOperation ⟨none, 0, .counter 0, .fetchAdd 8⟩) (counted { value := 3 } jc)).remoteReply = [3, 0, 0, 0, 0, 0, 0, 0] ∧
      (run (.remoteOperation ⟨none, 0, .package 8190, .put [1, 2]⟩) base).pkgRead 0 8190 2 = [1, 2] ∧
      tgetN 0 ((run (.remoteOperation ⟨none, 0, .scratch 0 0xAFFFE, .put [1, 2]⟩) base).press 0).scratch 0xAFFFE 2 = [1, 2] := by
  decide +kernel

/-- A parameter block: one row of one element, its sources at scratch offsets 0, 16 and 32 and its result at 64. -/
def vp0 (op : Nat) : VectorParams :=
  { decodeVectorParams [] with
    op := BitVec.ofNat 8 op, rowCount := 1, rowLength := 1, src1 := 16, src2 := 32, dst := 64, count := 1, headDim := 1 }

/-- A running vector job. -/
def jv (op : Nat) : Job := { j0 opVector with vp := some (vp0 op), m := 1 }

/-- Press 0 with a vector job and FP16 1, 2 and 1 at its sources. -/
def vecState (op : Nat) : State :=
  (withJob (jv op)).updPress 0 fun r => { r with scratch := [(1, 0x3C), (17, 0x40), (33, 0x3C)] }

/-- The bytes at the result. -/
def vecResult (c : Instr) (op n : Nat) : List Byte := tgetN 0 ((run c (vecState op)).press 0).scratch 64 n

/-- VectorJobsWait: a job of another VectorOp, one behind an earlier vector job, one that waits for its counter, one on a press
that does not issue, and one that starts. -/
theorem wit_VectorJobsWait :
    (vopAdd, Instr.ewAdd 0 5) ∈ vectorCommands 0 5 ∧ (vopSgdm, Instr.optSgdm 0 5) ∈ vectorCommands 0 5 ∧
      ((vecState vopAdd).press 0).slot 5 = some (jv vopAdd) ∧ (jv vopAdd).vp = some (vp0 vopAdd) ∧ (vp0 vopAdd).op.toNat = vopAdd ∧
      (vp0 vopAdd).op.toNat ≠ vopMul ∧
      ((earlier (((vecState vopAdd).setSlot 0 6 (some { jv vopAdd with order := 1 })).press 0) { jv vopAdd with order := 1 }).any fun x =>
        decide (x.2.desc.opcode = opVector)) = true ∧
      startReady (vecState vopAdd) 0 { jv vopAdd with state := .waiting, counterMet := false } = false ∧
      pressIssues svc 0 = false ∧ startReady (vecState vopAdd) 0 { jv vopAdd with state := .waiting } = true ∧
      ((earlier ((vecState vopAdd).press 0) (jv vopAdd)).any fun x => decide (x.2.desc.opcode = opVector)) = false := by
  decide +kernel

/-- VectorResultsLand: a job with no outcome noted, and a result of two bytes at scratch offset 64 of its own press. -/
theorem wit_VectorResultsLand :
    ((vecState vopAdd).press 0).slot 5 = some (jv vopAdd) ∧ (jv vopAdd).desc.opcode = opVector ∧ (jv vopAdd).chunk = none ∧
      (jv vopAdd).saturated = false ∧ (jv vopAdd).rescaled = false ∧ (vp0 vopAdd).op.toNat ≠ vopAdamw ∧ (vp0 vopAdd).op.toNat ≠ vopSgdm ∧
      hostRanges (vecState vopAdd) 0 (jv vopAdd) = [] ∧ (vecState vopAdd).physPress 0 0 = some 0 ∧
      (ewOut 2 (fun l => (fAt l 0).add (fAt l 1)) (vecCtx (vecState vopAdd) 0 (jv vopAdd) (vp0 vopAdd)) (vp0 vopAdd) [[0, 0x3C], [0, 0x40]]).outs
        = [(.scratch 0 64, [0, 0x42])] := by decide +kernel

/-- 1 + 2 = 3, 1 × 2 = 2, 1 × 2 + 1 = 3, and 1 converted is 1, in FP16 (R196). -/
theorem test_elementwise :
    vecResult (.ewAdd 0 5) vopAdd 2 = [0, 0x42] ∧ vecResult (.ewMul 0 5) vopMul 2 = [0, 0x40] ∧
      vecResult (.ewFma 0 5) vopFma 2 = [0, 0x42] ∧ vecResult (.convert 0 5) vopConvert 2 = [0, 0x3C] := by decide +kernel

/-- QUANTISE of a row of one element gives 127 (R196). -/
theorem test_quantise : vecResult (.quantise 0 5) vopQuantise 1 = [0x7F] := by decide +kernel

/-- ElementwiseJobs, RowAndListJobs: each operation on a running job whose ranges are read, and a range of the host space that
fails; an OutFormat that is no block, at the last element. -/
theorem wit_VectorRuns :
    ∀ op ∈ [vopAdd, vopMul, vopFma, vopConvert, vopQuantise, vopReduce, vopSoftmax, vopLayernorm, vopRmsnorm, vopAttention,
        vopMerge, vopTopk, vopAdamw, vopSgdm],
      ((vecState op).press 0).slot 5 = some (jv op) ∧ (jv op).desc.opcode = opVector ∧ (jv op).state = .running ∧
        (vp0 op).op.toNat = op ∧ pressIssues (vecState op) 0 = true ∧
        ((earlier ((vecState op).press 0) (jv op)).any fun x => decide (x.2.desc.opcode = opVector)) = false := by
  decide +kernel

/-- What the lane work of ADD asks for. -/
def laneNeed : Nat := laneOps (vp0 vopAdd) * price (vecState vopAdd) 0 (.lane vopAdd)

/-- Before the first window of the governor a vector job is paid at once. -/
theorem wit_VectorPays :
    VectorPays (vecState vopAdd) (chargeEnergy 0 1 laneNeed (vecState vopAdd))
      ((chargeEnergy 0 1 laneNeed (vecState vopAdd)).updJob 0 5 fun x => { x with funded := 0 }) 0 5 vopAdd (jv vopAdd)
      (vp0 vopAdd) true := ⟨0, rfl, rfl⟩

/-- Press 0 with a vector job in a window that has nothing left. -/
def broke : State := { vecState vopAdd with gov := { credits := some [0, 0, 0] } }

/-- In a window that has nothing left, a job whose work costs anything waits. -/
theorem wit_VectorPays_waits (h : 0 < laneNeed) :
    VectorPays broke (refuseEnergy 0 1 19 laneNeed (chargeEnergy 0 1 0 broke))
      ((refuseEnergy 0 1 19 laneNeed (chargeEnergy 0 1 0 broke)).updJob 0 5 fun x => { x with funded := 0 }) 0 5
      vopAdd (jv vopAdd) (vp0 vopAdd) false := by
  refine ⟨0, ?_, rfl⟩
  have e : laneOps (vp0 vopAdd) * price broke 0 (.lane vopAdd) = laneNeed := rfl
  have c : creditOf broke 1 = some 0 := rfl
  rw [e]
  simp only [payTowards, c]
  rw [if_neg (show ¬ laneNeed - (jv vopAdd).funded ≤ 0 from fun h' => by
    have : (jv vopAdd).funded = 0 := rfl
    omega)]
  rfl

/-- The failure of a read. -/
def failOf {α : Type} (x : Except ReadFail α) : Option ReadFail :=
  match x with
  | .error e => some e
  | .ok _ => none

/-- ElementwiseJobs, RowAndListJobs: a read of a page under copy waits, a sealed one that does not authenticate fails, and one
of a page that the vat does not own fails. -/
theorem wit_VectorHeld :
    failOf (readRanges (copies0 1 (vecState vopAdd)) 0 (jv vopAdd) (ewRead 2 { vp0 vopAdd with src1 := 0x400000000800 })) = some .held ∧
      failOf (readRanges ((vecState vopAdd).updStream 0 fun r => { r with key := none }) 0 (jv vopAdd)
        (ewRead 2 { vp0 vopAdd with src1 := 0x800000000000 })) = some .seal ∧
      failOf (readRanges (vecState vopAdd) 0 (jv vopAdd) (ewRead 2 { vp0 vopAdd with src1 := 0x400000002000 })) =
        some (.notOwned 4) := by decide +kernel

/-- The reads of the statements about vector jobs, with the page list of ATTENTION in scratch. -/
theorem wit_VectorReads :
    (readRanges (vecState vopFma) 0 (jv vopFma) (ewRead 3 (vp0 vopFma))).toOption = some [[0, 0x3C], [0, 0x40], [0, 0x3C], []] ∧
      (readRanges ((vecState vopAdd).updStream 0 fun r => { r with key := none }) 0 (jv vopAdd) (ewRead 2 { vp0 vopAdd with src1 := 0x800000000000 })).toOption = none ∧
      (readRanges (vecState vopAttention) 0 (jv vopAttention) (attentionRead (vp0 vopAttention))).toOption.isSome ∧
      (readRanges (vecState vopAttention) 0 (jv vopAttention)
        (pageRanges (vp0 vopAttention) ([0, 0, 0, 0] ++ [1, 0, 0, 0]) 0)).toOption = some [[0, 0]] ∧
      (readRanges (vecState vopAttention) 0 (jv vopAttention)
        (pageRanges (vp0 vopAttention) ([0, 0, 0, 0] ++ [1, 0, 0, 0]) (pagesOf (vp0 vopAttention)))).toOption = some [[0, 0]] ∧
      (vp0 vopAdd).outFormat.toNat < 8 ∧ 0 < vecElems (vp0 vopAdd) ∧
      ({ vp0 vopReduce with outFormat := 8 } : VectorParams).outFormat.toNat = 8 ∧
      (reduceOut (vecCtx (vecState vopReduce) 0 (jv vopReduce) (vp0 vopReduce)) { vp0 vopReduce with outFormat := 8 } []).rescaled = false := by
  decide +kernel

/-- A job of REDUCE_PARTIAL ends, and the maximum of a list of one with PositionBase 1 (R199, R207). -/
theorem test_lists :
    (((run (.reducePartial 0 5) (vecState vopReduce)).press 0).slot 5 |>.any fun j => decide (j.state = .posting)) ∧
      vecResult (.topk 0 5) vopTopk 8 = [0, 0x3C, 0, 0, 1, 0, 0, 0] := by decide +kernel

/-- A job of each row operation ends (R202, R203). -/
theorem test_rows :
    (((run (.softmax 0 5) (vecState vopSoftmax)).press 0).slot 5 |>.any fun j => decide (j.state = .posting)) ∧
      (((run (.layernorm 0 5) (vecState vopLayernorm)).press 0).slot 5 |>.any fun j => decide (j.state = .posting)) ∧
      (((run (.rmsnorm 0 5) (vecState vopRmsnorm)).press 0).slot 5 |>.any fun j => decide (j.state = .posting)) := by
  decide +kernel

/-! ## Plate, stipple, drain and load jobs -/

/-- A job of one plate, four columns and four rows. -/
def jp : Job := { j0 opPlate with desc := { d0 opPlate with plateCount := 1 } }

/-- A job of both macros with one token. -/
def js : Job := { j0 opStipple with desc := { d0 opStipple with macroSet := 3 }, m := 1 }

/-- JobsStart: the conditions of each command hold and fail; the three answers at a barrier. -/
theorem wit_JobsStart :
    ((withJob { jp with state := .waiting }).press 0).slot 5 = some { jp with state := .waiting } ∧ jp.desc.opcode ≠ opStipple ∧
      startReady (withJob jp) 0 { jp with state := .waiting } = true ∧
      startReady (withJob jp) 0 { jp with state := .waiting, counterMet := false } = false ∧
      pressIssues base 0 = true ∧ pressIssues svc 0 = false ∧ platesFree (withJob jp) 0 { jp with state := .waiting } = true ∧
      platesFree ((withJob jp).setSlot 0 6 (some { jp with order := 1 })) 0 { jp with order := 1 } = false ∧
      (!(jobMacros js.desc).any (macroWaits (withJob js) 0 js)) = true ∧
      loadMayStart (withJob (j0 opMacroLoad)) 0 (j0 opMacroLoad) = true ∧
      epochCheck { base with vats := [(0, { v0 with incomingEpoch := some 4 })] } 0 { jp.desc with epoch := 4 } = .wait ∧
      epochCheck base 0 jp.desc = .run ∧ epochCheck base 0 { jp.desc with epoch := 4 } = .mismatch ∧
      (plateCause base 0 jp false).isSome ∧
      plateCause (base.updPress 0 fun r => r.updPlate 0 fun q => { q with state := .live }) 0 jp false = none := by
  decide +kernel

/-- A job whose epoch is neither held nor incoming ends EPOCH at its barrier (R241). -/
theorem test_barrier :
    ((run (.plate 0 5) (withJob { jp with desc := { jp.desc with epoch := 4 }, state := .waiting, barrier := true })).press 0).slot 5 |>.any
      fun j => decide (j.checkStatus = some stEpoch ∧ j.state = .posting) := by decide +kernel

/-- The unit of plate 0. -/
def unit0 : Machine.PUnit := { mode := .none, even := 0, odd := 0, log := 0 }

/-- PlateTokens: a running job whose token feeds its entry unit. -/
theorem wit_PlateTokens_feeds : PlateFeeds (withJob jp) 0 jp 0 unit0 0 := by unfold PlateFeeds; decide +kernel

/-- A stipple operand of a pass that issues on macro 0, with so many of its bits issued. -/
def operand0 (n : Nat) : OperandRun :=
  { token := 0, unit := 0, tag := 0, stage := .outlier, mac := 0, group := 0, half := false, codes := [1], bits := 8
    scale := 0x3C00, int4 := false, issued := n }

/-- The job of one plate with that operand. -/
def jop (n : Nat) : Job := { jp with operandRuns := [operand0 n] }

/-- PlateTokens: an operand whose first bit the macro takes, one that has issued all, and a macro that reloads. -/
theorem wit_PlateTokens_operand :
    runningJob (withJob (jop 0)) 0 5 opPlate = some (jop 0) ∧ operandOn (jop 0) 0 = some (0, operand0 0) ∧ operandOn (jop 0) 1 = none ∧
      (operand0 0).done ((withJob (jop 0)).press 0 |>.macro' 0) (jop 0) = false ∧
      (operand0 8).done ((withJob (jop 0)).press 0 |>.macro' 0) (jop 0) = true ∧ macroWaits (withJob (jop 0)) 0 (jop 0) 0 = false ∧
      macroWaits ((withJob (jop 0)).updPress 0 fun r => { r with macros := [(0, { state := .reloading })] }) 0 (jop 0) 0 = true ∧
      admits (withJob (jop 0)) 0 (.bit false) 1 = true ∧ (operand0 0).mode16 (jop 0) = false := by decide +kernel

/-- Press 0 with such a job in a window that has nothing left. -/
def spent (j : Job) : State := { withJob j with gov := { credits := some [0, 0, 0] } }

/-- PlateTokens, StippleBatches: an input bit that costs anything is refused in a window that has nothing left. -/
theorem wit_BitRefused (j : Job) (h : 0 < price (spent j) 0 (.bit false)) : admits (spent j) 0 (.bit false) 1 = false := by
  have c : creditOf (spent j) (Work.bit false).cls = some 0 := rfl
  simp only [admits, c]
  exact decide_eq_false (by omega)

/-- The PLATE job with macro 0 for its adapter. -/
def jpa : Job := { jp with desc := { jp.desc with macroSet := 1 } }

/-- That job with a plate that joins, and macro 0 FAILED. -/
def failedMacro : State :=
  (withJob jpa).updPress 0 fun r => { r with
    macros := [(0, { state := .failed })]
    banks := [(0, { regs := { sense := some { control := 0x400 } } }), (16, { regs := { sense := some { control := 0x400 } } })] }

/-- PlateTokens: each reason why a token does not feed, and a read that fails. -/
theorem wit_PlateTokens :
    runningJob (withJob jp) 0 5 opPlate = some jp ∧ jp.desc.scaleSource ≠ 2 ∧
      (readToken (withJob jp) 0 jp jp.next (plateElementBits (withJob jp) 0 jp)).toOption = some ([0, 0, 0, 0], 0) ∧
      jp.taken 0 = 0 ∧ (0, unit0) ∈ entryUnits (jobUnits ((withJob jp).press 0) jp.desc) jp.desc.sliced ∧
      ({ jp with next := 2 } : Job).m ≤ 2 ∧ ({ jp with scaleSkew := true } : Job).begun ≤ 0 ∧
      ({ jp with sealFail := true } : Job).sealFail = true ∧ ({ jp with fed := [1] } : Job).taken 0 ≠ jp.next ∧ jc.desc.claimed = true ∧ jc.chunk = none ∧
      ({ jp with next := 1 } : Job).next ≠ jp.doneTokens ∧ jp.leading = jp.next ∧ ({ jp with next := 1 } : Job).leading ≠ 1 ∧
      failOf (readToken ((withJob jp).updStream 0 fun r => { r with key := none }) 0 { jp with desc := { jp.desc with srcAddress := 0x800000000000 } } 0
        (plateElementBits (withJob jp) 0 jp)) = some .seal ∧
      failOf (readToken (copies0 1 (withJob jp)) 0 { jp with desc := { jp.desc with srcAddress := 0x400000000800 } } 0
        (plateElementBits (withJob jp) 0 jp)) = some .held ∧ (∃ m ∈ usedMacros failedMacro 0 jpa, ((failedMacro.press 0).macro' m).state = .failed) ∧
      (∃ e ∈ entryUnits (jobUnits ((withJob jp).press 0) jp.desc) jp.desc.sliced,
        unitOpen ((withJob jp).setSlot 0 6 (some { jp with order := 1 })) 0 { jp with order := 1 } e.2 = false) := by
  decide +kernel

/-- A token enters the drive queue of the bank upstream of its plate (R88, R223). -/
theorem test_plate :
    (((run (.plate 0 5) (withJob jp)).press 0).slot 5 |>.any fun j => decide (j.next = 1 ∧ j.tag = 1)) ∧
      ((run (.plate 0 5) (withJob jp)).press 0).banks.map (fun e => e.2.driveQueue.length) = [1] := by decide +kernel

/-- StippleBatches: a batch that is issued. -/
theorem wit_StippleBatches_issues : StippleIssues (withJob js) 0 js := by unfold StippleIssues; decide +kernel

/-- A job of macro 0 with one token of four rows on lane 0, on a macro whose first row group holds 1 in row 0. -/
def js1 : Job := { j0 opStipple with desc := { d0 opStipple with macroSet := 1 }, m := 1 }

/-- The press after that job's token took its lane. -/
def onLane : State :=
  run (.stipple 0 5) ((withJob js1).updPress 0 fun r => { r with macros := [(0, { valid := 1, weights := [(0, 1)] })] })

/-- StippleBatches: each reason why no batch is issued, a macro that is FAILED, and an input bit that is admitted. -/
theorem wit_StippleBatches :
    runningJob (withJob js) 0 5 opStipple = some js ∧ js.desc.scaleSource ≠ 2 ∧
      (∀ m ∈ jobMacros js.desc, (((withJob js).press 0).macro' m).state ≠ .failed) ∧
      (∀ m ∈ jobMacros js.desc, macroWaits (withJob js) 0 js m = false) ∧
      (∃ m ∈ jobMacros js.desc, macroWaits ((withJob js).updPress 0 fun r => { r with macros := [(1, { state := .reloading })] }) 0 js m = true) ∧ batchTokens (withJob js) 0 js = [0] ∧
      (readLanes (withJob js) 0 js [0]).toOption.isSome ∧ macroPlaces js.desc = [(0, 0, 0), (1, 1, 64)] ∧
      ({ js with next := 1 } : Job).m ≤ 1 ∧
      (∃ m ∈ jobMacros js.desc, (({ p0 with macros := [(1, { state := .failed })] } : PressRec).macro' m).state = .failed) ∧
      macroPlaces js1.desc = [(0, 0, 0)] ∧ ((onLane.press 0).slot 5).any (fun j =>
        (nextLane ((onLane.press 0).macro' 0) j 0).any (fun e => decide (e.1 = 0 ∧ e.2.2.mode16 j = false)) &&
          decide (j.batch.length = 1 ∧ usesFelt j = false)) ∧
      admits onLane 0 (.bit false) 1 = true ∧ onLane.gov.credits = none := by
  decide +kernel

/-- A command issues the next input bit of the lane (R155), once all are issued the batch waits for its drain (R168). -/
theorem test_stipple :
    (((run (.stipple 0 5) onLane).press 0).slot 5 |>.any fun j => decide (j.batch.map (fun l => l.runs.map (·.issued)) = [[1]])) ∧
      (((run (.stipple 0 5) (withJob js)).press 0).slot 5 |>.any fun j => decide (j.batch.length = 1 ∧ j.next = 1)) := by
  decide +kernel

/-- A running drain job of macro 0 whose registers hold 5 at the first. -/
def drained (op : BitVec 8) : State :=
  (withJob { j0 op with desc := { d0 op with macroSet := 1 } }).updPress 0 fun r =>
    { r with macros := [(0, { acc := [(0, 5)] })] }

/-- Drains: both jobs before and after their drain is accepted, of a bank and of macros, and a STIPPLE job with a batch. -/
theorem wit_Drains :
    runningJob (drained opDrainRead) 0 5 opDrainRead = some { j0 opDrainRead with desc := { d0 opDrainRead with macroSet := 1 } } ∧
      runningJob (withJob (j0 opDrainClear)) 0 5 opDrainClear = some (j0 opDrainClear) ∧ (j0 opDrainClear).desc.macroSet = 0 ∧
      (j0 opDrainClear).draining = false ∧ ({ j0 opDrainRead with draining := true } : Job).draining = true ∧
      daddr (j0 opDrainRead).desc.dstAddress = .scratch 0 0 ∧ base.physPress 0 0 = some 0 ∧ (j0 opDrainRead).vp = none ∧
      packAcc {} = 0 ∧ pressIssues base 0 = true ∧
      pressCommits base 0 = true ∧ usesFelt js1 = false ∧
      js1.desc.accMode16 = false ∧ pressCommits svc 0 = false := by
  decide +kernel

/-- Press 0 with a clearing drain of macro 0, a STIPPLE job on a lane of it, and a PLATE job whose operand is on it. -/
def clearing : State :=
  ((onLane.setSlot 0 6 (((onLane.press 0).slot 5).map fun j => { j with order := 1 })).setSlot 0 5
    (some { j0 opDrainClear with desc := { d0 opDrainClear with macroSet := 1 } })).setSlot 0 7 (some (jop 1))

/-- Drains: the jobs whose spans a clearing drain cuts, a job that it leaves, and the batch that a drain of the job takes. -/
theorem wit_Drains_spans :
    runningJob clearing 0 5 opDrainClear = some { j0 opDrainClear with desc := { d0 opDrainClear with macroSet := 1 } } ∧
      ((clearing.press 0).slot 6).any (fun j => decide (j.state = .running ∧ j.desc.opcode = opStipple ∧ j.batch.length = 1) &&
        (j.batch.all fun l => decide (l.runs.length = (macroPlaces j.desc).length) && l.runs.all fun r => r.out.isNone) &&
        (macroPlaces j.desc).all fun e => (jobMacros { d0 opDrainClear with macroSet := 1 }).contains e.2.1) = true ∧
      (clearing.press 0).slot 7 = some (jop 1) ∧ (operand0 1).started = true ∧ (operand0 1).mac ∈ jobMacros { d0 opDrainClear with macroSet := 1 } ∧
      (j0 opMacroLoad).batch = [] ∧ ({ js1 with draining := true } : Job).state = .running := by decide +kernel

/-- A clearing drain leaves 0, notes its wait and holds what stood there (R168, R230). -/
theorem test_drain :
    (((run (.drainClear 0 5 3) (drained opDrainClear)).press 0).macro' 0).acc = [] ∧
      ((run (.drainClear 0 5 3) (drained opDrainClear)).press 0).drainWaitMax = 5 ∧
      (((run (.drainClear 0 5 3) (drained opDrainClear)).press 0).slot 5 |>.any fun j => decide (j.drainWords.take 1 = [5])) ∧
      (((run (.drainRead 0 5 3) (drained opDrainRead)).press 0).macro' 0).acc = [(0, 5)] := by decide +kernel

/-- A running load of groups 0 and 3 of macro 0, or of none. -/
def jl (n : BitVec 32) : Job := { j0 opMacroLoad with desc := { d0 opMacroLoad with macroSet := 1, n := n } }

/-- MacroLoadsAndScrub: loads of no group and of two; a group that loads and one that does not; a row of a valid group; a
reload with and without its source. -/
theorem wit_MacroLoadsAndScrub :
    runningJob (withJob (jl 9)) 0 5 opMacroLoad = some (jl 9) ∧ loadSources (jl 0) = [] ∧ (loadSources (jl 9)).map Prod.fst = [0, 3] ∧
      (jl 9).loading = false ∧ (readRanges (withJob (jl 9)) 0 (jl 9) ((loadSources (jl 0)).map fun e => ⟨parseAddr e.2.2, 16384, .input⟩)).toOption.isSome ∧
      nbit ({ loading := 8 } : MacroRec).loading.toNat 3 = true ∧ nbit ({ loading := 8 } : MacroRec).loading.toNat 0 = false ∧
      (∀ a ∈ jobMacros (jl 8).desc, ∀ b ∈ maskGroups ((jl 8).desc.n.toNat % 16),
        nbit (({ p0 with macros := [(0, { loading := 8 })] } : PressRec).macro' a).loading.toNat b = true → a = 0 ∧ b = 3) ∧
      nbit ({ valid := 8, scrubRow := 1023 } : MacroRec).valid.toNat (1023 / 256) = true ∧
      ({ state := .reloading, reload := [3, 0] } : MacroRec).reload = 3 :: [0] ∧ (List.replicate 8 Ecc.double).length = 8 ∧ twf none (base.press 0).slots = true := by
  decide +kernel

/-- No vat swaps in the base state, and the loads of a row group's source are there. -/
theorem wit_NoSwap : NoSwap base ∧ (readRecord 0 0 0 {} base).1.isSome = true ∧ recordHeld base 0 0 0 {} = false ∧
    spansHeld base 0 0 0 = false ∧ openSpans base 0 0 0 = [] := by
  unfold NoSwap
  decide +kernel

/-- A record of a load from page 1 of vat 0, and one of a vat that does not have the press. -/
def record1 (v : BitVec 8) : LoadRecord := { vat := v, source := 0x400000000800 }

/-- Press 0 with a token on a lane whose input is in page 1 of vat 0. -/
def laneOf1 : State :=
  onLane.setSlot 0 5 (((onLane.press 0).slot 5).map fun j => { j with desc := { j.desc with srcAddress := 0x400000000800 } })

/-- MacroLoadsAndScrub: a source and an input of a span under copy, and a source that no longer belongs to the vat; a load
whose source is under copy. -/
theorem wit_Reloads :
    recordHeld (copies0 1 base) 0 0 0 (record1 0) = true ∧ spansHeld (copies0 1 laneOf1) 0 0 0 = true ∧
      openSpans onLane 0 0 0 ≠ [] ∧ (readRecord 0 0 0 (record1 1) base).1 = none ∧ recordHeld base 0 0 0 (record1 1) = false ∧
      failOf (readRanges (copies0 1 (withJob (jl 9))) 0 (jl 9) [⟨.package 2048, 16384, .input⟩]) = some .held := by decide +kernel

/-- Press 0 with macro 1 in a state. -/
def macroSt (x : MacroRec) : State := base.updPress 0 fun r => { r with macros := [(1, x)] }

/-- Eight words of a row, with an error in the first. -/
def row (e : Ecc) : List Ecc := e :: List.replicate 7 .clean

/-- Scrubbing: a single error counts; a double one reloads the group, and a reload that fails is MACRO_FAILED (R183, R184). -/
theorem test_scrub :
    ((run (.scrubRow 0 1 (row .single)) (macroSt { valid := 8, scrubRow := 1023 })).press 0).eccCorrected = 1 ∧
      (((run (.scrubRow 0 1 (row .double)) (macroSt { valid := 8, scrubRow := 1023 })).press 0).macro' 1).reload = [3] ∧
      (((run (.scrubRow 0 1 (row .double)) (macroSt { valid := 8, scrubRow := 1023 })).press 0).macro' 1).scrubRow = 0 ∧
      ((run (.scrubRow 0 1 [.single, .double, .single, .clean, .clean, .clean, .clean, .clean])
        (macroSt { valid := 8, scrubRow := 1023 })).press 0).eccCorrected = 2 ∧
      ((run (.stippleReloadDone 0 1 false) (macroSt { state := .reloading, reload := [3] })).press 0).state ≠ .active := by
  decide +kernel

/-- A MACRO_LOAD of no group ends at once; a group that does not load stays as it is (R153, R229). -/
theorem test_macroLoad :
    (((run (.macroLoad 0 5) (withJob (jl 0))).press 0).slot 5 |>.any fun j => decide (j.state = .posting)) ∧
      (((run (.rowGroupLoadDone 0 1 0) (macroSt { loading := 8 })).press 0).macro' 1).loading = 8 := by
  decide +kernel

/-! ## The dictionary, USDO, sessions, the node and reports -/

/-- A plain READ request of NewestEvent in a mailbox. -/
def readReq : List Byte := [1, 0, 1, 0, 0x20, 0x2D, 4, 0, 0, 0, 0, 0, 0, 0, 0, 0]

/-- A SEALED WRITE request of stream 0 with Counter 1, no Data and a tag of zeros. -/
def sealedReq : List Byte := [2, 1, 3, 0, 0x20, 0x2D, 0, 0, 0, 0, 0, 0, 0, 0, 0, 0, 1] ++ List.replicate 23 0

/-- A request that waits in the mailbox of function 0. -/
def inMailbox (req : List Byte) : State :=
  base.updFn 0 fun r => { r with busy := true, request := req, requestLength := BitVec.ofNat 12 req.length }

/-- DictionaryAccess: an index that is there and one that is not, a DOMAIN to its last byte, writes that pass and fail. -/
theorem wit_DictionaryAccess :
    indexOf 0x5000 = none ∧ plainIndex 0x5000 = false ∧ svc.dev.started = true ∧ plainIndex 0x1017 = true ∧
      indexOf 0x1017 = none ∧ (indexOf 0x2D20).any (fun e => readsAny svc .H e.2) = true ∧
      (objAt 0x2D20 4).any (fun e => e.r.any (holds svc .H e.owner) && decide (e.ty = .dom 0 0 ∧ 24 ≤ (e.get svc .H).length)) = true ∧
      (objAt 0x2D20 1).any (fun e => !e.r.any (holds svc (.T 7) e.owner) && !e.r.contains .d) = true ∧
      (objAt 0x2D20 3).any (fun e => decide (writeCheck svc .M false e 0 [1, 0, 0, 0] = resOk ∧
        writeCheck svc .M false e 0 [1] = resLength ∧ writeCheck svc (.V 1) false e 0 [1, 0, 0, 0] = resRights)) = true ∧
      (objAt 0x1017 0).any (fun e => decide (writeCheck svc .M false e 0 [1, 0] = resOk)) = true := by
  decide +kernel

/-- DictionaryAccess: requests in a mailbox that are plain, of 15 and of 16 bytes, that wait, and SEALED ones whose stream is
OPEN, with a new Counter and one that is not. -/
theorem wit_DictionaryAccess_mailbox :
    fnDecodes svc 0 = true ∧ fnDecodes svc 8 = false ∧ (svc.fn 0).busy = false ∧ ((inMailbox readReq).fn 0).busy = true ∧
      ((inMailbox readReq).fn 0).sealedData = none ∧ (parseHeader (slice readReq 0 16)).op = 1 ∧
      requestFault (parseHeader (slice readReq 0 16)) 16 = none ∧ requestFault (parseHeader (slice readReq 0 16)) 15 = some resLength ∧
      (runRequest writeEntry .H (parseHeader (slice readReq 0 16)) [] (inMailbox readReq)).1 = resOk ∧
      requestFault (parseHeader (slice sealedReq 0 16)) 40 = none ∧ requestFault (parseHeader (slice sealedReq 0 16)) 39 ≠ none ∧
      (parseHeader (slice sealedReq 0 16)).mode = 1 ∧ (parseHeader (slice sealedReq 0 16)).stream = 0 ∧
      base.streamVat 0 = some 0 ∧ serves base 0 0 = true ∧ serves base 8 0 = false ∧ (base.stream 0).state = .opened ∧
      (base.stream 4095).state ≠ .opened ∧ (base.stream 0).key = some 9 ∧
      (base.stream 0).inbound < BitVec.ofNat 64 (leAt sealedReq 16 8) ∧
      BitVec.ofNat 64 (leAt (List.replicate 40 0) 16 8) ≤ (base.stream 0).inbound := by
  decide +kernel

/-- DictionaryAccess: where the tag that the standard gives is 0, the SEALED request opens. -/
theorem wit_DictionaryAccess_sealed (h : Config.gcmTag 9 (sealNonce false 0 1) (sealedReq.take 16) [] = 0) :
    openSealed 9 0 sealedReq = some [] := if_pos h

/-- NewestEvent is read through the dictionary, and a mailbox request is answered (R389, R393). -/
theorem test_dictionary :
    (run (.dictRead (.direct .H 0x2D20 1 0 4)) svc).mgmt.data = [0, 0, 0, 0] ∧
      (run (.dictWrite (.direct .M 0x1017 0 0 [1, 2])) svc).settings.heartbeatTime = 0x201 ∧
      (run (.dictRead (.direct .H 0x5000 1 0 4)) svc).mgmt.result = resNoObject ∧
      ((run (.dictGo 0 .four { regs := [⟨0, 0x301000, .four, readReq⟩, ⟨0, 0x300008, .four, [16, 0, 0, 0]⟩] }) base).fn 0).busy = true ∧
      ((run (.dictGo 0 .eight {}) base).fn 0).busy = false ∧
      ((run (.dictRead (.mailbox 0)) (inMailbox readReq)).fn 0).done = true ∧
      ((run (.dictRead (.mailbox 0)) (inMailbox readReq)).fn 0).response.length = 20 := by decide +kernel

/-- A session 6 that is ACTIVE, with its last Counter. -/
def session (n : Option (BitVec 32)) : Session := { id := 6, key := 5, last := n, kept := [7] }

/-- A device with that session ACTIVE. -/
def inSession (n : Option (BitVec 32)) : State := { svc with mgmt := { svc.mgmt with active := some (session n) } }

/-- A request of a session: Counter, READ of 4 bytes of SessionId, and its tag. -/
def sessionReq (n : Byte) (op : Byte) (x : Session) : List Byte :=
  ([n, 0, 0, 0, op, 0, 6, 0, 0x10, 0x2D, 4, 0, 0, 0, 0, 0, 0, 0, 0, 0]) ++
    sessionTag x 0 ([n, 0, 0, 0, op, 0, 6, 0, 0x10, 0x2D, 4, 0, 0, 0, 0, 0, 0, 0, 0, 0])

/-- The tag of a message has 16 bytes. -/
theorem sessionTag_length (x : Session) (d : Byte) (l : List Byte) : (sessionTag x d l).length = 16 := rfl

/-- A session offer: Magic, version 1 and twice the base point of SM2. -/
def sessionOffer : List Byte :=
  [0x4F, 0x5A, 0x4D, 0x4F, 1, 0, 0, 0] ++ (beBytes 64
    0x32C4AE2C1F1981195F9904466A39C9948FE30BBFF2660BE1715A4589334C74C7BC3736A2F4F6779C59BDCEE36B692153D0A9877CC62A474002DF32E52139F0A0) ++
    (beBytes 64
    0x32C4AE2C1F1981195F9904466A39C9948FE30BBFF2660BE1715A4589334C74C7BC3736A2F4F6779C59BDCEE36B692153D0A9877CC62A474002DF32E52139F0A0) ++
    List.replicate 16 0

/-- A device whose owner's key is the offered one. -/
def owned : State := { svc with otp := { ownerDigest := Config.sm3 (slice sessionOffer 8 64) } }

/-- UsdoAndSessions: a server that answers and one that does not; downloads at and above 1,096 bytes, one that goes on and one
that breaks a transfer; an entry without "any" and entries with it; offers that fail, and one that waits for another. -/
theorem wit_UsdoAndSessions :
    usdoAnswers svc = true ∧ usdoAnswers { svc with mgmt := { svc.mgmt with nmt := .stopped } } = false ∧
      (List.replicate 1096 (0 : Byte)).length ≤ 1096 ∧ 1096 < (List.replicate 1097 (0 : Byte)).length ∧
      ({ svc.mgmt with usdo := some (0x1017, 0, [1]) } : Mgmt).usdo ≠ some (0x1000, 0, [1]) ∧
      ([1#8] ++ List.replicate 1095 0).length ≤ 1096 ∧ 1096 < ([1#8] ++ List.replicate 1096 0).length ∧
      svc.mgmt.usdoUp = none ∧ ({ svc.mgmt with usdoUp := some (0x1000, 0, [1]) } : Mgmt).usdoUp = some (0x1000, 0, [1]) ∧
      showsAny 0x1017 0 = true ∧ (writeEntry .anon 0x1017 0 0 [1, 0] svc).1 = resRights ∧
      (objAt 0x2D10 2).isSome ∧
      showsAny 0x2D20 5 = false ∧ (objAt 0x1000 0).any (fun e => e.r.contains .any) = true ∧ indexOf 0x1000 = none ∧
      (objAt 0x2D10 4).any (fun e => e.r.contains .any) = true ∧
      sessionOffer.length = 152 ∧ (List.replicate 152 (0 : Byte)).length = 152 ∧
      sessionOfferResult svc (List.replicate 152 0) = 1 ∧ svc.mgmt.offer = none ∧
      ({ svc.mgmt with offer := some sessionOffer } : Mgmt).offer ≠ none ∧
      leAt (sessionReq 1 1 (session none)) 4 1 ≠ 3 ∧ svc.mgmt.active = none := by
  decide +kernel

/-- UsdoAndSessions: an offer of the owner's key passes, whatever its digest is. -/
theorem wit_UsdoAndSessions_offer : sessionOfferResult owned sessionOffer = 0 := by
  unfold sessionOfferResult
  rw [if_neg (by decide +kernel), if_neg (fun h => h rfl), if_neg (by decide +kernel), if_neg (by decide +kernel)]

/-- The parts of a session's request: 20 bytes and the tag. -/
theorem sessionReq_take (n op : Byte) (x : Session) : (sessionReq n op x).take ((sessionReq n op x).length - 16) =
    [n, 0, 0, 0, op, 0, 6, 0, 0x10, 0x2D, 4, 0, 0, 0, 0, 0, 0, 0, 0, 0] := by
  simp [sessionReq, sessionTag_length]

/-- UsdoAndSessions: requests of the ACTIVE session above, at and below its Counter, a CLOSE, and the first request of a
PENDING one, each with the session's tag. -/
theorem wit_SessionRequests (x : Session) (n op : Byte) :
    36 ≤ (sessionReq n op x).length ∧ (sessionReq n op x).length ≤ 1060 ∧
      sessionTag x 0 ((sessionReq n op x).take ((sessionReq n op x).length - 16)) =
        (sessionReq n op x).drop ((sessionReq n op x).length - 16) := by
  rw [sessionReq_take]
  simp [sessionReq, sessionTag_length]

/-- What those requests say: Counter 3, READ of 4 bytes of SessionId, and CLOSE; 3 is above 2, below 4 and equal to itself. -/
theorem wit_SessionHeaders (x : Session) :
    BitVec.ofNat 32 (leNat (((sessionReq 3 1 x).take ((sessionReq 3 1 x).length - 16)).take 4)) = 3 ∧
      (parseHeader (((sessionReq 3 1 x).take ((sessionReq 3 1 x).length - 16)).drop 4)).op = 1 ∧
      (parseHeader (((sessionReq 3 1 x).take ((sessionReq 3 1 x).length - 16)).drop 4)).idx = 0x2D10 ∧
      (parseHeader (((sessionReq 3 1 x).take ((sessionReq 3 1 x).length - 16)).drop 4)).len = 4 ∧
      (parseHeader (((sessionReq 3 3 x).take ((sessionReq 3 3 x).length - 16)).drop 4)).op = 3 ∧
      (3 : BitVec 32) < 4 ∧ (3 : BitVec 32) ≠ 0xFFFFFFFF ∧ (session (some 2)).last = some 2 ∧ (2 : BitVec 32) < 3 := by
  simp only [sessionReq_take]
  decide +kernel

/-- The reads of a session's request (R386). -/
theorem wit_SessionRead : readEntry (inSession (some 2)) .M 0x2D10 6 0 4 = (resOk, [6, 0, 0, 0]) := by decide +kernel

/-- USDO: a download that is too long, an idle transfer, and an offer with a wrong Magic (R378, R381). -/
theorem test_usdo :
    (run (.usdoDownload 0x1017 0 [1, 2] .unfinished) svc).mgmt.usdo.isSome ∧
      (run .usdoTimeout (run (.usdoDownload 0x1017 0 [1, 2] .unfinished) svc)).mgmt.usdoAbort = 0x05040000 ∧
      (run (.usdoUpload 0x1000 ⟨0, .whole⟩) svc).mgmt.usdoData = [0, 0, 0, 0] ∧
      (run (.sessionOffer (List.replicate 152 0)) svc).mgmt.authFailures = 1 := by decide +kernel

/-- USDO in segments: an upload goes on and ends, another request aborts it, and a download takes its segments (R378). -/
theorem test_usdo_segments :
    (run (.usdoUpload 0x1000 ⟨0, .more 3⟩) (run (.usdoUpload 0x1000 ⟨0, .first 1⟩) svc)).mgmt.usdoData = [0, 0, 0, 0] ∧
      (run (.usdoUpload 0x1000 ⟨0, .first 1⟩) svc).mgmt.usdoUp = some (0x1000, 0, [0, 0, 0]) ∧
      (run (.usdoDownload 0x1017 0 [1] .unfinished) (run (.usdoUpload 0x1000 ⟨0, .first 1⟩) svc)).mgmt.usdoBroken = some (0x1000, 0) ∧
      (run (.usdoDownload 0x1017 0 [2] .more) (run (.usdoDownload 0x1017 0 [1] .unfinished) svc)).mgmt.usdo = some (0x1017, 0, [1, 2]) ∧
      (run .usdoTimeout (run (.usdoUpload 0x1000 ⟨0, .first 1⟩) svc)).mgmt.usdoAbort = 0x05040000 := by decide +kernel

/-- Sessions: idle time closes one; an exchange without an offer and a CLOSE that is none change nothing (R382). -/
theorem test_sessions :
    (run .sessionIdleTimeout (inSession none)).mgmt.active = none ∧ (run .sessionIdleTimeout (inSession none)).events.newest = 1 ∧
      nextOf (exec .sessionExchangeDone svc) = some svc ∧ nextOf (exec (.sessionClose []) svc) = some svc ∧
      (run (.sessionRequest (List.replicate 36 0)) svc).mgmt.authFailures = 1 := by decide +kernel

/-- NodeAndBus: a node that listens, one that does not, one that may send, and each counter at its bound. -/
theorem wit_NodeAndBus :
    nmtListens State.reset = false ∧ nmtListens svc = true ∧ canSends svc = true ∧ canSends State.reset = false ∧
      ({ heartbeatTime := 0 } : Settings).heartbeatTime = 0 ∧ ({ heartbeatTime := 5 } : Settings).heartbeatTime ≠ 0 ∧
      svc.mgmt.nmt ≠ .initialising ∧ svc.events.emcy = [] ∧ (run (.aerErrorLogged 1) svc).events.emcy.length = 1 ∧
      svc.mgmt.busOff = false ∧ 255 < (256#9).toNat ∧ ¬ 255 < (255#9).toNat ∧
      (run (.canBusError 256 0) svc).mgmt.busOff = true := by decide +kernel

/-- NMT commands, heartbeat, EMCY and bus-off (R372, R376, R377, R398). -/
theorem test_node :
    (run .nmtStopRemoteNode svc).mgmt.nmt = .stopped ∧ (run .nmtEnterPreOperational svc).mgmt.nmt = .preOperational ∧
      (run .nmtResetNode svc).mgmt.lastFrame = some ⟨0x701, [0], true, false⟩ ∧
      (run .heartbeat { svc with settings := { heartbeatTime := 5 } }).mgmt.lastFrame = some ⟨0x701, [5], true, false⟩ ∧
      (run .emcySend (run (.aerErrorLogged 1) svc)).events.emcy = [] ∧
      (run .busOffRecovery (run (.canBusError 256 0) svc)).mgmt.recoveries = 1 := by decide +kernel

/-- NMT start and reset communication (R376). -/
theorem test_nmt :
    (run .nmtStartRemoteNode (run .nmtEnterPreOperational svc)).mgmt.nmt = .operational ∧
      (run .nmtResetCommunication svc).mgmt.nmt = .preOperational := by decide +kernel

/-- EventsAndReports: principals with and without the rights of slots 0, 1 and 9; a slot that is BUILDING; a queue. -/
theorem wit_EventsAndReports :
    svc.dev.started = true ∧ (slotRights 0).1.any (holds svc .M (slotRights 0).2) = true ∧
      (slotRights 1).1.any (holds svc .M (slotRights 1).2) = false ∧
      (slotRights 9).1.any (holds svc (.T 7) (slotRights 9).2) = true ∧ (List.replicate 32 (0 : Byte)).length = 32 ∧
      (svc.report 0).status ≠ .building ∧ ({ status := .building } : Report).status = .building ∧ svc.reportQueue = [] ∧
      ({ svc with reportQueue := [9] } : State).reportQueue = 9 :: [] ∧ (.V 1 : Principal) ≠ .M ∧ (.V 1 : Principal) ≠ .H := by
  decide +kernel

/-- A report waits BUILDING, and READY once built (R362, R363). -/
theorem test_reports :
    ((run (.reportRequest .M 0 (List.replicate 32 0)) svc).report 0).status = .building ∧
      ((run .reportBuilt { svc with reports := [(0, { status := .building })], reportQueue := [0] }).report 0).status = .ready ∧
      (run (.eventQuery .H 4) svc).events.queryH = 4 ∧ (run (.eventAck .H 4) svc).mgmt.result = resRights ∧
      (run (.eventAck .M 4) svc).events.ack = 4 := by decide +kernel

/-! ## Reams, swaps and engraving -/

/-- Vat 0 with a load on an OPEN stream of 16 bounce blocks. -/
def loading (l : Load) (mem : Tab Byte) : State :=
  { base with
    vats := [(0, { v0 with load := l })]
    streams := [(0, { state := .opened, key := some 9, cfg := { bounceBlocks := 16 } })], hostMem := mem }

/-- A load that fetches its manifest of 368 bytes at offset 0. -/
def fetching : Load := { state := .fetching, length := 368 }

/-- A manifest with one edition, one device and one quire, its numbers, keys and signatures zeros. -/
def manifestMem : Tab Byte :=
  [(0, 0x4F), (1, 0x5A), (2, 0x52), (3, 0x4D), (4, 1), (16, 1), (18, 1), (20, 1), (264, 128)]

/-- The digest of the publisher key of that manifest. -/
def publisher : BitVec 256 := Config.sm3 (List.replicate 64 0)

/-- Vat 0 with that manifest in its bounce region and that publisher. -/
def manifested : State := { loading fetching manifestMem with vats := [(0, { v0 with load := fetching, publisherKey := publisher })] }

/-- The manifest of a load, read. -/
def man0 : Manifest :=
  { reamId := 0, publisherKey := 0, digest := 0, isProtected := false, editionCount := 1, stagedPages := 0
    own := [(4, 128, Config.sm3 quire0)], foreign := [5] }
where
  /-- A quire of 128 bytes without sections, its numbers, signature and tag zeros apart from the quire number 4. -/
  quire0 : List Byte := [0x4F, 0x5A, 0x52, 0x51, 1, 0, 0, 0, 0, 0, 0, 0, 0, 0, 0, 0, 4] ++ List.replicate 111 0

/-- A load with that manifest that reads quire 4. -/
def quireLoad : Load :=
  { fetching with manifest := some man0, contentKey := some 5, reading := [(4, 0)], expected := 1 }

set_option maxRecDepth 20000 in
/-- ReamLoads: each state of the load, a range at and above the bounce region, a manifest that is not one, a post of a foreign
and of an own quire, and a load with and without a swap from its ream. -/
theorem wit_ReamLoads :
    svc.dev.started = true ∧ (List.replicate 16 (0 : Byte)).length = 16 ∧ vt.any (holds base .H (.vat 0)) = true ∧
      fetching.state = .fetching ∧ ({ state := .staged } : Load).state = .staged ∧ (base.vat 0).load.state ≠ .fetching ∧
      (base.vat 0).load.state ≠ .staged ∧ (base.vat 0).debug = .off ∧ (base.stream 0).state ≠ .free ∧
      ((loading {} []).stream 0).bounceBytes = 65536 ∧ (base.stream 0).bounceBytes < 1 ∧ base.streamVat 0 = some 0 ∧
      base.streamVat 2 = none ∧ fetching.manifest = none ∧ fetching.offset + fetching.length ≤ ((loading {} []).stream 0).bounceBytes ∧
      (match checkManifest (loading fetching []) 0 (List.replicate 368 0) with
        | .error c => c
        | .ok _ => 0) = fcFormat ∧
      man0.foreign.contains 5 = true ∧ man0.foreign.contains 4 = false ∧ field (0x0004000000000000#64).toNat 63 48 = 4 ∧
      (man0.own.find? fun x => decide (x.1 = 4)).isSome ∧ fetching.verified.contains 4 = false ∧
      (fetching.reading.any fun x => decide (x.1 = 4)) = false ∧ quireLoad.verified.length + 1 = quireLoad.expected ∧
      ({ quireLoad with expected := 2 } : Load).verified.length + 1 ≠ 2 ∧
      (base.vat 0).swap.active = false ∧ ({ active := true, fromPending := true } : Swap).fromPending = true := by
  decide +kernel

set_option maxRecDepth 20000 in
/-- ReamLoads: the manifest above passes once the standards accept its signature and its wrapped key. -/
theorem wit_ManifestPasses (key : BitVec 128)
    (h : Config.sm2Verify 0 (slice (manifested.hostRead 0 368) 0 304) 0 = true)
    (h2 : Config.sm2Unwrap 0 (List.replicate 112 0) = some key) :
    ∃ m, checkManifest manifested 0 (manifested.hostRead 0 368) = .ok (m, key) := by
  have h0 : manifested.hostRead 0 368 = lpad 0 368 (manifested.hostRead 0 368) := by decide +kernel
  have hk : slice (manifested.hostRead 0 368) 32 64 = List.replicate 64 0 := by decide +kernel
  have hb : (manifested.hostRead 0 368).take 304 = slice (manifested.hostRead 0 368) 0 304 := by decide +kernel
  have ho : ownRecords manifested (manifested.hostRead 0 368) = [0] := by decide +kernel
  have hu : slice (deviceRecord (manifested.hostRead 0 368) 0) 32 112 = List.replicate 112 0 := by decide +kernel
  have hi : manifested.dev.identityKey.getD 0 = 0 := by decide +kernel
  have hl : (manifested.hostRead 0 368).length - 64 = 304 := by decide +kernel
  have hs : ofBytes 512 (slice (manifested.hostRead 0 368) 304 64) = 0 := by decide +kernel
  have hp : ofBytes 512 (List.replicate 64 0) = 0 := by decide +kernel
  unfold checkManifest
  simp only [hk, ho, hu, hi, hl, hb, hs, hp, h, h2]
  rw [if_neg (by decide +kernel), if_neg ?_, if_neg (by decide), if_neg (by decide +kernel), if_neg (by decide +kernel)]
  · exact ⟨_, rfl⟩
  · rintro (h' | ⟨h', _⟩)
    · exact h' rfl
    · exact absurd h' (by decide +kernel)

set_option maxRecDepth 20000 in
/-- ReamLoads: a quire without sections is staged once the standards accept its signature and its tag; one with another digest
fails unless the digests meet. -/
theorem wit_QuirePasses (h : Config.sm2Verify 0 (man0.quire0.take 64) 0 = true)
    (h2 : Config.gcmTag 5 4 (man0.quire0.take 40) [] = 0) :
    (openQuire (loading quireLoad []) man0 5 4 (Config.sm3 man0.quire0) man0.quire0).bind
      (stageQuire (loading quireLoad []) 0 man0 [] true) = .ok [] := by
  have hd : man0.quire0.drop 128 = [] := by decide +kernel
  have ht : man0.quire0.take 64 ++ [] = man0.quire0.take 64 := by decide +kernel
  have hs : ofBytes 512 (slice man0.quire0 64 64) = 0 := by decide +kernel
  have hk : man0.publisherKey = 0 := rfl
  have hg : gcmOpen 5 4 (man0.quire0.take 40) [] 0 = some [] := by
    unfold gcmOpen
    rw [if_pos h2]
    rfl
  have ho : openQuire (loading quireLoad []) man0 5 4 (Config.sm3 man0.quire0) man0.quire0 = .ok [] := by
    unfold openQuire
    simp only [hd, ht, hs, hk, h]
    rw [if_neg (fun h => h rfl), if_neg (by decide), if_neg (by decide +kernel)]
    have hn : BitVec.ofNat 96 (man0.reamId.toNat * 2 ^ 32 + 4) = 4 := by decide +kernel
    have hg' : tagOf (slice man0.quire0 40 16) = 0 := by decide +kernel
    rw [hn, hg', hg]
  rw [ho]
  rfl

/-- A staged ream that holds the first staging page of vat 0. -/
def staged0 : State :=
  { base with
    vats := [(0, { v0 with stagingPages := 1, pendingReam := some { ream0 with held := [0] }, load := { state := .staged } })]
    hubs := { base.hubs with map := tput {} base.hubs.map 65539 { base.pageEntry 65539 with use := .staging } } }

/-- A ream that is dropped leaves the staging pages that it held zero (R311, R317). -/
theorem test_dropped :
    pendingFrames staged0 0 = [65539] ∧
      (run (.reamCancel .H 0) { staged0 with hubs := { staged0.hubs with mem := [(2048 * 65539, 7)] } }).frameRead 65539 0 1 = [0] := by
  decide +kernel

/-- REAM_LOAD begins to fetch; a cancel aborts it; a manifest that is none fails it (R312, R317, R318). -/
theorem test_reamLoad :
    ((run (.reamLoad .H 0 (List.replicate 16 0) {}) (loading {} [])).vat 0).load.state = .fetching ∧
      ((run (.reamCancel .H 0) (loading fetching [])).vat 0).load.state = .aborted ∧
      ((run (.manifestReadDone 0 true) (loading fetching [])).vat 0).load.failCause = fcFormat := by decide +kernel

/-- A post of a foreign quire counts, a timeout names the missing quire (R316, R317). -/
theorem test_quires :
    ((run (.quirePost .H 0 0x0005000000000000 {}) (loading { quireLoad with reading := [] } [])).vat 0).foreignPosts = 1 ∧
      ((run (.quireTimeout 0) (loading quireLoad [])).vat 0).load.failedQuire = 4 ∧
      ((run (.quireReadDone 0) (loading fetching [])).vat 0).load = fetching := by decide +kernel

/-- A vat with an active ream of two editions, one press and its grant of engraving power. -/
def swappable : State :=
  { base with vats := [(0, { v0 with active := some ream0 })], gov := { grants := [0, 0, 250, 0] } }

/-- A press that engraves plate 3. -/
def biting (e : EngRec) : State := base.updPress 0 fun r => { r with engraving := some e }

/-- The engraving of a content on plate 3 with one line left. -/
def eng0 (ph : EngPhase) (ls : List Nat) : EngRec :=
  { plate := 3, purpose := .engage, cls := 2, phase := ph, content := some { codes := [1], epoch := 6 }, lines := ls, pulsed := true }

/-- SwapsAndEngraving, the requests: refused and accepted ones; a queue with power and without. -/
theorem wit_Swaps :
    (base.vat 0).active = none ∧ (swappable.vat 0).active = some ream0 ∧ (swappable.vat 0).state = .serving ∧
      (swappable.vat 0).swap.active = false ∧ ream0.editionCount ≤ field (2#32).toNat 5 0 ∧ field (0x10001#32).toNat 5 0 < ream0.editionCount ∧
      BitVec.ofNat 16 (field (1#32).toNat 31 16) = (swappable.vat 0).currentEpoch ∧
      BitVec.ofNat 16 (field (0x10001#32).toNat 31 16) ≠ (swappable.vat 0).currentEpoch ∧
      nbit (0x10001#32).toNat 15 = false ∧ swapPresses swappable 0 = [0] ∧ (swappable.vatPresses 0) = [0] ∧
      ((swappable.press 0).plate 3).ready = none ∧ olderTablesUsed swappable 0 = false ∧
      engravingLimit base = 0 ∧ engravingLimit swappable = 1 ∧ engravingsActive swappable = 0 ∧
      argMin EngReq.cls ([⟨2, 0, 3, .engage, none⟩, ⟨1, 0, 4, .reengrave, none⟩].filter
        (grantable (swappable.updPress 0 fun r => { r with engageChecked := true }))) = some ⟨1, 0, 4, .reengrave, none⟩ := by
  decide +kernel

/-- SwapsAndEngraving, the requests: an epoch in force that no list names yet, and no poisoned word. -/
theorem wit_SwapEpochs : (∀ e ∈ (swappable.vat 0).epochs, e.1 ≠ (swappable.vat 0).currentEpoch) ∧ ∀ f i, swappable.poisoned f i = false :=
  ⟨fun e h => by rw [show (swappable.vat 0).epochs = [] from rfl] at h; exact absurd h (List.not_mem_nil), fun f i => by unfold State.poisoned; exact (rfl : tget false [] _ = false)⟩

/-- Press 0 with an engraving in a window with some engraving energy left. -/
def priced (n : Nat) (e : EngRec) : State := { biting e with gov := { credits := some [0, 0, n] } }

/-- SwapsAndEngraving, the bites: pulses unpaid, paid for, and waiting; a line in its windows, one with a failed cell below and
at BiteLimit. -/
theorem wit_Bites :
    (base.press 0).engraving = none ∧ pressBites base 0 = true ∧ pressBites svc 0 = false ∧
      ((biting (eng0 .bites [6])).press 0).engraving = some (eng0 .bites [6]) ∧ (eng0 .bites [6]).held = false ∧
      ({ eng0 .bites [6] with pulsed := false } : EngRec).pulsed = false ∧ (eng0 .bites [6]).pulsed = true ∧
      admits (biting (eng0 .bites [6])) 0 .bite 1 = true ∧
      cellsOf ((base.press 0).plate 3) 6 [] = [] ∧ cellsOf ((base.press 0).plate 3) 6 [511] = [511] ∧
      (eng0 .bites [6]).bites + 1 < ({} : Settings).biteLimit.toNat ∧
      ({} : Settings).biteLimit.toNat ≤ ({ eng0 .bites [6] with bites := 255 } : EngRec).bites + 1 ∧
      ((base.press 0).plate 3).state ≠ .retired ∧ lineColumn ((base.press 0).plate 3) 6 = (3, false) ∧
      replacedBy ((base.press 0).plate 3).colMap (3 / 32) = none := by decide +kernel

/-- SwapsAndEngraving, the bites: a proof cell at 6 and at 7 LSB of what it should read, and pulses of a spare that are paid for. -/
theorem wit_BitesSeen :
    outsideCells ((base.press 0).bank 3) [(511, 6)] = [] ∧ outsideCells ((base.press 0).bank 3) [(511, 7)] = [511] ∧
      ({ eng0 .bites [6] with pulses := 2 } : EngRec).pulses = 2 ∧
      admits (biting { eng0 .bites [6] with pulses := 2 }) 0 .pulse 1 = true := by decide +kernel

/-- A pulse of a spare that costs anything waits for the next window once nothing is left. -/
theorem wit_PulseWaits (h : 0 < price (priced 0 (eng0 .bites [6])) 0 .pulse) :
    admits (priced 0 (eng0 .bites [6])) 0 .pulse 1 = false := by
  have c : creditOf (priced 0 (eng0 .bites [6])) Work.pulse.cls = some 0 := rfl
  simp only [admits, c]
  exact decide_eq_false (by omega)

/-- A bite that costs anything waits for the next window once nothing is left. -/
theorem wit_BiteWaits (h : 0 < price (priced 0 (eng0 .bites [6])) 0 .bite) : admits (priced 0 (eng0 .bites [6])) 0 .bite 1 = false := by
  have c : creditOf (priced 0 (eng0 .bites [6])) Work.bite.cls = some 0 := rfl
  simp only [admits, c]
  exact decide_eq_false (by omega)

set_option maxRecDepth 20000 in
/-- SwapsAndEngraving, the check: errors at and above EngraveCheckLimit in either pass, a column without its spare. -/
theorem wit_EngravingCheck :
    pressPasses base 0 = true ∧ pressPasses svc 0 = false ∧ (eng0 .check []).lines = [] ∧
      checkFails 50 (lget ⟨0, 1⟩ (checkRatios (biting (eng0 .check [])) { codes := [1], epoch := 6 }).1 5) 50 = false ∧
      checkFails 50 (lget ⟨0, 1⟩ (checkRatios (biting (eng0 .check [])) { codes := [1], epoch := 6 }).1 5) 200 = true ∧
      checkFails 50 (lget ⟨0, 1⟩ (checkRatios (biting (eng0 .check [])) { codes := [1], epoch := 6 }).2 5) 200 = true ∧
      ({} : Settings).engraveCheckLimit = 50 ∧ (eng0 .verify []).phase ≠ .check ∧ (eng0 .recheck []).phase = .recheck ∧
      spareOf ((base.press 0).plate 3).colMap 32 5 = none ∧ replacedBy ((base.press 0).plate 3).colMap (5 / 32) = none := by
  decide +kernel

/-- Vat 0 in a swap to epoch 6 whose section is still being loaded into macro 1. -/
def inStep3 : State :=
  ((biting { eng0 .verify [] with purpose := .swap }).updVat 0 fun v =>
    { v with swap := { active := true, epoch := 6, stippleTodo := [(0, 1)] } }).updPress 0 fun r =>
      { r with macros := [(1, { loading := 1, records := [(0, { staged := some (7, 0) })] })] }

/-- SwapsAndEngraving, the end: a verify of each purpose, one that waits for step 3 of its swap, and a pulp. -/
theorem wit_EngravingDone :
    (eng0 .verify []).phase = .verify ∧ (eng0 .verify []).content.isSome ∧ (eng0 .verify []).purpose ≠ .refresh ∧
      inStep3.pressVat 0 = some 0 ∧ (inStep3.vat 0).swap.active = true ∧ (inStep3.vat 0).swap.epoch = 6 ∧
      nbit ((inStep3.press 0).macro' 1).loading.toNat 0 = true ∧
      (tget {} ((inStep3.press 0).macro' 1).records 0).staged.isSome = true ∧
      (eng0 .pulp []).phase = .pulp ∧ (3 : Plate) ≠ (base.press 0).refreshTarget ∧ (16 : Plate) = (base.press 0).refreshTarget ∧
      (payTowards 0 2 20 0 0 base).2.1 = true := by decide +kernel

/-- A swap request sets all plates to do; power goes to a waiting plate (R323, R325). -/
theorem test_swap :
    (run (.swapRequest .H 0 0x10001) swappable).mgmt.result = resOk ∧
      ((run (.swapRequest .H 0 0x10001) swappable).vat 0).incomingEpoch = some 1 ∧
      (run (.swapRequest .H 0 0x10002) swappable).mgmt.result = resRange ∧
      ((run .engravingStart { swappable with engQueue := [⟨1, 0, 4, .reengrave, none⟩] }).press 0).engraving.isSome := by decide +kernel

/-- A bite ends the last line, the check passes to the verify, and the plate becomes LIVE (R319 to R321, R440). -/
theorem test_engraving :
    (((run (.bite 0 []) (biting (eng0 .bites [6]))).press 0).engraving.map EngRec.phase) = some .check ∧
      (((run (.bite 0 [(511, 7)]) (biting (eng0 .bites [6]))).press 0).engraving.map EngRec.bites) = some 1 ∧
      (((run (.engravingCheck 0 []) (biting (eng0 .check []))).press 0).engraving.map EngRec.phase) = some .verify ∧
      (((run (.engravingCheck 0 [(5, 0, 200)]) (biting (eng0 .check []))).press 0).engraving.map EngRec.phase) = some .recheck ∧
      (((run (.engravingDone 0 [1]) (biting (eng0 .verify []))).press 0).plate 3).state = .live ∧
      (((run (.engravingDone 0 [1]) inStep3).press 0).plate 3).ready.isSome := by decide +kernel

/-- A pulp of a vat's plate leaves it BLANK (R352). -/
theorem test_platePulp :
    (((run (.platePulpDone 0) (biting { eng0 .pulp [] with purpose := .vatPulp, content := none })).press 0).plate 3).state = .blank := by
  decide +kernel

/-! ## Refresh, frames, banks, package memory, survey, governor and pins -/

/-- A clocked press with LIVE plates 0 to 15 that hold nothing. -/
def live0 : PressRec := { p0 with plates := (List.range 16).map fun q => (q, { state := .live }) }

/-- Vat 0 on that press, its record changed. -/
def withPress (f : PressRec → PressRec) : State := { base with presses := [(0, f live0)] }

/-- RefreshAndTrim: the ledger; a step that is due, not due, and in place; fences with trims, with a returned plate and with a
finished step; a wait that ends. -/
theorem wit_Refresh :
    (withPress id).dev.started = true ∧ (List.replicate 68 (0 : Byte)).length = 68 ∧ (List.replicate 67 (0 : Byte)).length ≠ 68 ∧
      live0.engravedOnce = false ∧ live0.state = .active ∧ refreshing (withPress id) 0 = false ∧ live0.stepAcc < stepGoal svc ∧
      stepGoal svc ≤ stepGoal svc ∧ (live0.plate 0).state = .live ∧ inPlacePlate { live0 with rotation := .stopped } = some 0 ∧
      inPlacePlate { p0 with rotation := .stopped } = none ∧ live0.clocked = true ∧ fencePlates live0 0 = [0] ∧
      (∀ x ∈ fencePlates live0 0, plateQuiet live0 x = true) ∧ twf none (live0.bank 0).pendingTrim = true ∧
      live0.returning = none ∧ (live0.refreshTarget.val + 1) % 17 = 0 ∧ live0.handover = false ∧ live0.fallbackBank = none ∧
      (∃ x ∈ fencePlates live0 0, plateQuiet { live0 with banks := [(15, { repeats := [{ slot := 5, token := 0, unit := 0 }] })] } x
        = false) ∧
      rotationHeld (withPress id) 0 = false ∧
      rotationHeld ((withPress id).updVat 0 fun v => { v with swap := { active := true } }) 0 = true ∧
      (∀ x ∈ fencePlates live0 0, atFence live0 x = true) ∧
      atFence { live0 with engraving := some (eng0 .check []) } 3 = false ∧ atFence { live0 with engraving := some (eng0 .bites [6]) } 3 = true ∧
      atFence (((withJob (jop 0)).updPlate 0 0 fun y => { y with openJob := some 0 }).press 0) 0 = false ∧
      atFence ((((withJob (jop 0)).updPlate 0 0 fun y => { y with openJob := some 0 }).updBank 0 0 fun b => { b with idleFrame := true }).press 0)
        0 = true ∧
      waitsFence live0 0 = false ∧ waitsFence { live0 with handover := true } 0 = true ∧
      waitsFence { live0 with banks := [(3, { pendingTrim := [(0, some 1)] })] } 3 = true ∧ (live0.plate 0).fenceHold = false := by
  decide +kernel

/-- A plate that is due for a proof pass. -/
def proofDue : State :=
  withPress fun r => r.updPlate 2 fun y =>
    { y with passes := r.cfg.proofInterval.toNat, centres := (List.range 8).map fun j => proofCode j 0 }

/-- RefreshAndTrim, the proof pass: in its band and above it, at its limit and above it, after a column that was outside. -/
theorem wit_ProofPass :
    ((proofDue.press 0).plate 2).state = .live ∧ ((proofDue.press 0).plate 2).outOfService = false ∧
      ((proofDue.press 0).plate 2).proofGoal ≤ ((proofDue.press 0).plate 2).passes ∧ pressIssues proofDue 0 = true ∧
      (∀ x ∈ fencePlates (proofDue.press 0) 2, plateQuiet (proofDue.press 0) x = true) ∧
      (live0.plate 2).passes < (live0.plate 2).proofGoal ∧ columnResult proofDue 0 2 0 102 = 0 ∧
      columnResult proofDue 0 2 0 103 = 1 ∧ columnResult proofDue 0 2 0 402 = 1 ∧ columnResult proofDue 0 2 0 403 = 2 ∧
      resultOf (1#16) 0 = 1 := by decide +kernel

/-- A due step asks for power; a fence passes the next plate's number to the target (R62). -/
theorem test_refresh :
    (run (.refreshStepDue 0) (withPress fun r => { r with rotation := .priority })).engQueue.map EngReq.plate = [16] ∧
      ((run (.trimFence 0 0) (withPress fun r => { r with handover := true })).press 0).refreshTarget = 0 ∧
      ((run (.trimFenceWaitExpiry 0 0) (withPress fun r => { r with handover := true })).press 0).fencesForced = 0 ∧
      ((run (.trimFence 0 0) (run (.trimFenceWaitExpiry 0 0) (withPress fun r => { r with handover := true }))).press 0).fencesForced = 1 ∧
      (((run (.enduranceLedgerWrite .M 0 (List.replicate 68 1)) (withPress id)).press 0).plate 16).ledger = 0x01010101 := by
  decide +kernel

/-- A proof pass that finds nothing, and one beyond the limit (R56 to R58). -/
theorem test_proofPass :
    (((run (.proofPass 0 2 []) proofDue).press 0).plate 2).passes = 0 ∧
      (((run (.proofPass 0 2 [403]) proofDue).press 0).plate 2).outOfService = true ∧
      (run (.proofPass 0 2 [403]) proofDue).events.log.map Event.code = [evProofLimit] ∧
      (run (.proofPass 0 2 [403]) { proofDue with engQueue := [⟨4, 0, 16, .refresh, none⟩] }).engQueue.map EngReq.cls = [1] := by
  decide +kernel

/-- A running job of plates 0 and 1, or of plate 0 alone, with FP16 output and no activation, whose output may overlap. -/
def jf (n : BitVec 5) : Job :=
  { jp with
    desc := { jp.desc with plateCount := n, outputFormat := 1, disableActivation := true, dstAddress := 0x1000, oz4030 := true } }

/-- Its first pass. -/
def x0 : Pass := { slot := 5, token := 0, unit := 0 }

/-- Press 0 with that job, its plates LIVE and some state. -/
def framed (n : BitVec 5) (f : PressRec → PressRec) : State := (withPress f).setSlot 0 5 (some (jf n))

/-- Bank 15 with the first pass of the job of plate 0 in its drive queue. -/
def queued15 : State := framed 1 fun r => { r with banks := [(15, { driveQueue := [x0] })] }

/-- Plate 0 with that pass in its integrators. -/
def held0 : State := framed 1 fun r => r.updPlate 0 fun y => { y with integrators := [x0] }

/-- FramesAndDecisions, the frame: a press or bank that does nothing; a deposit that is taken, has no room, or has no pass; a pass
sensed. -/
theorem wit_Frames :
    pressIssues queued15 0 = true ∧ pressCommits svc 0 = false ∧ bankWorks live0 15 = true ∧
      bankWorks { live0 with banks := [(0, { state := .lost })] } 0 = false ∧ (live0.plate 15).integrators = [] ∧
      nextDeposit (live0.bank 15) = none ∧ nextDeposit { (queued15.press 0).bank 15 with frames := 1 } = some x0 ∧
      passUnit (queued15.press 0) x0 = some (jf 1, unit0) ∧ takesDeposit queued15 0 0 unit0 x0 = true ∧ live0.downPlate 15 = 0 ∧
      takesDeposit (queued15.updPlate 0 0 fun y => { y with outOfService := true }) 0 0 unit0 x0 = false ∧
      admits queued15 0 (.pass 1 .none) 1 = true ∧ (held0.press 0).refreshTarget ≠ 0 ∧
      ((held0.press 0).plate 0).integrators = [x0] ∧ passUnit (held0.press 0) x0 = some (jf 1, unit0) ∧
      (live0.bank 0).passBuffer = none ∧ (live0.bank 0).resultQueue = [] ∧ (live0.bank 0).shadowActive = false := by decide +kernel

/-- One entry of a pass, with marks and a code. -/
def entry (trip clip : Bool) (code : Int) : List (BitVec 32) := [packEntry { clip := clip, trip := trip, resolution := 1, code := code }]

/-- Bank 0 of such a press with the attempt x in its pass buffer. -/
def decided (n : BitVec 5) (x : Pass) (l : List (BitVec 32)) : State :=
  framed n fun r => { r with banks := [(0, { frames := 7, passBuffer := some (x, l.take 256, []), resultQueue := l.drop 256 })] }

/-- Bank 0 of such a press with the pass x in lane 0. -/
def laned (n : BitVec 5) (x : Pass) (v : Int) : State :=
  framed n fun r =>
    { r with banks := [(0, { lane := true, lanes := tput none [] 0 (some x), outputAcc := tputL 0 [] 0 (List.replicate 4 (packAcc { value := v, contrib := 1 })) })] }

/-- The verdict and the contributions on an attempt of the job of plate 0. -/
def judged (x : Pass) (l : List (BitVec 32)) : Verdict × List Int :=
  (verdict x (l.map unpackEntry), contributions (senseRegs base (live0.bank 0)) unit0 3 9 x l [])

/-- FramesAndDecisions, the decision: a repeat for a trip below the limit and none at it, one for more than one clip in 64 and
none at one in 64, a commit within the 32 bits and one outside, a free lane and one that is not. -/
theorem wit_Decisions :
    (judged x0 (entry true false 5)).1 = .cmRepeat ∧ (judged { x0 with h := 3 } (entry true false 5)).1 = .commit true ∧
      (judged { x0 with mNum := 200, scale := 0x3C00 } (entry false true 5)).1 = .clipRepeat 1 ∧
      (judged { x0 with mNum := 200, scale := 0x3C00 } (entry false true 5 ++ List.replicate 63 0)).1 = .commit false ∧
      ((judged x0 []).2.all fun v => decide (-2147483648 ≤ v ∧ v < 2147483648)) = true ∧
      2147483648 ≤ lget 0 (judged { x0 with step := 30 } (entry false false 200)).2 0 ∧
      atRepeatLimit base 0 = false ∧ pressCommits (decided 1 x0 []) 0 = true ∧
      (jf 1).desc.sliced = false ∧ usesFelt (jf 1) = false ∧ (jf 1).desc.preloadSelect = 0 ∧
      tget none (((decided 1 x0 []).press 0).bank 0).lanes (bitOf (((decided 1 x0 []).press 0).bank 0).lane) = none ∧
      (tget none (((laned 1 x0 7).press 0).bank 0).lanes 0).isSome = true := by decide +kernel

/-- FramesAndDecisions, the drain: a job of one plate with one lane of its own whose output no input overlaps, and one of two
plates whose next unit takes a pass or is full. -/
theorem wit_LaneDrains :
    ((laned 1 x0 7).press 0).slot 5 = some (jf 1) ∧ (jf 1).state = .running ∧ (jf 1).desc.opcode = opPlate ∧
      jobUnits live0 (jf 1).desc = [unit0] ∧ unitJoin (laned 1 x0 7) 0 (jf 1) [unit0] 0 = 0 ∧
      (jf 1).n ≤ 512 ∧ hostRanges (laned 1 x0 7) 0 (jf 1) = [] ∧ outAddr (jf 1) 0 = .scratch 0 0x1000 ∧
      base.physPress 0 0 = some 0 ∧ (jobUnits live0 (jf 2).desc).length = 2 ∧
      ((jobUnits live0 (jf 2).desc).all fun u => unitOpen (laned 2 x0 7) 0 (jf 2) u) = true ∧
      ((jobUnits live0 (jf 2).desc).all fun u => unitOpen ((laned 2 x0 7).updBank 0 0 fun z => { z with driveQueue := [x0, x0] }) 0
        (jf 2) u) = false := by decide +kernel

/-- Press 0 with the job of plate 0, whose unit joins what macro 0 forms, and the attempt x in the pass buffer of bank 0. -/
def joined (os : List Operand) (x : Pass) : State :=
  ((decided 1 x []).setSlot 0 5 (some { jf 1 with desc := { (jf 1).desc with macroSet := 1 }, operands := os })).updBank 0 0 fun b =>
    { b with regs := { sense := some { control := 0x400 } } }

/-- The operand of the first pass. -/
def op0 : Operand := { token := 0, unit := 0, tag := 0, sums := [5], scale := 0x3C00 }

/-- FramesAndDecisions, the operand: a unit that joins, with its operand there and not there, and a lane that is full. -/
theorem wit_OperandWaits :
    (((joined [] x0).press 0).slot 5).any (fun j => decide (operandFor j x0 = none ∧
      unitJoin (joined [] x0) 0 j (jobUnits ((joined [] x0).press 0) j.desc) 0 ≠ 0)) = true ∧
      (((joined [op0] x0).press 0).slot 5).any (fun j => decide (operandFor j x0 = some op0)) = true ∧ x0.operand = [] ∧
      (tget none ({ lanes := [(0, some x0)] } : Bank).lanes (bitOf ({} : Bank).lane)).isSome = true := by decide +kernel

/-- FramesAndDecisions, the drain of a streamed job: a token behind the leading one, and the leading one. -/
theorem wit_StreamedDrain :
    ({ jf 1 with desc := { (jf 1).desc with scaleSource := 2 } } : Job).desc.scaleSource = 2 ∧ (jf 1).lateOut = [] ∧ x0.token = (jf 1).leading ∧
      ({ x0 with token := 1 } : Pass).token ≠ (jf 1).leading ∧ (jf 1).desc.outputFormat ≠ 6 ∧ (jf 1).operandRuns = [] := by decide +kernel

/-- That queue in a window that has nothing left. -/
def spent15 : State := { queued15 with gov := { credits := some [0, 0, 0] } }

/-- A deposit that costs anything is refused in a window that has nothing left. -/
theorem wit_DepositRefused (h : 0 < price spent15 0 (.pass 1 .none)) : admits spent15 0 (.pass 1 .none) 1 = false := by
  have c : creditOf spent15 (Work.pass 1 .none).cls = some 0 := rfl
  simp only [admits, c]
  exact decide_eq_false (by omega)

/-- That job is clean. -/
theorem wit_CleanJob : CleanJob (jf 1) := by
  unfold CleanJob
  decide +kernel

/-- No output byte of that job overlaps an input in the sense of R231. -/
theorem wit_NoOverlap (i : Nat) : overlapped (laned 1 x0 7) 0 (jf 1) (.scratch 0 0x1000) i = false := by
  unfold overlapped
  rw [if_pos (by decide)]
  rfl

/-- A deposit moves the pass to the plate (R87). -/
theorem test_frame : (((run (.bankFrame 0 15) queued15).press 0).plate 0).integrators = [x0] := by decide +kernel

/-- A decision to repeat queues the pass before every other (R131). -/
theorem test_repeatDecision :
    (((run (.repeatDecision 0 0) (decided 1 x0 (entry true false 5))).press 0).bank 15).repeats.map Pass.h = [1] := by
  decide +kernel

/-- The last drain of the only plate counts its token (R136, R226). -/
theorem test_drainRegisterRead :
    (((run (.drainRegisterRead 0 5) (laned 1 { x0 with scale := 0x3C00 } 1000)).press 0).slot 5).any
      (fun j => decide (j.doneTokens = 1)) = true := by decide +kernel

/-- A bank whose shadowed slice has its conversions. -/
def dwelt (x : Bank) : State :=
  withPress fun r => { r with banks := [(3, { x with shadowActive := true, dwellN := 1, dwellGoal := 1 })] }

/-- Bank 3 with a record. -/
def banked (x : Bank) : State := withPress fun r => { r with banks := [(3, x)] }

/-- A dwell whose trim is about to leave its range. -/
def outOfTrim : Bank :=
  { sliceTrim := [(0, packTrim (127, 127))], dwellDiff := -1000000, dwellProd := -1000000, dwellSquare := 10 }

/-- SliceBanks: dwells that are not over, at column 511, with trims at the ends of their range; spares, fallback checks, power
and saturation windows at their bounds. -/
theorem wit_SliceBanks :
    (live0.bank 3).shadowActive = false ∧ (live0.bank 3).dwellN = 0 ∧ (((dwelt {}).press 0).bank 3).shadowActive = true ∧
      (((dwelt { shadowColumn := 511 }).press 0).bank 3).shadowColumn.toNat = 511 ∧ 511 / 4 = 127 ∧
      unpackTrim (packTrim (127, -128)) = (127, -128) ∧ trimStep (((dwelt outOfTrim).press 0).bank 3) = (1, 1) ∧ ({ checkDue := true } : Bank).checkDue = true ∧
      ({ checkDue := true } : Bank).badLevels = [] ∧ (live0.bank 3).spareFailed = false ∧ (live0.bank 3).substituted = 0xFF ∧
      (live0.bank 3).state = .working ∧ live0.clocked = true ∧
      (List.range 5).filter (fun i => decide (lget 0 [8, -8, 9, 0, -9] i < -8 ∨ 8 < lget (0 : Int) [8, -8, 9, 0, -9] i)) = [2, 4] ∧
      live0.fallback = .standby ∧ live0.fallbackFor = none ∧ live0.refreshTarget ≠ 3 ∧ (∀ e ∈ [(8 : Int), -8], -8 ≤ e ∧ e ≤ 8) ∧
      (∃ e ∈ [(9 : Int)], e < -8 ∨ 8 < e) ∧ bankInvolved live0 3 = false ∧ bankInvolved ((framed 1 id).press 0) 0 = true ∧
      ({ powerDownEnable := true } : PressCfg).powerDownEnable = true ∧ ({ windowConversions := 5, windowGoal := 6 } : Bank).windowConversions < ({ windowConversions := 5, windowGoal := 6 } : Bank).windowGoal ∧
      ({ windowGoal := 6 } : Bank).windowGoal ≤ 6 ∧ ({ windowLimit := 64, clipCount := 65 } : Bank).windowLimit < 65 ∧
      (live0.bank 3).clipCount.toNat ≤ (live0.bank 3).windowLimit := by
  decide +kernel

/-- A dwell ends with the next column; a bad level twice fails the spare; the fallback converter takes a bank (R98, R102, R104). -/
theorem test_banks :
    (((run (.dwellEnd 0 3) (dwelt { shadowColumn := 511 })).press 0).bank 3).rounds = 1 ∧
      (((run (.dwellEnd 0 3) (dwelt outOfTrim)).press 0).bank 3).substituted = 0 ∧
      (((run (.spareSelfCheck 0 3 [9]) (banked { checkDue := true, badLevels := [0] })).press 0).bank 3).spareFailed = true ∧
      (((run (.fallbackCheckDone 0 [0]) (withPress fun r => { r with fallbackFor := some 3 })).press 0).bank 3).state = .fallback ∧
      (((run (.fallbackCheckDone 0 [9]) (withPress fun r => { r with fallback := .active, fallbackBank := some 3 })).press 0).bank 3).state =
        .lost := by
  decide +kernel

/-- Power-down and the end of a saturation window (R96, R137). -/
theorem test_bankEnds :
    (((run (.bankPowerDown 0 3) (withPress fun r => { r with cfg := { powerDownEnable := true }, banks := [(3, { poweredDown := false })] })).press
      0).bank 3).poweredDown = true ∧
      (((run (.satWindowEnd 0 3) (withPress fun r => { r with banks := [(3, { windowConversions := 6, windowGoal := 6, windowLimit := 64, clipCount := 65 })] })).press
        0).bank 3).satDriftWindows = 1 := by decide +kernel

/-- A copy of frame 65,537, page 1 of vat 0, to frame 70,000. -/
def copying : State :=
  { base with hubs := { base.hubs with copies := [{ frame := 65537, target := 70000, vat := 0, vatPage := 1, cause := 1 }] } }

/-- PackageMemory: accesses to a page that is copied and to others, to the last byte of the quota and beyond; words that are
poisoned; frames below their retirement threshold; a copy that ends; a frame that is pulped. -/
theorem wit_PackageMemory :
    (∃ c ∈ copying.hubs.copies, c.vat = 0 ∧ (2046#46).toNat / 2048 ≤ c.vatPage ∧ c.vatPage ≤ ((2046#46).toNat + 4 - 1) / 2048) ∧
      (base.pageEntry 65539).state ≠ .retired ∧ (∀ v : Vat, (base.vat v).swap.active = false ∧ (base.vat v).swap.stippleTodo = []) ∧
      copying.copying 0 2046 2 = false ∧ copying.copying 0 2046 3 = true ∧ copying.copying 0 4095 1 = true ∧
      copying.copying 0 4096 1 = false ∧ base.badPage 0 8184 8 = none ∧
      base.badPage 0 8184 9 = some 4 ∧ (base.vatFrame 0 3).getD 0 = 65539 ∧ base.badWord 0 8184 8 = none ∧
      ({ base with hubs := { base.hubs with poison := [((65539 * 2048 + 2040) / 8, true)] } } : State).badWord 0 8184 8 ≠ none ∧
      65536 ≤ 65539 ∧ (base.pageEntry 65539).corrected + 1 < base.settings.retireThreshold.toNat ∧
      base.poisoned 65539 2040 = false ∧
      (({ base with hubs := { base.hubs with map := tput {} base.hubs.map 65539 { base.pageEntry 65539 with state := .retired } } } : State).pageEntry
        65539).state = .retired ∧ (base.pageEntry 70000).state = .free ∧
      copying.hubs.copies.find? (fun c => decide (c.frame = 65537)) ≠ none ∧ base.hubs.copies = [] ∧
      (run (.pulp .M 0) base).hubs.map.find? (fun e => decide (65536 ≤ e.1 ∧ e.1 % 4 = 3 ∧ e.2.state = .pulping)) ≠ none ∧
      base.hubs.map.find? (fun e => decide (65536 ≤ e.1 ∧ e.1 % 4 = 3 ∧ e.2.state = .pulping)) = none := by decide +kernel

/-- A write and a read of the last bytes of a quota, and one beyond it (R284, R294, R296). -/
theorem test_memoryAccess :
    (run (.memoryAccess 0 8190 (.read 2) .clean none) (run (.memoryAccess 0 8190 (.write [1, 2]) .clean none) base)).hubs.lastRead = [1, 2] ∧
      (run (.memoryAccess 0 8191 (.read 2) .clean none) base).events.log.map Event.code = [evPageNotOwned] ∧
      (run (.memoryAccess 0 8190 (.read 2) .double none) base).hubs.lastError = true := by decide +kernel

/-- Patrol reads, and the retirement of a FREE frame (R285, R297, R298). -/
theorem test_patrol :
    ((run (.patrolRead 65539 255 .single) base).pageEntry 65539).corrected = 1 ∧
      ((run (.patrolRead 70000 0 .double) base).pageEntry 70000).state = .retired ∧
      (run (.pageCopyDone ⟨65539, []⟩) base).hubs.map = base.hubs.map ∧
      ((run (.pageCopyDone ⟨65537, [(0, .double)]⟩) copying).pageEntry 65537).forwardFrame = 70000 ∧
      (run (.pageCopyDone ⟨65537, [(0, .double)]⟩) copying).poisoned 70000 0 = true ∧
      (run (.memoryAccess 0 2046 (.write [1, 2, 3]) .clean none) copying).hubs.copies.map (fun c => c.held.length) = [1] := by
  decide +kernel

/-- A converter in its regular sequence. -/
def surveying (f : Survey → Survey) : State := { svc with surveys := [(0, f { regular := true })] }

/-- SurveyAndThermal: scans, a full queue, each source of a conversion, the calibration's four cases, regular on and off, and
results of a channel at the bounds of the diodes. -/
theorem wit_Survey :
    (svc.survey 0).regular = false ∧ ((surveying id).survey 0).due = [] ∧
      ((surveying fun r => { r with due := [45] }).survey 0).due ≠ [] ∧ 256 ≤ (List.replicate 256 (0 : BitVec 32)).length ∧
      nextConversion svc 0 = none ∧ nextConversion (surveying fun r => { r with due := [45] }) 0 = some (45, none) ∧
      (nextConversion (surveying fun r => { r with injPending := [(3, true)] }) 0).map Prod.snd = some (some 3) ∧
      nextConversion (surveying fun r => { r with calibrating := true }) 0 = some (46, none) ∧
      (.V 1 : Principal) ≠ .M ∧ (∀ k, k < 4 → tget false ((surveying id).survey 0).injPending k = false) ∧
      (∃ k, k < 4 ∧ tget false ((surveying fun r => { r with injPending := [(3, true)] }).survey 0).injPending k = true) ∧
      (∃ e ∈ base.presses, e.2.state = .active) ∧ (∀ e ∈ svc.presses, e.2.state ≠ .active) ∧
      field (0x00880000#32).toNat 23 18 = 34 ∧ field (0x00840FFE#32).toNat 23 18 = 33 ∧ field (0x00840FFE#32).toNat 11 0 = 4094 ∧
      (67 : Press).val = 34 * (1 : Conv).val + 33 ∧ field (0x04880000#32).toNat 27 26 ≠ 0 ∧ (svc.press 67).thermal.diodeFailed = false ∧
      nbit (0x00840FFE#32).toNat 30 = false := by decide +kernel

/-- A scan, a conversion and its reading outside a window (R403, R407, R409). -/
theorem test_survey :
    ((run (.surveyScan 0) (surveying id)).survey 0).due.length = 46 ∧
      ((run (.conversionDone 0 7) (surveying fun r => { r with due := [45] })).survey 0).queue.map (fun w => field w.toNat 23 18) = [45] ∧
      (run (.surveyReader 0 1) (surveying fun r => { r with queue := [0x04880000] })).events.log.map Event.code = [evSurveyWindow] ∧
      (run (.regularStart .M 0 true) svc).mgmt.result = resOk := by decide +kernel

/-- Calibration and injected conversions (R404 to R406). -/
theorem test_calibration :
    ((run (.calibrateRequest .M 0) svc).survey 0).calibrating = true ∧
      ((run (.calibrationDone 0) (run (.calIntervalExpiry 0) svc)).survey 0).calGeneration = 1 ∧
      (tget false ((run (.injectedStart .H 0 4) svc).survey 0).injPending 2) = true := by decide +kernel

/-- GovernorAndPins: a window before and at the thousandth, demands at their allowances, plans at each bound, and the vats of
both kinds. -/
theorem wit_Governor :
    svc.gov.limitedFor.length = 3 ∧ svc.gov.limited.length = 3 ∧ svc.gov.windows + 1 < 1000 ∧
      1000 ≤ ({ windows := 999 } : Gov).windows + 1 ∧ (∀ v, v < 8 → padded (svc.vat v) = false) ∧
      lget 0 svc.settings.budgetPlan 0 = 90 ∧ 90 = 24 + 36 + 22 + 8 ∧ (40 : Nat) = 24 + 8 + 4 + 4 ∧ (90 : Nat) = 24 + 34 + 16 + 16 ∧
      leAt (leBytes 2 90 ++ leBytes 2 34 ++ leBytes 2 16 ++ leBytes 2 16) 6 2 = 16 ∧ 16 < 17 ∧ 91 = 24 + 35 + 16 + 16 ∧
      39 = 24 + 8 + 4 + 3 ∧ (base.vat 0).state ≠ .pulping ∧ ((run (.pulp .M 0) base).vat 0).state = .pulping ∧
      svc.dev.perstHigh = true ∧ engravingsActive svc ≤ engravingLimit svc ∧
      scanInForce { svc with dev := { svc.dev with scan := .extest } } = .bypass ∧ State.reset.dev.perstHigh = false := by decide +kernel

/-- A plan that adds up is accepted, one above PackageMax is not (R428). -/
theorem test_governor :
    (run (.budgetPlan .M (leBytes 2 90 ++ leBytes 2 34 ++ leBytes 2 16 ++ leBytes 2 16)) svc).mgmt.result = resOk ∧
      (run (.budgetPlan .M (leBytes 2 91 ++ leBytes 2 35 ++ leBytes 2 16 ++ leBytes 2 16)) svc).mgmt.result = resRange := by
  decide +kernel

/-- Activity, clocks and boundary scan (R360, R459, R466). -/
theorem test_pins :
    ((run .activityRefresh { base with vats := [(0, { v0 with exact := [3145728, 0, 0, 0, 0] })] }).vat 0).shown = [3, 0, 0, 0, 0] ∧
      (run (.clockLockLoss .fclk) svc).dev.clockLock = 61 ∧
      (run (.boundaryScanInstructionLoad .extest) svc).dev.scan = .bypass ∧
      (run (.boundaryScanInstructionLoad .extest) State.reset).dev.scan = .extest := by decide +kernel

end Sys2Proof.Tests
end

section
/-! SUPPORT. What jobs change when they end: the frame of what they leave alone, and of each operation of their end what it writes. -/

namespace Sys2Proof.Machine

/-! ## What the ends of jobs leave alone -/

/-- A press apart from its scratch. -/
def PressRec.apartScratch (r : PressRec) : PressRec := { r with scratch := [] }

/-- A press apart from what its own jobs change when they end. -/
def PressRec.apartWork (r : PressRec) : PressRec :=
  { r with scratch := [], slots := [], plates := [], banks := [], macros := [] }

/-- A plate apart from the passes that it holds. -/
def PlateRec.apartPasses (x : PlateRec) : PlateRec := { x with integrators := [] }

/-- A bank apart from the passes that it holds. -/
def Bank.apartPasses (x : Bank) : Bank :=
  { x with driveQueue := [], repeats := [], replay := [], passBuffer := none, resultQueue := [], lanes := [] }

/-- A stipple macro apart from the job that uses it (R187). -/
def MacroRec.apartUse (x : MacroRec) : MacroRec := { x with state := .idle, segmented := false, mode16 := false }

/-- A job apart from its output bytes for host memory and mailboxes and from its signal. -/
def Job.apartOutput (j : Job) : Job := { j with hostOut := [], hostDone := [], mailOut := [], signalDue := false }

/-- The hubs apart from the contents of package memory and the requests that copies hold. -/
def Hubs.apartData (h : Hubs) : Hubs := { h with mem := [], poison := [], copies := [] }

/-- The device apart from what jobs change when they end. -/
def State.apartJobs (s : State) : State :=
  { s with
    presses := [], streams := [], counters := [], hubs := s.hubs.apartData, free := 0, hostMem := [], heldOps := []
    events := {} }

/-- What may be written while jobs of a press end: places of the presses' scratch, bytes of package memory, and whether
host memory. -/
structure Outputs where
  scratch : Nat → Nat → Prop
  package : Nat → Prop
  host : Prop

/-- The n bytes from address a of vat v lie within what may be written, as far as they are not output for host memory or a
mailbox. -/
def Outputs.covers (w : Outputs) (s : State) (v : Nat) (a : Addr) (n : Nat) : Prop :=
  match a with
  | .scratch e o => ∀ i q, i < n → s.physPress v e = some q → w.scratch q (o + i)
  | .package x => ∀ i f, i < n → s.vatFrame v ((x + i) / 2048) = some f → w.package (2048 * f + (x + i) % 2048)
  | _ => True

/-- A press changes as its own jobs change it when they end. -/
structure OwnWork (r r' : PressRec) : Prop where
  record : r'.apartWork = r.apartWork
  plate : ∀ q, (r'.plate q).apartPasses = (r.plate q).apartPasses
  bank : ∀ b, (r'.bank b).apartPasses = (r.bank b).apartPasses
  stipple : ∀ m, (r'.macro' m).apartUse = (r.macro' m).apartUse

/-- Between s and t, jobs of press p ended and wrote no more than w. -/
structure JobsEnd (p : Nat) (w : Outputs) (s t : State) : Prop where
  device : t.apartJobs = s.apartJobs
  own : OwnWork (s.press p) (t.press p)
  others : ∀ q, q ≠ p → (t.press q).apartScratch = (s.press q).apartScratch
  scratch : ∀ q o, ¬w.scratch q o → tget 0 (t.press q).scratch o = tget 0 (s.press q).scratch o
  package : ∀ x, ¬w.package x → tget 0 t.hubs.mem x = tget 0 s.hubs.mem x
  host : ¬w.host → t.streams = s.streams ∧ t.hostMem = s.hostMem ∧ t.events = s.events

/-- Between s and t only the job in slot k of press p ended or wrote. -/
structure JobEnds (p k : Nat) (w : Outputs) (s t : State) : Prop extends JobsEnd p w s t where
  slots : ∀ i, i ≠ k → (t.press p).slot i = (s.press p).slot i

/-- Between s and t the job in slot k of press p wrote, and it keeps all but its output and its signal. -/
structure JobWrites (p k : Nat) (w : Outputs) (s t : State) : Prop extends JobEnds p k w s t where
  job : ((t.press p).slot k).map Job.apartOutput = ((s.press p).slot k).map Job.apartOutput

theorem OwnWork.refl (r : PressRec) : OwnWork r r := ⟨rfl, fun _ => rfl, fun _ => rfl, fun _ => rfl⟩

theorem OwnWork.trans {r r' r'' : PressRec} (h : OwnWork r r') (h' : OwnWork r' r'') : OwnWork r r'' :=
  ⟨h'.record.trans h.record, fun q => (h'.plate q).trans (h.plate q), fun b => (h'.bank b).trans (h.bank b),
    fun m => (h'.stipple m).trans (h.stipple m)⟩

variable {p k : Nat} {w : Outputs} {s t u : State} {j : Job}

theorem JobsEnd.refl (p : Nat) (w : Outputs) (s : State) : JobsEnd p w s s :=
  ⟨rfl, .refl _, fun _ _ => rfl, fun _ _ _ => rfl, fun _ _ => rfl, fun _ => ⟨rfl, rfl, rfl⟩⟩

theorem JobsEnd.trans (h : JobsEnd p w s t) (h' : JobsEnd p w t u) : JobsEnd p w s u where
  device := h'.device.trans h.device
  own := h.own.trans h'.own
  others q hq := (h'.others q hq).trans (h.others q hq)
  scratch q o ho := (h'.scratch q o ho).trans (h.scratch q o ho)
  package x hx := (h'.package x hx).trans (h.package x hx)
  host hw :=
    have ⟨a, b, c⟩ := h.host hw
    have ⟨a', b', c'⟩ := h'.host hw
    ⟨a'.trans a, b'.trans b, c'.trans c⟩

theorem JobEnds.trans (h : JobEnds p k w s t) (h' : JobEnds p k w t u) : JobEnds p k w s u :=
  ⟨h.toJobsEnd.trans h'.toJobsEnd, fun i hi => (h'.slots i hi).trans (h.slots i hi)⟩

theorem JobWrites.refl (p k : Nat) (w : Outputs) (s : State) : JobWrites p k w s s := ⟨⟨.refl p w s, fun _ _ => rfl⟩, rfl⟩

theorem JobWrites.trans (h : JobWrites p k w s t) (h' : JobWrites p k w t u) : JobWrites p k w s u :=
  ⟨h.toJobEnds.trans h'.toJobEnds, h'.job.trans h.job⟩

/-! ## What a change must keep to be one of these -/

/-- A change that keeps the presses, the bytes of package memory and the host side. -/
theorem JobWrites.of_presses (hd : t.apartJobs = s.apartJobs) (hp : t.presses = s.presses) (hm : t.hubs.mem = s.hubs.mem)
    (hh : ¬w.host → t.streams = s.streams ∧ t.hostMem = s.hostMem ∧ t.events = s.events) : JobWrites p k w s t := by
  have e : t.press = s.press := by funext q; simp only [State.press, hp]
  exact ⟨⟨⟨hd, e ▸ .refl _, fun q _ => by rw [e], fun q o _ => by rw [e], fun x _ => by rw [hm], hh⟩,
    fun i _ => by rw [e]⟩, by rw [e]⟩

/-- A change of press p alone that keeps its scratch. -/
theorem JobsEnd.updPress {f : PressRec → PressRec} (h : OwnWork (s.press p) (f (s.press p)))
    (hs : (f (s.press p)).scratch = (s.press p).scratch) : JobsEnd p w s (s.updPress p f) where
  device := rfl
  own := by simpa using h
  others q hq := by simp [hq]
  scratch q o _ := by
    by_cases hq : q = p
    · simp [hq, hs]
    · simp [hq]
  package _ _ := rfl
  host _ := ⟨rfl, rfl, rfl⟩

/-- A change of press p alone that keeps its scratch and its slots. -/
theorem JobWrites.updPress {f : PressRec → PressRec} (h : OwnWork (s.press p) (f (s.press p)))
    (hs : (f (s.press p)).scratch = (s.press p).scratch) (hk : (f (s.press p)).slots = (s.press p).slots) :
    JobWrites p k w s (s.updPress p f) := by
  have e : ∀ i, ((s.updPress p f).press p).slot i = (s.press p).slot i := by simp [PressRec.slot, hk]
  exact ⟨⟨.updPress h hs, fun i _ => e i⟩, by rw [e]⟩

theorem JobEnds.updJob (f : Job → Job) : JobEnds p k w s (s.updJob p k f) :=
  ⟨.updPress ⟨rfl, fun _ => rfl, fun _ => rfl, fun _ => rfl⟩ rfl, fun i hi => by simp [State.slot_updJob, hi]⟩

theorem JobWrites.updJob {f : Job → Job} (h : ∀ j, (f j).apartOutput = j.apartOutput) :
    JobWrites p k w s (s.updJob p k f) := by
  refine ⟨.updJob f, ?_⟩
  cases hk : (s.press p).slot k <;> simp [State.slot_updJob, hk, h]

/-- A press that keeps all but its scratch. -/
theorem OwnWork.of_apartScratch {r r' : PressRec} (h : r'.apartScratch = r.apartScratch) : OwnWork r r' :=
  ⟨(congrArg PressRec.apartWork h :), fun q => (congrArg (fun x => (x.plate q).apartPasses) h :),
    fun b => (congrArg (fun x => (x.bank b).apartPasses) h :), fun m => (congrArg (fun x => (x.macro' m).apartUse) h :)⟩

/-- Bytes written to the scratch of a press. -/
theorem JobWrites.scratchWrite {q o : Nat} {bs : List Byte} (h : ∀ i, i < bs.length → w.scratch q (o + i)) :
    JobWrites p k w s (s.updPress q fun r => { r with scratch := tputL 0 r.scratch o bs }) := by
  have keep : ∀ q', (((s.updPress q fun r => { r with scratch := tputL 0 r.scratch o bs }).press q').apartScratch) =
      (s.press q').apartScratch := by
    intro q'
    by_cases hq : q' = q
    · subst hq; simp [PressRec.apartScratch]
    · simp [hq]
  have slot := fun i => congrArg (fun r => r.slot i) (keep p)
  refine ⟨⟨⟨rfl, .of_apartScratch (keep p), fun q' _ => keep q', fun q' x hx => ?_, fun _ _ => rfl,
    fun _ => ⟨rfl, rfl, rfl⟩⟩, fun i _ => slot i⟩, congrArg (Option.map Job.apartOutput) (slot k)⟩
  by_cases hq : q' = q
  · subst hq
    have hout : x < o ∨ o + bs.length ≤ x := by
      by_contra hc
      exact hx ((show o + (x - o) = x by omega) ▸ h (x - o) (by omega))
    simp [tget_tputL_out _ _ _ _ hout]
  · simp [hq]

/-! ## Translation depends on the vats and the page map alone -/

theorem State.physPress_congr (h : t.apartJobs = s.apartJobs) : t.physPress = s.physPress := by
  have hv : t.vat = s.vat := (congrArg State.vat h :)
  funext v e
  unfold State.physPress
  rw [hv]

theorem State.vatFrame_congr (h : t.apartJobs = s.apartJobs) : t.vatFrame = s.vatFrame := by
  have hv : t.vat = s.vat := (congrArg State.vat h :)
  have hm : t.pageEntry = s.pageEntry := (congrArg State.pageEntry h :)
  funext v x
  unfold State.vatFrame State.pageFrame
  rw [hv, hm]

theorem Outputs.covers_congr {v n : Nat} {a : Addr} (h : t.apartJobs = s.apartJobs) :
    w.covers t v a n ↔ w.covers s v a n := by
  cases a <;> simp only [Outputs.covers, State.physPress_congr h, State.vatFrame_congr h]

/-! ## Package memory -/

/-- Bytes written to package memory lie in the frames of the pages written; others stay. -/
theorem State.pkgWrite_mem_out {v a x : Nat} {bs : List Byte}
    (h : ∀ i f, i < bs.length → s.vatFrame v ((a + i) / 2048) = some f → 2048 * f + (a + i) % 2048 ≠ x) :
    tget 0 (s.pkgWrite v a bs).hubs.mem x = tget 0 s.hubs.mem x := by
  simp only [State.pkgWrite, State.updHubs]
  have places : ∀ e ∈ (List.range bs.length).zip bs |>.map fun e => (a + e.1, e.2), ∃ i, i < bs.length ∧ e.1 = a + i := by
    intro e he
    obtain ⟨y, hy, rfl⟩ := List.mem_map.mp he
    exact ⟨y.1, List.mem_range.mp (List.of_mem_zip hy).1, rfl⟩
  generalize ((List.range bs.length).zip bs |>.map fun e => (a + e.1, e.2)) = l at places ⊢
  generalize s.hubs = m
  induction l generalizing m with
  | nil => rfl
  | cons e r ih =>
    rw [List.foldl_cons, ih fun y hy => places y (List.mem_cons_of_mem _ hy)]
    obtain ⟨i, hi, he⟩ := places e List.mem_cons_self
    cases hf : s.vatFrame v (e.1 / 2048) with
    | none => rfl
    | some f =>
      have hx : 2048 * f + e.1 % 2048 ≠ x := by
        rw [he] at hf ⊢
        exact h i f hi hf
      exact tget_tput_ne _ _ _ _ hx.symm

/-- A write to package memory changes of the hubs the bytes and the poison alone. -/
theorem State.pkgWrite_apartData (s : State) (v a : Nat) (bs : List Byte) :
    (s.pkgWrite v a bs).hubs.apartData = s.hubs.apartData := by
  simp only [State.pkgWrite, State.updHubs]
  generalize ((List.range bs.length).zip bs |>.map fun e => (a + e.1, e.2)) = l
  generalize s.hubs = m
  induction l generalizing m with
  | nil => rfl
  | cons e r ih =>
    rw [List.foldl_cons, ih]
    cases s.vatFrame v (e.1 / 2048) <;> rfl

/-- Bytes written to package memory. -/
theorem JobWrites.pkgWrite {v a : Nat} {bs : List Byte} (h : w.covers s v (.package a) bs.length) :
    JobWrites p k w s (s.pkgWrite v a bs) where
  device := by
    rw [State.pkgWrite_frame]
    simp only [State.apartJobs, State.pkgWrite_apartData]
  own := .refl _
  others _ _ := rfl
  scratch _ _ _ := rfl
  package x hx := State.pkgWrite_mem_out fun i f hi hf e => hx (e ▸ h i f hi hf)
  host _ := ⟨rfl, rfl, rfl⟩
  slots _ _ := rfl
  job := rfl

/-- A request held at a copy changes the copies alone. -/
theorem JobWrites.holdRequest (v a n : Nat) (r : HeldAccess) : JobWrites p k w s (holdRequest v a n r s) :=
  .of_presses rfl rfl rfl fun _ => ⟨rfl, rfl, rfl⟩

/-- The pieces of a range lie in it. -/
theorem pagePieces_within {a : Nat} {bs : List Byte} {e : Nat × List Byte} (h : e ∈ pagePieces a bs) :
    a ≤ e.1 ∧ ∀ i, i < e.2.length → e.1 + i < a + bs.length := by
  obtain ⟨i, -, rfl⟩ := List.mem_map.mp h
  refine ⟨Nat.le_max_left _ _, fun y hy => ?_⟩
  simp only [List.length_take, List.length_drop] at hy ⊢
  omega

theorem Outputs.covers_piece {v a : Nat} {bs : List Byte} {e : Nat × List Byte} (h : w.covers s v (.package a) bs.length)
    (he : e ∈ pagePieces a bs) : w.covers s v (.package e.1) e.2.length := by
  intro i f hi hf
  obtain ⟨hlo, hhi⟩ := pagePieces_within he
  have hlt := hhi i hi
  have hat : a + (e.1 - a + i) = e.1 + i := by omega
  have := h (e.1 - a + i) f (by omega) (by rwa [hat])
  rwa [hat] at this

/-! ## Undefined outputs -/

theorem freeBytes_length (d n : Nat) : (freeBytes d n).length = n := by simp [freeBytes]

/-- Drawing free values is no output. -/
theorem JobWrites.free (n : Nat) : JobWrites p k w s { s with free := n } := .of_presses rfl rfl rfl fun _ => ⟨rfl, rfl, rfl⟩

/-- Output bytes written at an address outside package memory. -/
theorem JobWrites.writeAddr {a : Addr} {bs : List Byte} (hj : (s.press p).slot k = some j)
    (hc : w.covers s j.desc.vat.toNat a bs.length) (ha : ∀ x, a ≠ .package x) :
    JobWrites p k w s (writeAddr p k a bs s) := by
  simp only [Machine.writeAddr, hj]
  cases a with
  | package x => exact absurd rfl (ha x)
  | host o => exact .updJob fun _ => rfl
  | mailbox e o => exact .updJob fun _ => rfl
  | scratch e o =>
    dsimp only
    split
    · rename_i q hq
      split
      · exact .of_presses rfl rfl rfl fun _ => ⟨rfl, rfl, rfl⟩
      · exact .scratchWrite fun i hi => hc i q hi hq
    · exact .refl ..

/-- A range that takes undefined data is written within it. -/
theorem JobWrites.undefineRange {a : Addr} {n : Nat} (hj : (s.press p).slot k = some j)
    (hc : w.covers s j.desc.vat.toNat a n) : JobWrites p k w s (undefineRange p k a n s) := by
  have hlen : w.covers { s with free := s.free + n } j.desc.vat.toNat a (freeBytes s.free n).length := by
    rw [freeBytes_length]; exact hc
  cases a with
  | host o => exact .updJob fun _ => rfl
  | scratch e o => exact (JobWrites.free _).trans (.writeAddr (s := { s with free := s.free + n }) hj hlen (by simp))
  | mailbox e o => exact (JobWrites.free _).trans (.writeAddr (s := { s with free := s.free + n }) hj hlen (by simp))
  | package x =>
    simp only [Machine.undefineRange, hj]
    refine forL_inv (JobWrites p k w s) _ _ (fun e he t ht => ht.trans ?_) _ (.free _)
    split
    · exact .holdRequest ..
    · exact .pkgWrite ((Outputs.covers_congr ht.device).mpr (Outputs.covers_piece hlen he))

/-- A job that only wrote has the same descriptor, outcome and state. -/
theorem JobWrites.slot (h : JobWrites p k w s t) (hj : (s.press p).slot k = some j) :
    ∃ j', (t.press p).slot k = some j' ∧ j'.apartOutput = j.apartOutput := by
  have e := h.job
  rw [hj] at e
  cases hk : (t.press p).slot k with
  | none => simp [hk] at e
  | some j' => exact ⟨j', rfl, by simpa [hk] using e⟩

/-- The outputs that a job leaves undefined when it ends with nothing committed are the ones listed for it (R15). -/
theorem JobWrites.undefineFrom (hj : (s.press p).slot k = some j)
    (hc : ∀ x ∈ Safety.undefinedOutputs s p j, w.covers s j.desc.vat.toNat x.1 x.2) :
    JobWrites p k w s (undefineFrom p k 0 s) := by
  simp only [Machine.undefineFrom, hj]
  simp only [Safety.undefinedOutputs] at hc
  split
  · rename_i hop
    split
    · exact .refl ..
    · rename_i hout
      rw [if_pos hop, if_neg hout] at hc
      exact .undefineRange hj (hc _ List.mem_cons_self)
  · rename_i hop
    rw [if_neg hop] at hc
    refine forL_inv (JobWrites p k w s) _ _ (fun x hx t ht => ?_) s (.refl ..)
    obtain ⟨j', hj', same⟩ := ht.slot hj
    have hd : j'.desc = j.desc := (congrArg Job.desc same :)
    refine ht.trans (.undefineRange hj' ?_)
    rw [hd, Outputs.covers_congr ht.device]
    exact hc _ (List.mem_map.mpr ⟨x, hx, rfl⟩)

/-! ## Output in host memory -/

/-- A sealed block changes its stream and host memory alone (R265, R268). -/
theorem writeHostBlock_frame (st : StreamId) (c : BitVec 64) (b seq : Nat) (plain : List Byte) (s : State) :
    writeHostBlock st c b seq plain s =
      { s with
        streams := (writeHostBlock st c b seq plain s).streams, hostMem := (writeHostBlock st c b seq plain s).hostMem } := by
  let P : State → Prop := fun t => t = { s with streams := t.streams, hostMem := t.hostMem }
  have written : ∀ a bs a' bs' r, P (((s.hostWrite a bs).hostWrite a' bs').setStream st r) := fun _ _ _ _ _ => rfl
  show P (writeHostBlock st c b seq plain s)
  simp only [writeHostBlock]
  split
  · exact rfl
  · exact written ..

/-- A stream whose sealing counters run out changes itself and the events alone (R258, R265). -/
theorem checkRekey_frame (st : StreamId) (s : State) :
    checkRekey st s = { s with streams := (checkRekey st s).streams, events := (checkRekey st s).events } := by
  simp only [checkRekey]
  split
  · rfl
  · split <;> rfl

/-- A change of streams, host memory and events by a job with output in host memory. -/
theorem JobWrites.hostSide (h : w.host)
    (e : t = { s with streams := t.streams, hostMem := t.hostMem, events := t.events }) : JobWrites p k w s t :=
  .of_presses (by rw [e]; rfl) (by rw [e]) (by rw [e]) (absurd h)

/-- Blocks of host memory written for a job, where it has output there (R268). -/
theorem JobWrites.flushHost {off len : Nat} {mode : FlushMode} (h : w.host) :
    JobWrites p k w s (flushHost p k off len mode s) := by
  have block : ∀ st c b plain (t : State), JobWrites p k w t (writeHostBlock st c b 0 plain t) := fun st c b plain t =>
    .hostSide h (by rw [writeHostBlock_frame])
  have rekey : ∀ st (t : State), JobWrites p k w t (checkRekey st t) := fun st t => .hostSide h (by rw [checkRekey_frame])
  simp only [Machine.flushHost]
  split
  · exact .refl ..
  · split
    · exact .refl ..
    · refine forL_inv (JobWrites p k w s) _ _ (fun b _ t ht => ht.trans ?_) s (.refl ..)
      split
      · exact (((JobWrites.free _).trans (block ..)).trans (rekey ..)).trans (.updJob fun _ => rfl)
      · exact .refl ..

/-- The host blocks of a job that ends. -/
theorem JobWrites.flushAll {mode : FlushMode}
    (h : ¬w.host → ∀ j, (s.press p).slot k = some j → hostRanges s p j = []) :
    JobWrites p k w s (flushAll p k mode s) := by
  by_cases hw : w.host
  · simp only [Machine.flushAll]
    split
    · exact .refl ..
    · exact forL_inv (JobWrites p k w s) _ _ (fun e _ t ht => ht.trans (.flushHost hw)) s (.refl ..)
  · cases hj : (s.press p).slot k with
    | none => simpa only [Machine.flushAll, hj] using .refl ..
    | some j => simpa only [Machine.flushAll, hj, h hw j hj] using .refl ..

/-! ## The claim and the signal -/

/-- A change of the work counters. -/
theorem JobWrites.counters (e : t = { s with counters := t.counters }) : JobWrites p k w s t :=
  .of_presses (by rw [e]; rfl) (by rw [e]) (by rw [e]) fun _ => by rw [e]; exact ⟨rfl, rfl, rfl⟩

theorem JobEnds.returnClaim : JobEnds p k w s (returnClaim p k s) := by
  have claim : ∀ c q i, JobWrites p k w s (claimToList c q i s) := fun c q i => .counters rfl
  simp only [Machine.returnClaim]
  split
  · exact (JobWrites.refl ..).toJobEnds
  · split
    · exact (JobWrites.refl ..).toJobEnds
    · exact (claim ..).toJobEnds.trans (.updJob _)

/-- A job whose claim has been returned holds no chunk, and is otherwise as it was (R238). -/
theorem returnClaim_slot (p k : Nat) (s : State) :
    ((returnClaim p k s).press p).slot k = ((s.press p).slot k).map fun j => { j with chunk := none } := by
  simp only [returnClaim]
  split
  · simp [*]
  · rename_i j hj
    split
    · rename_i hc
      simp [hj, ← hc]
    · rw [State.slot_updJob, if_pos ⟨rfl, rfl⟩]
      rfl

theorem JobWrites.signalSlot : JobWrites p k w s (signalSlot p k s) := by
  have signal : ∀ d (t : State), JobWrites p k w t (signalDone d t) := fun d t => .counters (signalDone_frame d t)
  simp only [Machine.signalSlot]
  split
  · exact .refl ..
  · split
    · exact .updJob fun _ => rfl
    · exact JobWrites.trans (.updJob (by intro; rfl)) (signal ..)

/-! ## Passes and macros of a job that ends -/

/-- A bank whose passes are cut down to those that a test keeps. -/
theorem keepPasses_bank (keep : Pass → Bool) (r : PressRec) (b : Nat) :
    (((keepPasses keep r).bank b).apartPasses) = (r.bank b).apartPasses := by
  unfold keepPasses PressRec.bank
  rw [tget_tmap]
  · rfl
  · simp

theorem keepPasses_plate (keep : Pass → Bool) (r : PressRec) (q : Nat) :
    (((keepPasses keep r).plate q).apartPasses) = (r.plate q).apartPasses := by
  unfold keepPasses PressRec.plate
  rw [tget_tmap] <;> rfl

theorem JobWrites.keepPasses (keep : Pass → Bool) : JobWrites p k w s (s.updPress p (keepPasses keep)) :=
  .updPress ⟨rfl, keepPasses_plate keep _, keepPasses_bank keep _, fun _ => rfl⟩ rfl rfl

theorem settleMacros_macro (r : PressRec) (m : Nat) : ((settleMacros r).macro' m).apartUse = (r.macro' m).apartUse := by
  unfold settleMacros PressRec.macro'
  rw [tget_tmap]
  · dsimp only
    split <;> rfl
  · simp

theorem JobWrites.settleMacros : JobWrites p k w s (s.updPress p settleMacros) :=
  .updPress ⟨rfl, fun _ => rfl, fun _ => rfl, settleMacros_macro _⟩ rfl rfl

end Sys2Proof.Machine

end

section
/-! SUPPORT. A job stopped INTERNAL, and every job of a press (R446): each ends, and writes no more than its undefined outputs. -/

namespace Sys2Proof.Machine

variable {p k : Nat} {w : Outputs} {s t u : State} {j : Job}

/-! ## A job that is stopped INTERNAL -/

/-- The job has ended INTERNAL and waits to be posted. -/
def EndedInternal (o : Option Job) : Prop := ∃ j, o = some j ∧ j.state = .posting ∧ j.internal = true

/-- What a job writes when it is stopped INTERNAL with nothing committed lies within w. -/
structure StopWithin (p : Nat) (w : Outputs) (s : State) (j : Job) : Prop where
  undefined : ∀ x ∈ Safety.undefinedOutputs s p j, w.covers s j.desc.vat.toNat x.1 x.2
  host : ¬w.host → hostRanges s p j = []

/-- The ranges that a job writes do not depend on the state. -/
theorem jobRanges_written (s t : State) (p : Nat) (j : Job) :
    (jobRanges t p j).filter Range.written = (jobRanges s p j).filter Range.written := by
  unfold jobRanges
  dsimp only
  split
  · simp only [List.filter_append, List.filter_cons, Range.written, apply_ite (List.filter _), List.filter_nil]
    simp
  · rfl

theorem undefinedOutputs_congr (s t : State) (p : Nat) (j : Job) :
    Safety.undefinedOutputs t p j = Safety.undefinedOutputs s p j := by
  simp only [Safety.undefinedOutputs, jobRanges_written s t]

/-- The host ranges that a job writes do not depend on the state. -/
theorem hostRanges_congr (s t : State) (p : Nat) (j : Job) : hostRanges t p j = hostRanges s p j := by
  have only : ∀ u, hostRanges u p j = ((jobRanges u p j).filter Range.written).filterMap fun x =>
      match x.addr with
      | .host o =>
        if j.desc.claimed then
          let len := j.m * outStride j.desc.outputFormat.toNat j.n
          j.chunk.map fun i => (o + i * len, len)
        else some (o, x.len)
      | _ => none := by
    intro u
    unfold hostRanges
    rw [List.filterMap_filter]
    refine List.filterMap_congr fun x _ => ?_
    cases hx : x.written <;> cases x.addr <;> simp
  rw [only, only, jobRanges_written s t]

theorem StopWithin.congr (h : StopWithin p w s j) (e : t.apartJobs = s.apartJobs) : StopWithin p w t j :=
  ⟨fun x hx => (Outputs.covers_congr e).mpr (h.undefined x (undefinedOutputs_congr s t p j ▸ hx)),
    fun hw => hostRanges_congr s t p j ▸ h.host hw⟩

/-- A job that has been stopped waits to be posted, without claim and passes, and the press's macros settle (R222, R238). -/
theorem closeJob_ends {f : Job → Job} (hj : (s.press p).slot k = some j) (hi : j.internal = true)
    (hf : ∀ j, (f j).state = .posting ∧ (f j).internal = j.internal) :
    let t := signalSlot p k ((((returnClaim p k s).updPress p (dropPasses k)).updJob p k f).updPress p settleMacros)
    JobEnds p k w s t ∧ EndedInternal ((t.press p).slot k) := by
  have drop : JobWrites p k w _ ((returnClaim p k s).updPress p (dropPasses k)) := .keepPasses _
  have post : JobEnds p k w _ (((returnClaim p k s).updPress p (dropPasses k)).updJob p k f) := .updJob f
  have done := (JobWrites.settleMacros (p := p) (k := k) (w := w)
    (s := ((returnClaim p k s).updPress p (dropPasses k)).updJob p k f)).trans .signalSlot
  refine ⟨((JobEnds.returnClaim.trans drop.toJobEnds).trans post).trans done.toJobEnds, ?_⟩
  have slot : ((((returnClaim p k s).updPress p (dropPasses k)).updJob p k f).press p).slot k =
      some (f { j with chunk := none }) := by
    rw [State.slot_updJob, if_pos ⟨rfl, rfl⟩, State.press_updPress, if_pos rfl]
    show (((returnClaim p k s).press p).slot k).map f = _
    rw [returnClaim_slot, hj]
    rfl
  obtain ⟨j', hj', same⟩ := done.slot slot
  have hstate : j'.state = (f { j with chunk := none }).state := (congrArg Job.state same :)
  have hinternal : j'.internal = (f { j with chunk := none }).internal := (congrArg Job.internal same :)
  exact ⟨j', hj', hstate.trans (hf _).1, hinternal.trans ((hf _).2.trans hi)⟩

/-- An INTERNAL job that ends writes no more than its undefined outputs (R15, R222). -/
theorem JobEnds.finishJob (hj : (s.press p).slot k = some j) (hi : j.internal = true) (h : StopWithin p w s j) :
    JobEnds p k w s (finishJob p k s) ∧ EndedInternal (((finishJob p k s).press p).slot k) := by
  have undefine : JobWrites p k w s (if j.vatPulping then s else undefineFrom p k 0 s) := by
    split
    · exact .refl ..
    · exact .undefineFrom hj h.undefined
  simp only [Machine.finishJob, hj, hi, Bool.not_true, Bool.and_false, Bool.false_and, if_true]
  generalize (if j.vatPulping = true then s else Machine.undefineFrom p k 0 s) = s₁ at undefine ⊢
  have flush : JobWrites p k w s (if j.state = .running ∧ (!j.vatPulping) = true then
      flushAll p k (if false = true then .touched else .all) s₁ else s₁) := by
    split
    · refine undefine.trans (.flushAll fun hw j' hj' => ?_)
      obtain ⟨j₁, hj₁, same⟩ := undefine.slot hj
      obtain rfl : j₁ = j' := Option.some.inj (hj₁.symm.trans hj')
      calc hostRanges s₁ p j₁ = hostRanges s p j₁ := hostRanges_congr ..
        _ = hostRanges s p j := (congrArg (hostRanges s p) same :)
        _ = [] := h.host hw
    · exact undefine
  generalize (if j.state = .running ∧ (!j.vatPulping) = true then
      flushAll p k (if false = true then .touched else .all) s₁ else s₁) = s₂ at flush ⊢
  obtain ⟨j₂, hj₂, same⟩ := flush.slot hj
  have hi₂ : j₂.internal = j.internal := (congrArg Job.internal same :)
  exact (closeJob_ends hj₂ (hi₂.trans hi) (by exact fun _ => ⟨rfl, rfl⟩)).imp_left flush.toJobEnds.trans

/-- A job that is stopped INTERNAL ends so, unless it has ended before (R446). -/
theorem stopJob_internal (h : ∀ j, (s.press p).slot k = some j → j.state ≠ .posting → StopWithin p w s j) :
    let t := stopJob p k (fun j => { j with internal := true }) s
    JobEnds p k w s t ∧ (EndedInternal ((t.press p).slot k) ∨
      (t.press p).slot k = (s.press p).slot k ∧ ∀ j, (s.press p).slot k = some j → j.state = .posting) := by
  simp only [stopJob]
  split
  · exact ⟨(JobWrites.refl ..).toJobEnds, .inr ⟨rfl, by simp [*]⟩⟩
  · rename_i j hj
    split
    · exact ⟨(JobWrites.refl ..).toJobEnds, .inr ⟨rfl, by simp [*]⟩⟩
    · rename_i hs
      have mark : JobEnds p k w s (s.updJob p k fun j => { j with internal := true }) := .updJob _
      have slot : ((s.updJob p k fun j => { j with internal := true }).press p).slot k =
          some { j with internal := true } := by
        rw [State.slot_updJob, if_pos ⟨rfl, rfl⟩, hj]
        rfl
      have within : StopWithin p w s { j with internal := true } := ⟨(h j hj hs).undefined, (h j hj hs).host⟩
      exact (JobEnds.finishJob slot rfl (within.congr mark.device)).imp mark.trans .inl

/-! ## Every job of a press stopped INTERNAL -/

/-- What one turn of a loop reaches and every turn keeps holds after the loop. -/
theorem forL_reaches {α : Type} (P Q : State → Prop) {l : List α} {f : α → State → State} {x : α}
    (keepP : ∀ y ∈ l, ∀ t, P t → P (f y t)) (keepQ : ∀ y ∈ l, ∀ t, P t → Q t → Q (f y t)) (hx : x ∈ l)
    (reach : ∀ t, P t → Q (f x t)) (s : State) (hs : P s) : Q (forL l f s) := by
  induction l generalizing s with
  | nil => cases hx
  | cons y r ih =>
    show Q (forL r f (f y s))
    have keepP' : ∀ z ∈ r, ∀ t, P t → P (f z t) := fun z hz => keepP z (List.mem_cons_of_mem _ hz)
    have keepQ' : ∀ z ∈ r, ∀ t, P t → Q t → Q (f z t) := fun z hz => keepQ z (List.mem_cons_of_mem _ hz)
    have hy := keepP y List.mem_cons_self s hs
    rcases List.mem_cons.mp hx with rfl | hx
    · exact (forL_inv (fun t => P t ∧ Q t) r f (fun z hz t ht => ⟨keepP' z hz t ht.1, keepQ' z hz t ht.1 ht.2⟩) _
        ⟨hy, reach s hs⟩).2
    · exact ih keepP' keepQ' hx _ hy

/-- A job in a slot is one of the jobs of the press. -/
theorem PressRec.mem_jobs {r : PressRec} (h : r.slot k = some j) : (k, j) ∈ r.jobs := by
  have listed : ∀ l : Tab (Option Job), tget none l k = some j → (k, some j) ∈ l := by
    intro l
    induction l with
    | nil => simp [tget]
    | cons e r ih =>
      obtain ⟨i, o⟩ := e
      simp only [tget]
      split
      · rintro rfl
        simp [*]
      · exact fun h => List.mem_cons_of_mem _ (ih h)
  exact List.mem_filterMap.mpr ⟨(k, some j), listed _ h, rfl⟩

/-- Between s and t, jobs of press p ended within w, each as a job that was stopped INTERNAL. -/
def StoppedSome (p : Nat) (w : Outputs) (s t : State) : Prop :=
  JobsEnd p w s t ∧ ∀ i, (t.press p).slot i = (s.press p).slot i ∨ EndedInternal ((t.press p).slot i)

/-- One more job is stopped: those that have ended stay so, and this one has ended. -/
theorem StoppedSome.stopJob (h : StoppedSome p w s t)
    (hw : ∀ k j, (s.press p).slot k = some j → j.state ≠ .posting → StopWithin p w s j) (k : Nat) :
    let u := stopJob p k (fun j => { j with internal := true }) t
    StoppedSome p w s u ∧ (∀ i, EndedInternal ((t.press p).slot i) → EndedInternal ((u.press p).slot i)) ∧
      ∀ j, (s.press p).slot k = some j → j.state ≠ .posting → EndedInternal ((u.press p).slot k) := by
  intro u
  obtain ⟨ends, slots⟩ := h
  have within : ∀ j, (t.press p).slot k = some j → j.state ≠ .posting → StopWithin p w t j := by
    intro j hj hs
    rcases slots k with same | ⟨j', hj', ended, -⟩
    · exact (hw k j (same ▸ hj) hs).congr ends.device
    · exact absurd (Option.some.inj (hj.symm.trans hj') ▸ ended) hs
  obtain ⟨stops, slot⟩ := stopJob_internal (w := w) within
  have keep : ∀ i, (u.press p).slot i = (t.press p).slot i ∨ EndedInternal ((u.press p).slot i) := by
    intro i
    by_cases hi : i = k
    · exact hi ▸ slot.symm.imp_left And.left
    · exact .inl (stops.slots i hi)
  refine ⟨⟨ends.trans stops.toJobsEnd, fun i => ?_⟩, fun i ended => ?_, fun j hj hs => ?_⟩
  · exact (keep i).elim (fun same => same ▸ slots i) .inr
  · exact (keep i).elim (fun same => same ▸ ended) id
  · rcases slot with ended | ⟨same, posting⟩
    · exact ended
    · exact (slots k).elim (fun first => absurd (posting j (first.trans hj)) hs) fun ended => same ▸ ended

/-- The state with every job of press p stopped INTERNAL (R446). -/
def jobsStopped (p : Nat) (s : State) : State := stopJobs p (fun _ => true) (fun j => { j with internal := true }) s

/-- Stopping every job of a press INTERNAL writes no more than the outputs of the jobs that have not ended, and each of
those ends INTERNAL (R446). -/
theorem stopJobs_internal (hw : ∀ k j, (s.press p).slot k = some j → j.state ≠ .posting → StopWithin p w s j) :
    JobsEnd p w s (jobsStopped p s) ∧
      ∀ k j, (s.press p).slot k = some j → j.state ≠ .posting → EndedInternal (((jobsStopped p s).press p).slot k) := by
  have start : StoppedSome p w s s := ⟨.refl .., fun _ => .inl rfl⟩
  refine ⟨(forL_inv (StoppedSome p w s) _ _ (fun e _ t ht => (ht.stopJob hw e.1).1) s start).1, fun k j hj hs => ?_⟩
  have listed : (k, j) ∈ (s.press p).jobs.filter fun _ => true := by simpa using PressRec.mem_jobs hj
  exact forL_reaches (StoppedSome p w s) (fun t => EndedInternal ((t.press p).slot k))
    (fun e _ t ht => (ht.stopJob hw e.1).1) (fun e _ t ht => (ht.stopJob hw e.1).2.1 k) listed
    (fun t ht => (ht.stopJob hw k).2.2 j hj hs) s start

end Sys2Proof.Machine

end

section
/-! SUPPORT. PressCommand RESET (R444, R446, R463). -/

namespace Sys2Proof.Safety

open Sys2Proof.Machine

/-- What is logged since a state is logged since every state with the same events (R398). -/
theorem Logged.of_events {s s' t : State} {code : BitVec 16} {press unit vat : Option Nat} {detail : List Byte}
    (h : Logged s t code press unit vat detail) (e : s'.events = s.events) : Logged s' t code press unit vat detail := by
  unfold Logged at h ⊢
  rw [e]
  exact h

end Sys2Proof.Safety

namespace Sys2Proof.Machine

variable {p : Nat} {w : Outputs} {s t : State}

/-! ## Ends of jobs, part by part -/

/-- Jobs that end change these parts of the device alone. -/
theorem JobsEnd.frame (h : JobsEnd p w s t) :
    t = { s with
      presses := t.presses, streams := t.streams, counters := t.counters, hubs := t.hubs, free := t.free
      hostMem := t.hostMem, heldOps := t.heldOps, events := t.events } :=
  calc t = { t.apartJobs with
        presses := t.presses, streams := t.streams, counters := t.counters, hubs := t.hubs, free := t.free
        hostMem := t.hostMem, heldOps := t.heldOps, events := t.events } := rfl
    _ = _ := by rw [h.device]; rfl

/-- Jobs that end change of the hubs the contents of package memory and what copies hold alone. -/
theorem JobsEnd.hubs (h : JobsEnd p w s t) :
    t.hubs = { s.hubs with mem := t.hubs.mem, poison := t.hubs.poison, copies := t.hubs.copies } := by
  have e : t.hubs.apartData = s.hubs.apartData := (congrArg State.hubs h.device :)
  calc t.hubs = { t.hubs.apartData with mem := t.hubs.mem, poison := t.hubs.poison, copies := t.hubs.copies } := rfl
    _ = _ := by rw [e]; rfl

/-- Jobs of a press that end change of another press its scratch alone. -/
theorem JobsEnd.press_ne (h : JobsEnd p w s t) {q : Nat} (hq : q ≠ p) :
    t.press q = { s.press q with scratch := (t.press q).scratch } :=
  calc t.press q = { (t.press q).apartScratch with scratch := (t.press q).scratch } := rfl
    _ = _ := by rw [h.others q hq]; rfl

/-! ## A press zeroed and its counters cleared -/

theorem clearPasses_plate (r : PressRec) (q : Nat) : (clearPasses r).plate q = (r.plate q).apartPasses :=
  tget_tmap _ _ _ rfl

theorem clearPasses_bank (r : PressRec) (b : Nat) : (clearPasses r).bank b = (r.bank b).apartPasses :=
  tget_tmap _ _ _ rfl

/-- Zeroing clears of a plate its passes in flight (R446). -/
theorem zeroData_plate (r : PressRec) (q : Nat) : (zeroData r).plate q = (r.plate q).apartPasses := clearPasses_plate r q

/-- Zeroing clears OutputAcc, LastCodes and the passes of a bank (R446). -/
theorem zeroData_bank (r : PressRec) (b : Nat) :
    (zeroData r).bank b = { (r.bank b).apartPasses with outputAcc := [], lastCodes := [], lane := false } := by
  rw [← clearPasses_bank]
  exact tget_tmap _ _ _ rfl

/-- Zeroing clears AccReg of a macro (R446). -/
theorem zeroData_macro (r : PressRec) (m : Nat) : (zeroData r).macro' m = { r.macro' m with acc := [] } :=
  tget_tmap _ _ _ rfl

theorem clearPressCounters_bank (r : PressRec) (b : Nat) :
    (clearPressCounters r).bank b = { r.bank b with
        convMse := 0, convSignal := 0, clipCount := 0, windowConversions := 0, satDriftWindows := 0, cmRepeats := 0
        clipRepeats := 0, saturatedPasses := 0, coarseRounds := 0, maxAbs := [] } :=
  tget_tmap _ _ _ rfl

/-! ## The press after its reset -/

/-- A press zeroed, with its counters cleared and its generator seeded (R197, R446). -/
def PressRec.zeroed (r : PressRec) (seed : BitVec 64) : PressRec :=
  { clearPressCounters (zeroData r) with generator := seed, draws := 0 }

section
variable {r r' : PressRec} {seed : BitVec 64}

theorem PressRec.zeroed_slot (r : PressRec) (seed : BitVec 64) (k : Nat) : (r.zeroed seed).slot k = r.slot k := by
  simp only [PressRec.slot, PressRec.zeroed, clearPressCounters, zeroData, clearPasses]

theorem PressRec.zeroed_vat (r : PressRec) (seed : BitVec 64) : (r.zeroed seed).vat = r.vat := by
  simp only [PressRec.zeroed, clearPressCounters, zeroData, clearPasses]

/-- What a reset writes with zeros, the parts of plates, banks and macros apart (R446). -/
theorem PressRec.zeroed_cleared (r : PressRec) (seed : BitVec 64) :
    let x := r.zeroed seed
    x.scratch = [] ∧ x.felt = [] ∧ x.draws = 0 ∧ x.wrapRepeats = 0 ∧ x.overflowRepeats = 0 ∧ x.accSaturations = 0 ∧
      x.drainWaitMax = 0 ∧ x.eccCorrected = 0 ∧ x.eccUncorrected = 0 :=
  ⟨rfl, rfl, rfl, rfl, rfl, rfl, rfl, rfl, rfl⟩

/-- What a reset leaves of a press whose own jobs have ended (R446). -/
theorem OwnWork.zeroed_kept (h : OwnWork r r') :
    let x := r'.zeroed seed
    x.state = r.state ∧ x.vat = r.vat ∧ x.rotation = r.rotation ∧ x.refreshTarget = r.refreshTarget ∧
      x.logicalBase = r.logicalBase ∧ x.engraving = r.engraving ∧ x.thermal = r.thermal := by
  have kept : ∀ {α : Type} (g : PressRec → α), g r'.apartWork = g r.apartWork := fun g => congrArg g h.record
  exact ⟨kept PressRec.state, kept PressRec.vat, kept PressRec.rotation, kept PressRec.refreshTarget,
    kept PressRec.logicalBase, kept PressRec.engraving, kept PressRec.thermal⟩

/-- A plate of a press that has been reset has no passes in flight and is otherwise as it was (R446). -/
theorem OwnWork.zeroed_plate (h : OwnWork r r') (q : Nat) :
    (r'.zeroed seed).plate q = { r.plate q with integrators := [] } :=
  calc (r'.zeroed seed).plate q = (zeroData r').plate q := rfl
    _ = (r'.plate q).apartPasses := zeroData_plate r' q
    _ = _ := h.plate q

theorem OwnWork.zeroed_macro (h : OwnWork r r') (m : Nat) :
    ((r'.zeroed seed).macro' m).acc = [] ∧ ((r'.zeroed seed).macro' m).weights = (r.macro' m).weights ∧
      ((r'.zeroed seed).macro' m).valid = (r.macro' m).valid := by
  have e : (r'.zeroed seed).macro' m = { r'.macro' m with acc := [] } := zeroData_macro r' m
  rw [e]
  exact ⟨rfl, (congrArg MacroRec.weights (h.stipple m) :), (congrArg MacroRec.valid (h.stipple m) :)⟩

/-- A bank of a press that has been reset keeps its registers, its trims and its state (R446). -/
theorem OwnWork.zeroed_bank (h : OwnWork r r') (b : Nat) :
    let x := (r'.zeroed seed).bank b
    x.outputAcc = [] ∧ x.lastCodes = [] ∧ x.passBuffer = none ∧ x.replay = [] ∧ x.convMse = 0 ∧ x.clipCount = 0 ∧
      x.regs = (r.bank b).regs ∧ x.trim = (r.bank b).trim ∧ x.sliceTrim = (r.bank b).sliceTrim ∧
      x.state = (r.bank b).state := by
  have e : (r'.zeroed seed).bank b = (clearPressCounters (zeroData r')).bank b := rfl
  rw [e, clearPressCounters_bank, zeroData_bank, h.bank b]
  exact ⟨rfl, rfl, rfl, rfl, rfl, rfl, rfl, rfl, rfl, rfl⟩

end

/-! ## PressCommand RESET -/

/-- What the jobs of a press may write when a press reset stops them (R15, R446). -/
def stopOutputs (s : State) (p : Nat) : Outputs where
  scratch q o := ∃ k j e a n i, (s.press p).slot k = some j ∧ j.state ≠ .posting ∧
    (.scratch e a, n) ∈ Safety.undefinedOutputs s p j ∧ i < n ∧ s.physPress j.desc.vat.toNat e = some q ∧ a + i = o
  package x := ∃ k j a n i f, (s.press p).slot k = some j ∧ j.state ≠ .posting ∧
    (.package a, n) ∈ Safety.undefinedOutputs s p j ∧ i < n ∧ s.vatFrame j.desc.vat.toNat ((a + i) / 2048) = some f ∧
    2048 * f + (a + i) % 2048 = x
  host := ∃ k j, (s.press p).slot k = some j ∧ hostRanges s p j ≠ []

theorem stopWithin_stopOutputs {k : Nat} {j : Job} (hj : (s.press p).slot k = some j) (hs : j.state ≠ .posting) :
    StopWithin p (stopOutputs s p) s j where
  undefined := by
    rintro ⟨a, n⟩ hx
    cases a with
    | scratch e o => exact fun i q hi hq => ⟨k, j, e, o, n, i, hj, hs, hx, hi, hq, rfl⟩
    | package x => exact fun i f hi hf => ⟨k, j, x, n, i, f, hj, hs, hx, hi, hf, rfl⟩
    | host o => trivial
    | mailbox e o => trivial
  host hw := by
    by_contra hr
    exact hw ⟨k, j, hj, hr⟩

/-- A press whose jobs have been stopped is zeroed and reseeded, and the reset is counted (R197, R446). -/
def zeroPress (p : Nat) (s : State) : State :=
  countReset 2 (reseed p ((claimsOfPress (Fin.ofNat 68 p) s).updPress p fun r => clearPressCounters (zeroData r)))

/-- The state that a press reset leaves (R446, R463). -/
def pressResetDone (p ms : Nat) (s : State) : State :=
  raiseResetDone (some p) ((jobsStopped p s).pressVat p) 3 ms (zeroPress p (jobsStopped p s))

/-- Between s, where the jobs of press p have been stopped, and t the press was zeroed, its counters cleared, its generator
seeded, and RESET_DONE raised. -/
structure PressZeroed (p ms : Nat) (s t : State) : Prop where
  own : ∃ seed, t.press p = (s.press p).zeroed seed
  others : ∀ q, q ≠ p → t.press q = s.press q
  frame : t = { s with
    presses := t.presses, counters := t.counters, free := t.free
    dev := { s.dev with resetCounts := lset s.dev.resetCounts 2 (satInc (lget 0 s.dev.resetCounts 2)) }
    events := t.events }
  logged : Safety.Logged s t evResetDone (some p) none (s.pressVat p) (leBytes 1 3 ++ [0, 0, 0] ++ leBytes 4 ms)

/-- Claims that return to their lists change the work counters alone (R240). -/
theorem claimsOfPress_frame (q : Press) (s : State) :
    claimsOfPress q s = { s with counters := (claimsOfPress q s).counters } := by
  let P : State → Prop := fun t => t = { s with counters := t.counters }
  refine forL_inv P _ _ (fun c _ t ht => ?_) s rfl
  show _ = _
  rw [ht]
  rfl

theorem zeroPress_frame (p : Nat) (s : State) :
    zeroPress p s = { s with
      presses := (zeroPress p s).presses, counters := (zeroPress p s).counters, free := s.free + 1
      dev := { s.dev with resetCounts := lset s.dev.resetCounts 2 (satInc (lget 0 s.dev.resetCounts 2)) } } := by
  unfold zeroPress
  rw [claimsOfPress_frame]
  rfl

theorem zeroPress_press (p : Nat) (s : State) (q : Nat) :
    (zeroPress p s).press q =
      if q = p then (s.press p).zeroed ((Config.randomBits s.free).setWidth 64) else s.press q := by
  unfold zeroPress
  rw [claimsOfPress_frame]
  generalize (claimsOfPress (Fin.ofNat 68 p) s).counters = c
  show ((State.updPress { s with counters := c } p fun r => clearPressCounters (zeroData r)).updPress p fun r =>
    { r with generator := (Config.randomBits s.free).setWidth 64, draws := 0 }).press q = _
  simp only [State.press_updPress, if_true]
  split <;> rfl

theorem raiseResetDone_press (o v : Option Nat) (kind ms : Nat) (s : State) :
    (raiseResetDone o v kind ms s).press = s.press := rfl

theorem pressResetDone_zeroed (p ms : Nat) (s : State) : PressZeroed p ms (jobsStopped p s) (pressResetDone p ms s) := by
  have press : (pressResetDone p ms s).press = (zeroPress p (jobsStopped p s)).press := by
    rw [pressResetDone, raiseResetDone_press]
  have events : (jobsStopped p s).events = (zeroPress p (jobsStopped p s)).events := by rw [zeroPress_frame]
  constructor
  case own => exact ⟨_, by rw [press, zeroPress_press, if_pos rfl]⟩
  case others =>
    intro q hq
    rw [press, zeroPress_press, if_neg hq]
  case frame =>
    unfold pressResetDone raiseResetDone
    rw [raise_frame, zeroPress_frame]
  case logged => exact (raise_logged ..).of_events events

/-- A press reset is refused while the press is not ACTIVE, its vat is pulped or reset, or the device is reset (R444). -/
theorem pressReset_refused {p ms : Nat} {s : State} (h : (s.press p).state ≠ .active ∨ s.dev.state = .deviceReset ∨
      ∃ v, (s.press p).vat = some v ∧ ((s.vat v).state = .pulping ∨ (s.vat v).state = .resetting)) :
    pressReset p ms s = (resState, s) := by
  refine if_pos ?_
  rcases h with h | h | ⟨v, hv, h⟩
  · exact .inl h
  · exact .inr (.inr h)
  · refine .inr (.inl ?_)
    rw [hv]
    exact decide_eq_true h

/-- Otherwise its jobs are stopped, the press is zeroed, and RESET_DONE is raised (R446, R463). -/
theorem pressReset_accepted {p ms : Nat} {s : State} (ha : (s.press p).state = .active) (hd : s.dev.state ≠ .deviceReset)
    (hv : ∀ v, (s.press p).vat = some v → (s.vat v).state ≠ .pulping ∧ (s.vat v).state ≠ .resetting) :
    pressReset p ms s = (resOk, pressResetDone p ms s) := by
  have vat : ((claimsOfPress (Fin.ofNat 68 p) (jobsStopped p s)).updPress p
      fun r => clearPressCounters (zeroData r)).pressVat p = (jobsStopped p s).pressVat p := by
    rw [claimsOfPress_frame, State.pressVat, State.press_updPress, if_pos rfl]
    exact congrArg (Option.map Fin.val) (PressRec.zeroed_vat _ 0)
  have busy : ¬((s.press p).state ≠ .active ∨ (match (s.press p).vat with
      | some v => decide ((s.vat v.val).state = .pulping ∨ (s.vat v.val).state = .resetting)
      | none => false) = true ∨ s.dev.state = .deviceReset) := by
    rintro (h | h | h)
    · exact h ha
    · split at h
      · rename_i v e
        exact (of_decide_eq_true h).elim (hv v e).1 (hv v e).2
      · cases h
    · exact hd h
  rw [pressResetDone, ← vat]
  exact if_neg busy

/-- The indices whose one entry stands at sub-index 0 lie in the standard area (R396). -/
theorem lt_of_plainIndex {idx : Nat} (h : plainIndex idx = true) : idx < 0x2000 := by
  unfold plainIndex standard1000 at h
  split at h <;> simp_all

/-- The entry PressCommand (R461). -/
theorem objAt_pressCommand (p : Press) :
    objAt (0x2300 + p.val) 0x02 = some ((command (.num 1) mh (pressCommand p)).ownedBy (.press p)) := by
  have plain : plainIndex (0x2300 + p.val) = false := by
    by_contra h
    have := lt_of_plainIndex (Bool.eq_true_of_not_eq_false h)
    omega
  have area : (pressAreas.findSome? fun a => (within (0x2300 + p.val) a.1 68).map fun p => (a.2.1, a.2.2 p)) =
      some (0x04, presses2300 p.val) := by
    have here : within (0x2300 + p.val) 0x2300 68 = some p.val := by
      simp only [within]
      rw [if_pos (by omega), Nat.add_sub_cancel_left]
    simp only [pressAreas, List.findSome?_cons, here, Option.map_some]
  have index : indexOf (0x2300 + p.val) = some (0x04, presses2300 p.val) := by
    unfold indexOf
    rw [area]
    rfl
  simp [objAt, plain, index, presses2300]

/-- M and H may write PressCommand (R461). -/
theorem exec_pressReset {pr : Principal} (p : Press) (ms : Nat) {s : State} (hs : s.dev.started = true)
    (hpr : pr = .M ∨ pr = .H) :
    exec (.pressReset pr p ms) s = .next ((pressReset p ms s).2.answer (pressReset p ms s).1) := by
  have check : writeCheck s pr false ((command (.num 1) mh (pressCommand p)).ownedBy (.press p)) 0 [1] = resOk := by
    rcases hpr with rfl | rfl <;> rfl
  show execPressReset pr p ms s = _
  simp only [execPressReset, hs, objAt_pressCommand, check]
  rfl

end Sys2Proof.Machine

namespace Sys2Proof.Settled

open Sys2Proof.Machine Sys2Proof.Safety

/-- Settles O15: the jobs that a press reset stops write no more than their undefined outputs, and zeroing and clearing
change the press alone. -/
theorem pressReset : Obligations.PressReset := by
  intro pr p ms s hs hpr
  rw [exec_pressReset p ms hs hpr]
  refine ⟨fun h => by rw [pressReset_refused h], fun ha hd hv => ⟨pressResetDone p ms s, ?_, ?_⟩⟩
  · rw [pressReset_accepted ha hd hv]
  obtain ⟨ends, ended⟩ := stopJobs_internal (p := p) (w := stopOutputs s p) fun k j hj hs => stopWithin_stopOutputs hj hs
  have zeroed := pressResetDone_zeroed p ms s
  generalize pressResetDone p ms s = t at zeroed ⊢
  generalize jobsStopped p s = u at ends ended zeroed
  obtain ⟨seed, own⟩ := zeroed.own
  obtain ⟨scratch, felt, draws, wrap, overflow, saturations, drainWait, corrected, uncorrected⟩ :=
    (u.press p).zeroed_cleared seed
  obtain ⟨state, vat, rotation, target, base, engraving, thermal⟩ := ends.own.zeroed_kept (seed := seed)
  have hubs : t.hubs = u.hubs := by rw [zeroed.frame]
  have pressVat : u.pressVat p = s.pressVat p := by
    rw [State.pressVat, ← PressRec.zeroed_vat _ seed, vat, State.pressVat]
  have logged := pressVat ▸ zeroed.logged
  rw [own]
  refine ⟨scratch, felt, draws, ends.own.zeroed_macro, ends.own.zeroed_bank, ends.own.zeroed_plate, wrap, overflow,
    saturations, drainWait, corrected, uncorrected, fun k j hj hs => ?_, state.trans ha, vat, rotation, target, base,
    engraving, thermal, fun q hq => ?_, fun q o hq hout => ?_, fun x hout => ?_, ?_, ⟨u, logged⟩, fun quiet => ?_, ?_, ?_⟩
  · rw [PressRec.zeroed_slot]
    exact ended k j hj hs
  · rw [zeroed.others q (Fin.val_ne_of_ne hq)]
    exact ends.press_ne (Fin.val_ne_of_ne hq)
  · rw [zeroed.others q (Fin.val_ne_of_ne hq)]
    exact ends.scratch q o fun ⟨k, j, e, a, n, i, hj, hs, hx, hi, hq', e'⟩ => hout k j e a n i hj hs hx hi hq' e'
  · rw [hubs]
    exact ends.package x fun ⟨k, j, a, n, i, f, hj, hs, hx, hi, hf, e'⟩ => hout k j a n i f hj hs hx hi hf e'
  · rw [zeroed.frame, ends.frame]
  · obtain ⟨hstreams, hmem, hevents⟩ := ends.host fun ⟨k, j, hj, hr⟩ => hr (quiet k j hj)
    exact ⟨by rw [zeroed.frame, hstreams], by rw [zeroed.frame, hmem], logged.of_events hevents.symm⟩
  · rw [zeroed.frame, ends.frame]
  · rw [hubs]
    exact ends.hubs

end Sys2Proof.Settled

end

section
/-! SUPPORT. The machine at reset (R449). -/

namespace Sys2Proof.Machine

/-- At a cold reset every table is empty, so every part of the device holds its default. -/
theorem reset_parts (i : Nat) :
    State.reset.vat i = {} ∧ State.reset.stream i = {} ∧ State.reset.press i = {} ∧ State.reset.counter i = {} :=
  ⟨rfl, rfl, rfl, rfl⟩

/-- At a cold reset every page is FREE, the map frames too (R287, R288). -/
theorem reset_pageEntry (f : Nat) : (State.reset.pageEntry f).state = .free := by
  unfold State.pageEntry
  split <;> rfl

end Sys2Proof.Machine

namespace Sys2Proof.Settled

open Sys2Proof.Machine

/-- Settles O2: every part of the device reads its default from an empty table. -/
theorem resetValues : Obligations.ResetValues := by
  refine ⟨fun v => ?_, fun i => ?_, fun p => ?_, reset_pageEntry, fun c => ?_, rfl, rfl, rfl, rfl, rfl, rfl⟩
  · rw [(reset_parts v).1]
    exact ⟨rfl, rfl⟩
  · rw [(reset_parts i).2.1]
    exact ⟨rfl, rfl⟩
  · rw [(reset_parts p).2.2.1]
    exact ⟨rfl, rfl, rfl, rfl, fun _ => rfl, fun _ => ⟨rfl, rfl⟩, fun _ => rfl⟩
  · rw [(reset_parts c).2.2.2]
    exact ⟨rfl, rfl, rfl⟩

end Sys2Proof.Settled

end

section
/-! SUPPORT. Direct writes of dictionary entries (R385 to R391): where the entries of a vat's reams stand, and what a write of
an entry answers. -/

namespace Sys2Proof.Machine

variable {pr : Principal} {idx sub off : Nat} {data : List Byte} {s : State}

/-- A write that carries more than 1,024 bytes is refused with LENGTH before every other check (R389). -/
theorem direct_tooLong (hs : s.dev.started = true) (h : 1024 < data.length) :
    direct pr idx sub off data s = .next (s.answer resLength) := by
  simp only [direct, hs, Bool.not_true, Bool.false_eq_true, if_false, if_pos h]

/-- A ledger write of more than 1,024 bytes is answered LENGTH, whoever writes (R331, R389). -/
theorem enduranceLedgerWrite_tooLong {p : Press} (hs : s.dev.started = true) (h : 1024 < data.length) :
    exec (.enduranceLedgerWrite pr p data) s = .next (s.answer resLength) := direct_tooLong hs h

/-- A write of an entry that passes its checks is a write by its rule (R391). -/
theorem writeWith_accepted {e : Obj} (n : Nat) (hsub : sub ≠ 0) (he : objAt idx sub = some e) (hx : idx ≠ 0x2D10)
    (hc : writeCheck s pr (decide (idx = 0x2920)) e off data = resOk) :
    writeWith (n + 1) pr idx sub off data s = e.put pr off data s := by
  obtain ⟨k, rfl⟩ := Nat.exists_eq_succ_of_ne_zero hsub
  rw [writeWith]
  · simp only [he, hc, hx, ne_eq, not_true_eq_false, false_and, if_false]
  · simp

/-- A write that passes the checks of its entry is answered by the entry's own rule (R391). -/
theorem direct_accepted {e : Obj} (hs : s.dev.started = true) (hd : data.length ≤ 1024) (hsub : sub ≠ 0)
    (he : objAt idx sub = some e) (hx : idx ≠ 0x2D10) (hc : writeCheck s pr (decide (idx = 0x2920)) e off data = resOk) :
    direct pr idx sub off data s = .next ((e.put pr off data s).2.answer (e.put pr off data s).1) := by
  have write : writeEntry pr idx sub off data s = e.put pr off data s := writeWith_accepted 31 hsub he hx hc
  simp only [direct, hs, Bool.not_true, Bool.false_eq_true, if_false, if_neg (Nat.not_lt.mpr hd), write]

/-- Index i of an area of indices. -/
theorem within_add {base n i : Nat} (h : i < n) : within (base + i) base n = some i := by
  rw [within, if_pos ⟨Nat.le_add_right _ _, Nat.add_lt_add_left h base⟩, Nat.add_sub_cancel_left]

/-- An index outside an area. -/
theorem within_outside {base n : Nat} (h : idx < base ∨ base + n ≤ idx) : within idx base n = none :=
  if_neg fun h' => by omega

/-- The entries of a vat's reams (R334 to R337). -/
theorem objAt_reams (v : Vat) (hsub : sub ≠ 0) : objAt (0x2A10 + v.val) sub = reams2A10 v.val sub := by
  have hv := v.isLt
  have plain : plainIndex (0x2A10 + v.val) = false := by
    by_contra h
    have := lt_of_plainIndex (Bool.eq_true_of_not_eq_false h)
    omega
  have press : (pressAreas.findSome? fun a => (within (0x2A10 + v.val) a.1 68).map fun p => (a.2.1, a.2.2 p)) = none := by
    refine List.findSome?_eq_none_iff.mpr fun a ha => ?_
    have far : ∀ a ∈ pressAreas, a.1 + 68 ≤ 0x2A10 ∨ 0x2A18 ≤ a.1 := by
      simp [pressAreas]
    rw [within_outside (by have := far a ha; omega)]
    rfl
  have vat : (vatAreas.findSome? fun a => (within (0x2A10 + v.val) a.1 8).map fun v => (a.2.1, a.2.2 v)) =
      some (0x0C, reams2A10 v.val) := by
    have early : ∀ base, base + 8 ≤ 0x2A10 → within (0x2A10 + v.val) base 8 = none := fun base h => within_outside (by omega)
    simp only [vatAreas, List.findSome?_cons, early 0x2100 (by decide), early 0x2610 (by decide), within_add hv,
      Option.map_none, Option.map_some]
  have index : indexOf (0x2A10 + v.val) = some (0x0C, reams2A10 v.val) := by
    unfold indexOf
    rw [press, vat]
    rfl
  simp only [objAt, plain, index, if_neg hsub, Bool.false_eq_true, if_false]

end Sys2Proof.Machine

namespace Sys2Proof.Settled

open Sys2Proof.Machine

/-- Refutes O55: a ledger write by H of 1,025 bytes is answered LENGTH, not RIGHTS, for no dictionary request carries more
than 1,024 bytes (R389) and that is checked before the rights. -/
theorem not_refreshAndTrim : ¬ Obligations.RefreshAndTrim := by
  intro h
  have length : exec (.enduranceLedgerWrite .H 0 (List.replicate 1025 0)) { dev := { started := true } } =
      .next (({ dev := { started := true } } : State).answer resLength) :=
    enduranceLedgerWrite_tooLong rfl (by rw [List.length_replicate]; omega)
  have rights := (h.1 0 (List.replicate 1025 0) { dev := { started := true } } rfl).1 .H (by decide)
  have same := Host.Outcome.next.inj (length.symm.trans rights)
  have result : resLength = resRights := congrArg (fun t => t.mgmt.result) same
  exact absurd result (by decide)

end Sys2Proof.Settled

end

section
/-! SUPPORT. Reads of the staging area (R284, R296 to R298): what they change, what they do without poison, and on what they
depend. -/

namespace Sys2Proof.Machine

/-! ## What a loop does to two states -/

/-- A relation that every turn of a loop keeps between two runs of it holds between their ends. -/
theorem forL_rel {α : Type} (R : State → State → Prop) (l : List α) (f g : α → State → State)
    (h : ∀ x ∈ l, ∀ s t, R s t → R (f x s) (g x t)) (s t : State) (hst : R s t) : R (forL l f s) (forL l g t) := by
  induction l generalizing s t with
  | nil => exact hst
  | cons x r ih => exact ih (fun y hy => h y (List.mem_cons_of_mem _ hy)) _ _ (h x List.mem_cons_self s t hst)

/-! ## What errors of package memory change -/

/-- The device apart from its package memory, its event store and the free values drawn. -/
def State.apartStore (s : State) : State := { s with hubs := {}, events := {}, free := 0 }

theorem raise_apartStore (c : BitVec 16) (p u v : Option Nat) (d : List Byte) (s : State) :
    (raise c p u v d s).apartStore = s.apartStore := rfl

theorem retireAlone_apartStore (f c : Nat) (s : State) : (retireAlone f c s).apartStore = s.apartStore := rfl

theorem retargetCopy_apartStore (f : Nat) (s : State) : (retargetCopy f s).apartStore = s.apartStore := by
  refine forL_keep State.apartStore _ _ (fun c _ t => ?_) s
  split
  · rfl
  · split <;> rfl

theorem retirePage_apartStore (f c : Nat) (s : State) : (retirePage f c s).apartStore = s.apartStore := by
  simp only [retirePage]
  split
  · rfl
  · split
    · split <;> rfl
    · exact (retargetCopy_apartStore ..).trans (retireAlone_apartStore ..)

theorem mapFrameLost_apartStore (m : Nat) (s : State) : (mapFrameLost m s).apartStore = s.apartStore := by
  refine (raise_apartStore ..).trans (forL_keep State.apartStore _ _ (fun f _ t => ?_) s)
  split
  · rfl
  · exact retargetCopy_apartStore ..

theorem uncorrectableError_apartStore (f : Nat) (s : State) : (uncorrectableError f s).apartStore = s.apartStore := by
  simp only [uncorrectableError]
  split
  · exact mapFrameLost_apartStore ..
  · exact retirePage_apartStore ..

theorem stagedFaults_apartStore (x : StagedRead) (s : State) : (stagedFaults x s).apartStore = s.apartStore := by
  refine (forL_keep State.apartStore _ _ (fun f _ t => uncorrectableError_apartStore f t) _).trans ?_
  split <;> rfl

/-- Reads of the staging area change package memory, the event store and the free values drawn alone. -/
theorem readSections_apartStore (v : Nat) (r : Ream) (l : List Section) (s : State) :
    (readSections v r l s).2.apartStore = s.apartStore := by
  induction l generalizing s with
  | nil => rfl
  | cons x l ih => exact (ih _).trans (stagedFaults_apartStore _ s)

/-! ## Reads without poison -/

/-- No word of package memory is poisoned (R284). -/
def State.clean (s : State) : Prop := ∀ f i, s.poisoned f i = false

theorem State.clean.of_hubs {s t : State} (h : s.clean) (e : t.hubs = s.hubs) : t.clean := fun f i => by
  rw [State.poisoned, e]
  exact h f i

theorem readSection_bad {s : State} (h : s.clean) (v : Nat) (r : Ream) (x : Section) : (readSection s v r x).bad = [] := by
  have none : ∀ o : Option Nat, ∀ i, (o.any fun f => s.poisoned f i) = false := by
    intro o i
    cases o with
    | none => rfl
    | some f => exact h f i
  simp only [readSection, none, Bool.false_eq_true, if_false, List.filterMap_none]
  split <;> rfl

/-- Reads of words without poison change nothing. -/
theorem readSections_clean {s : State} (h : s.clean) (v : Nat) (r : Ream) (l : List Section) :
    (readSections v r l s).2 = s := by
  induction l with
  | nil => rfl
  | cons x l ih =>
    have quiet : stagedFaults (readSection s v r x) s = s := by
      simp only [stagedFaults, readSection_bad h, if_true]
      rfl
    simp only [readSections, quiet, ih]

/-! ## What reads depend on -/

/-- A vat apart from its exact counts. -/
def VatRec.apartExact (r : VatRec) : VatRec := { r with exact := [] }

/-- Two states read their staging areas alike: package memory, the free values drawn and, exact counts apart, the vats are
the same. -/
structure ReadsAlike (s t : State) : Prop where
  hubs : t.hubs = s.hubs
  free : t.free = s.free
  vat : ∀ v, (t.vat v).apartExact = (s.vat v).apartExact

namespace ReadsAlike

variable {s t : State}

theorem refl (s : State) : ReadsAlike s s := ⟨rfl, rfl, fun _ => rfl⟩

/-- Of a vat, all but its exact counts is the same. -/
theorem vat_eq (h : ReadsAlike s t) (v : Nat) {α : Type} (g : VatRec → α)
    (hg : ∀ r, g r.apartExact = g r := by intro; rfl) : g (t.vat v) = g (s.vat v) := by
  rw [← hg, h.vat, hg]

theorem pageEntry (h : ReadsAlike s t) (f : Nat) : t.pageEntry f = s.pageEntry f := by
  simp only [State.pageEntry, h.hubs]

theorem poisoned (h : ReadsAlike s t) (f i : Nat) : t.poisoned f i = s.poisoned f i := by
  simp only [State.poisoned, h.hubs]

theorem inSomeQuota (h : ReadsAlike s t) (f : Nat) : inSomeQuota t f = inSomeQuota s f := by
  have e : ∀ v, (if (t.vat v).state ≠ .off ∧ (t.vat v).quotaBase.toNat ≤ f ∧
        f < (t.vat v).quotaBase.toNat + (t.vat v).quotaPages.toNat
      then some ((t.vat v).quotaBase.toNat, (t.vat v).quotaPages.toNat) else none) = _ :=
    fun v => h.vat_eq v fun r => if r.state ≠ .off ∧ r.quotaBase.toNat ≤ f ∧ f < r.quotaBase.toNat + r.quotaPages.toNat
      then some (r.quotaBase.toNat, r.quotaPages.toNat) else none
  simp only [Machine.inSomeQuota, e]

theorem findPool (h : ReadsAlike s t) (stack n f : Nat) : findPool t stack n f = findPool s stack n f := by
  induction n generalizing f with
  | zero => rfl
  | succ n ih => simp only [Machine.findPool, h.inSomeQuota, h.pageEntry, h.hubs, ih]

theorem poolFrame (h : ReadsAlike s t) (f : Nat) : poolFrame t f = poolFrame s f := by
  simp only [Machine.poolFrame, h.findPool]

theorem pageFrame (h : ReadsAlike s t) (use : PageUse) (v p : Nat) : t.pageFrame use v p = s.pageFrame use v p := by
  simp only [State.pageFrame, h.vat_eq v VatRec.quotaPages, h.vat_eq v VatRec.quotaBase, h.pageEntry]

theorem readSection (h : ReadsAlike s t) (v : Nat) (r : Ream) (x : Section) : readSection t v r x = readSection s v r x := by
  simp only [Machine.readSection, h.pageFrame, h.poisoned, h.free, h.vat_eq v fun r i => stagingPage r i]

theorem updHubs (h : ReadsAlike s t) (g : Hubs → Hubs) : ReadsAlike (s.updHubs g) (t.updHubs g) :=
  ⟨congrArg g h.hubs, h.free, h.vat⟩

theorem updEntry (h : ReadsAlike s t) (f : Nat) (g : PageEntry → PageEntry) :
    ReadsAlike (s.updEntry f g) (t.updEntry f g) := h.updHubs _

/-- Events raised do not matter to reads. -/
theorem raise (h : ReadsAlike s t) {c c' : BitVec 16} {p p' u u' v v' : Option Nat} {d d' : List Byte} :
    ReadsAlike (raise c p u v d s) (Machine.raise c' p' u' v' d' t) := ⟨h.hubs, h.free, h.vat⟩

theorem retireAlone (h : ReadsAlike s t) (f c : Nat) : ReadsAlike (retireAlone f c s) (Machine.retireAlone f c t) :=
  (h.updEntry f _).raise

theorem retargetCopy (h : ReadsAlike s t) (f : Nat) : ReadsAlike (retargetCopy f s) (Machine.retargetCopy f t) := by
  simp only [Machine.retargetCopy, h.hubs]
  refine forL_rel ReadsAlike _ _ _ (fun c _ a b hab => ?_) s t h
  simp only [hab.poolFrame, hab.pageEntry]
  split
  · exact hab.updHubs _
  · split
    · exact (hab.retireAlone ..).raise
    · exact hab

theorem retirePage (h : ReadsAlike s t) (f c : Nat) : ReadsAlike (retirePage f c s) (Machine.retirePage f c t) := by
  simp only [Machine.retirePage, h.pageEntry, h.hubs, h.poolFrame]
  split
  · exact h
  · split
    · split
      · exact h.updHubs _
      · exact (h.retireAlone ..).raise
    · exact (h.retireAlone ..).retargetCopy f

theorem mapFrameLost (h : ReadsAlike s t) (m : Nat) : ReadsAlike (mapFrameLost m s) (Machine.mapFrameLost m t) := by
  refine (forL_rel ReadsAlike _ _ _ (fun f _ a b hab => ?_) s t h).raise
  split
  · exact hab
  · exact (hab.updEntry f _).retargetCopy f

theorem uncorrectableError (h : ReadsAlike s t) (f : Nat) :
    ReadsAlike (uncorrectableError f s) (Machine.uncorrectableError f t) := by
  simp only [Machine.uncorrectableError]
  split
  · exact (h.updHubs _).raise.mapFrameLost f
  · exact (h.updHubs _).raise.retirePage f 2

theorem stagedFaults (h : ReadsAlike s t) (x : StagedRead) : ReadsAlike (stagedFaults x s) (Machine.stagedFaults x t) := by
  refine forL_rel ReadsAlike _ _ _ (fun f _ a b hab => hab.uncorrectableError f) _ _ ?_
  split
  · exact h
  · exact ⟨h.hubs, by rw [h.free], h.vat⟩

/-- Staging areas that read alike give the same bytes. -/
theorem readSections (h : ReadsAlike s t) (v : Nat) (r : Ream) (l : List Section) :
    (readSections v r l t).1 = (Machine.readSections v r l s).1 := by
  induction l generalizing s t with
  | nil => rfl
  | cons x l ih =>
    simp only [Machine.readSections, h.readSection]
    rw [ih (h.stagedFaults _)]

end ReadsAlike

/-! ## The content that an engraving reads -/

theorem readContent_apartStore (p v : Nat) (c : Content) (s : State) : (readContent p v c s).2.apartStore = s.apartStore := by
  simp only [readContent]
  split
  · rfl
  · exact readSections_apartStore ..

theorem readEngraved_apartStore (e : EngReq) (s : State) : (readEngraved e s).2.apartStore = s.apartStore := by
  simp only [readEngraved]
  split
  · exact readContent_apartStore ..
  · rfl

theorem readContent_clean {s : State} (h : s.clean) (p v : Nat) (c : Content) : (readContent p v c s).2 = s := by
  simp only [readContent]
  split
  · rfl
  · exact readSections_clean h ..

theorem readEngraved_clean {s : State} (h : s.clean) (e : EngReq) : (readEngraved e s).2 = s := by
  simp only [readEngraved]
  split
  · exact readContent_clean h ..
  · rfl

/-- Staging areas that read alike give the same content for a press that serves the same vat in the same place. -/
theorem ReadsAlike.readEngraved {s t : State} (h : ReadsAlike s t) {e : EngReq}
    (hv : (t.press e.press).vat = (s.press e.press).vat) (hp : (t.press e.press).vatPress = (s.press e.press).vatPress) :
    (readEngraved e t).1 = (Machine.readEngraved e s).1 := by
  have content : ∀ v c, (readContent e.press v c t).1 = (readContent e.press v c s).1 := by
    intro v c
    simp only [readContent, contentSections, hp, h.vat_eq v VatRec.reams]
    split
    · rfl
    · simp only [h.readSections]
  have vat : t.pressVat e.press = s.pressVat e.press := congrArg (Option.map Fin.val) hv
  simp only [Machine.readEngraved, vat]
  split
  · simp only [content]
  · rfl

end Sys2Proof.Machine

end

section
/-! SUPPORT. How a swap goes on (R326): what its turns change, that they do nothing without a swap, what the loads of step 3
change, and a plate that waits for them. -/

namespace Sys2Proof.Machine

variable {s t u : State} {p v m : Nat}

/-! ## What the turns of a swap change -/

/-- The device apart from what swaps change. -/
def State.apartSwap (s : State) : State :=
  { s with vats := [], presses := [], engQueue := [], hubs := {}, events := {}, free := 0 }

theorem apartSwap_of_apartStore (h : t.apartStore = s.apartStore) : t.apartSwap = s.apartSwap :=
  (congrArg State.apartSwap h :)

/-- Swaps change these parts of the device alone. -/
theorem State.eq_of_apartSwap (h : t.apartSwap = s.apartSwap) :
    t = { s with vats := t.vats, presses := t.presses, engQueue := t.engQueue, hubs := t.hubs, events := t.events
                 free := t.free } :=
  calc t = { t.apartSwap with vats := t.vats, presses := t.presses, engQueue := t.engQueue, hubs := t.hubs
                              events := t.events, free := t.free } := rfl
    _ = _ := by rw [h]; rfl

theorem loadSections_apartSwap (p m v : Nat) (s : State) : (loadSections p m v s).apartSwap = s.apartSwap := by
  simp only [loadSections]
  split
  · rfl
  · refine (forL_keep State.apartSwap _ _ (fun e _ t => ?_) _).trans (apartSwap_of_apartStore (readSections_apartStore ..))
    split <;> rfl

theorem requestMacros_apartSwap (v : Nat) (s : State) : (requestMacros v s).apartSwap = s.apartSwap := by
  refine forL_keep State.apartSwap _ _ (fun e _ t => ?_) s
  dsimp only
  split
  · exact loadSections_apartSwap ..
  · rfl

theorem requestPlates_apartSwap (p v : Nat) (s : State) : (requestPlates p v s).apartSwap = s.apartSwap := by
  refine forN_keep State.apartSwap _ _ (fun n _ t => ?_) s
  dsimp only
  split <;> rfl

theorem goLive_apartSwap (p q : Nat) (c : Content) (s : State) : (goLive p q c s).apartSwap = s.apartSwap := by
  simp only [goLive]
  split <;> rfl

theorem plateDone_apartSwap (p q : Nat) (s : State) : (plateDone p q s).apartSwap = s.apartSwap := by
  simp only [plateDone]
  split <;> rfl

theorem readyPlates_apartSwap (p v : Nat) (s : State) : (readyPlates p v s).apartSwap = s.apartSwap := by
  simp only [readyPlates]
  split
  · refine forN_keep State.apartSwap _ _ (fun q _ t => ?_) s
    split
    · exact (plateDone_apartSwap ..).trans (goLive_apartSwap ..)
    · rfl
  · rfl

theorem completeSwap_apartSwap (v : Nat) (s : State) : (completeSwap v s).apartSwap = s.apartSwap := by
  refine (apartSwap_of_apartStore (raise_apartStore ..)).trans ?_
  refine (forL_keep State.apartSwap _ (fun p t => t.updPress p resumeRotation) (fun _ _ _ => rfl) _).trans ?_
  exact forL_keep State.apartSwap _ zeroFrame (fun _ _ _ => rfl) s

theorem checkSwap_apartSwap (v : Nat) (s : State) : (checkSwap v s).apartSwap = s.apartSwap := by
  simp only [checkSwap]
  split
  · exact completeSwap_apartSwap ..
  · rfl

theorem advanceSwap_apartSwap (v : Nat) (s : State) : (advanceSwap v s).apartSwap = s.apartSwap := by
  simp only [advanceSwap]
  split
  · have begun := requestMacros_apartSwap v s
    refine (checkSwap_apartSwap ..).trans ((forL_keep State.apartSwap _ _ (fun p _ t => ?_) _).trans begun)
    exact (readyPlates_apartSwap ..).trans (requestPlates_apartSwap ..)
  · exact requestMacros_apartSwap ..

theorem advanceSwaps_apartSwap (s : State) : (advanceSwaps s).apartSwap = s.apartSwap :=
  forN_keep State.apartSwap _ _ (fun v _ t => advanceSwap_apartSwap v t) s

/-! ## Without a swap -/

theorem advanceSwap_inactive (ha : (s.vat v).swap.active = false) (ht : (s.vat v).swap.stippleTodo = []) :
    advanceSwap v s = s := by
  have none : requestMacros v s = s := by
    simp only [requestMacros, ht]
    rfl
  simp only [advanceSwap, none, ha, Bool.false_eq_true, false_and, if_false]

/-- No swap goes on where none is active or loads row groups. -/
theorem advanceSwaps_noSwap (h : Safety.NoSwap s) : advanceSwaps s = s := by
  refine forN_inv (fun t => t = s) 8 _ (fun v hv t ht => ?_) s rfl
  subst ht
  obtain ⟨ha, htodo⟩ := h ⟨v, hv⟩
  exact advanceSwap_inactive ha htodo

/-! ## The loads of step 3 -/

/-- A row group of one of the press's macros loads from a staged section (R326 step 3). -/
def PressRec.loadsStaged (r : PressRec) : Prop :=
  ∃ m g, m < 2 ∧ g < 4 ∧ nbit (r.macro' m).loading.toNat g = true ∧ (tget {} (r.macro' m).records g).staged.isSome = true

/-- Step 3 has not finished on a press while a row group loads from a staged section. -/
theorem step3Done_loading (h : (s.press p).loadsStaged) : step3Done s p v = false := by
  obtain ⟨m, g, hm, hg, hl, hs⟩ := h
  have index : (4 * m + g) / 4 = m ∧ (4 * m + g) % 4 = g := by omega
  refine Bool.and_eq_false_iff.mpr (.inr (List.all_eq_false.mpr ⟨4 * m + g, List.mem_range.mpr (by omega), ?_⟩))
  simp only [index, hl, hs, Bool.and_self, Bool.not_true, Bool.false_eq_true, not_false_eq_true]

/-- A press apart from its stipple macros. -/
def PressRec.apartMacros (r : PressRec) : PressRec := { r with macros := [] }

/-- Between two states of a press, sections of a swap began to load into its macros. -/
structure PressLoads (r r' : PressRec) : Prop where
  record : r'.apartMacros = r.apartMacros
  staged : r.loadsStaged → r'.loadsStaged

theorem PressLoads.refl (r : PressRec) : PressLoads r r := ⟨rfl, id⟩

theorem PressLoads.trans {r r' r'' : PressRec} (h : PressLoads r r') (h' : PressLoads r' r'') : PressLoads r r'' :=
  ⟨h'.record.trans h.record, h'.staged ∘ h.staged⟩

theorem PressLoads.plates {r r' : PressRec} (h : PressLoads r r') : r'.plates = r.plates :=
  (congrArg PressRec.plates h.record :)

theorem PressLoads.banks {r r' : PressRec} (h : PressLoads r r') : r'.banks = r.banks :=
  (congrArg PressRec.banks h.record :)

/-- A change under which the loads of staged sections go on. -/
theorem PressLoads.updMacro {r : PressRec} {f : MacroRec → MacroRec}
    (h : ∀ x g, nbit x.loading.toNat g = true → (tget {} x.records g).staged.isSome = true →
      nbit (f x).loading.toNat g = true ∧ (tget {} (f x).records g).staged.isSome = true) :
    PressLoads r (r.updMacro m f) := by
  refine ⟨rfl, fun ⟨m', g, hm, hg, hl, hs⟩ => ⟨m', g, hm, hg, ?_⟩⟩
  rw [PressRec.macro_updMacro]
  split
  · rename_i e
    exact h _ g (e ▸ hl) (e ▸ hs)
  · exact ⟨hl, hs⟩

theorem nbit_eq_testBit (n b : Nat) : nbit n b = n.testBit b := by
  rw [nbit, Nat.testBit_eq_decide_div_mod_eq]

/-- The load of a row group from a staged section begins (R153). -/
theorem PressLoads.startRowLoad {r : PressRec} {g : Nat} {x : LoadRecord} {body : List Byte} (hx : x.staged.isSome = true) :
    PressLoads r (startRowLoad m g x body r) := by
  refine .updMacro fun y i hl hs => ⟨?_, ?_⟩
  · simp only [nbit_eq_testBit, BitVec.toNat_or, Nat.testBit_or, Bool.or_eq_true] at hl ⊢
    exact .inl hl
  · rw [tget_tput]
    split
    · exact hx
    · exact hs

/-- A vat apart from what the loads of its swap change. -/
def VatRec.apartLoads (r : VatRec) : VatRec := { r with exact := [], swap := { r.swap with stippleTodo := [] } }

/-- Between s and t, stipple sections of the swap of vat v began to load on presses among ps, and plates asked for power. -/
structure SwapLoads (v : Nat) (ps : Nat → Prop) (s t : State) : Prop where
  device : t.apartSwap = s.apartSwap
  vat : (t.vat v).apartLoads = (s.vat v).apartLoads
  vats : ∀ u, u ≠ v → t.vat u = s.vat u
  press : ∀ p, PressLoads (s.press p) (t.press p)
  others : ∀ p, ¬ps p → t.press p = s.press p
  quiet : s.clean → t.hubs = s.hubs ∧ t.events = s.events ∧ t.free = s.free

namespace SwapLoads

variable {ps : Nat → Prop}

theorem refl (v : Nat) (ps : Nat → Prop) (s : State) : SwapLoads v ps s s :=
  ⟨rfl, rfl, fun _ _ => rfl, fun _ => .refl _, fun _ _ => rfl, fun _ => ⟨rfl, rfl, rfl⟩⟩

theorem trans (h : SwapLoads v ps s t) (h' : SwapLoads v ps t u) : SwapLoads v ps s u where
  device := h'.device.trans h.device
  vat := h'.vat.trans h.vat
  vats w hw := (h'.vats w hw).trans (h.vats w hw)
  press p := (h.press p).trans (h'.press p)
  others p hp := (h'.others p hp).trans (h.others p hp)
  quiet hc := by
    obtain ⟨hh, he, hf⟩ := h.quiet hc
    obtain ⟨hh', he', hf'⟩ := h'.quiet (hc.of_hubs hh)
    exact ⟨hh'.trans hh, he'.trans he, hf'.trans hf⟩

/-- A change that keeps presses, vats and the store. -/
theorem of_store (hd : t.apartSwap = s.apartSwap) (hv : t.vats = s.vats) (hp : t.presses = s.presses)
    (hq : s.clean → t.hubs = s.hubs ∧ t.events = s.events ∧ t.free = s.free) : SwapLoads v ps s t := by
  have vat : t.vat = s.vat := by funext w; simp only [State.vat, hv]
  have press : t.press = s.press := by funext q; simp only [State.press, hp]
  exact ⟨hd, by rw [vat], fun w _ => by rw [vat], fun q => by rw [press]; exact .refl _, fun q _ => by rw [press], hq⟩

theorem updVat {f : VatRec → VatRec} (h : (f (s.vat v)).apartLoads = (s.vat v).apartLoads) :
    SwapLoads v ps s (s.updVat v f) where
  device := rfl
  vat := by rw [State.vat_updVat, if_pos rfl]; exact h
  vats w hw := by rw [State.vat_updVat, if_neg hw]
  press _ := .refl _
  others _ _ := rfl
  quiet _ := ⟨rfl, rfl, rfl⟩

theorem updPress {f : PressRec → PressRec} (hp : ps p) (h : PressLoads (s.press p) (f (s.press p))) :
    SwapLoads v ps s (s.updPress p f) where
  device := rfl
  vat := rfl
  vats _ _ := rfl
  press q := by
    rw [State.press_updPress]
    split
    · rename_i e
      exact e ▸ h
    · exact .refl _
  others q hq := by rw [State.press_updPress, if_neg fun e : q = p => hq (e ▸ hp)]
  quiet _ := ⟨rfl, rfl, rfl⟩

theorem countExact (i n : Nat) : SwapLoads v ps s (countExact v i n s) := updVat rfl

theorem readSections (w : Nat) (x : Ream) (l : List Section) : SwapLoads v ps s (readSections w x l s).2 := by
  have store := readSections_apartStore w x l s
  refine of_store (apartSwap_of_apartStore store) (congrArg State.vats store :) (congrArg State.presses store :) fun h => ?_
  rw [readSections_clean h]
  exact ⟨rfl, rfl, rfl⟩

theorem loadSections (hp : ps p) : SwapLoads v ps s (loadSections p m v s) := by
  simp only [Machine.loadSections]
  split
  · exact refl ..
  · refine forL_inv (SwapLoads v ps s) _ _ (fun e _ t ht => ht.trans ?_) _ (readSections ..)
    split
    · exact (countExact ..).trans (updPress hp (.updMacro fun _ _ hl hs => ⟨hl, hs⟩))
    · exact (countExact ..).trans (updPress hp (.startRowLoad rfl))

theorem requestMacros (hps : ∀ e ∈ (s.vat v).swap.stippleTodo, ps e.1.val) : SwapLoads v ps s (requestMacros v s) := by
  refine forL_inv (SwapLoads v ps s) _ _ (fun e he t ht => ht.trans ?_) s (refl ..)
  dsimp only
  split
  · exact (updVat rfl).trans (loadSections (hps e he))
  · exact refl ..

theorem requestPlates : SwapLoads v ps s (requestPlates p v s) := by
  refine forN_inv (SwapLoads v ps s) _ _ (fun n _ t ht => ht.trans ?_) s (refl ..)
  dsimp only
  split
  · exact of_store rfl rfl rfl fun _ => ⟨rfl, rfl, rfl⟩
  · exact refl ..

/-- Of the vat whose swap loads, all but its counts and the macros to do is the same. -/
theorem vat_eq (h : SwapLoads v ps s t) {α : Type} (g : VatRec → α) (hg : ∀ r, g r.apartLoads = g r := by intro; rfl) :
    g (t.vat v) = g (s.vat v) := by
  rw [← hg, h.vat, hg]

/-- Loads keep which presses a vat owns. -/
theorem vatPresses (h : SwapLoads v ps s t) (w : Nat) : t.vatPresses w = s.vatPresses w := by
  have vat : ∀ p, t.pressVat p = s.pressVat p := fun p =>
    (congrArg (fun r => Option.map Fin.val r.vat) (h.press p).record :)
  simp only [State.vatPresses, vat]

end SwapLoads

/-! ## A swap with plates to do, none of which is ready -/

theorem readyPlates_none (h : ∀ q, ((s.press p).plate q).ready = none) : readyPlates p v s = s := by
  simp only [readyPlates]
  split
  · refine forN_inv (fun t => t = s) _ _ (fun q _ t ht => ?_) s rfl
    subst ht
    rw [h]
  · rfl

/-- While plates are to do and none is ready, a swap begins loads and asks for power, and does no more. -/
theorem advanceSwap_loads {ps : Nat → Prop} (htodo : (s.vat v).swap.todo ≠ [])
    (hready : ∀ p ∈ s.vatPresses v, ∀ q, ((s.press p).plate q).ready = none)
    (hps : ∀ e ∈ (s.vat v).swap.stippleTodo, ps e.1.val) : SwapLoads v ps s (advanceSwap v s) := by
  have begun : SwapLoads v ps s (requestMacros v s) := .requestMacros hps
  simp only [advanceSwap]
  split
  · have asked : SwapLoads v ps s (forL (((requestMacros v s).vatPresses v).filter fun p =>
        decide (((requestMacros v s).press p).state = .active))
        (fun p t => readyPlates p v (requestPlates p v t)) (requestMacros v s)) := by
      refine forL_inv (SwapLoads v ps s) _ _ (fun p hp t ht => ?_) _ begun
      have now := ht.trans (SwapLoads.requestPlates (p := p))
      have owned : p ∈ s.vatPresses v := begun.vatPresses v ▸ (List.mem_filter.mp hp).1
      rw [readyPlates_none fun q => by rw [PressRec.plate, (now.press p).plates]; exact hready p owned q]
      exact now
    have todo := asked.vat_eq fun r => r.swap.todo
    rw [checkSwap, if_neg fun h => htodo (todo.symm.trans h.2)]
    exact asked
  · exact begun

/-! ## A plate that waits for step 3 -/

/-- A plate that goes LIVE changes its own press alone. -/
theorem goLive_press_ne {q : Nat} {c : Content} {i : Nat} (h : i ≠ p) : (goLive p q c s).press i = s.press i := by
  simp only [goLive]
  split <;> simp [State.updPlate, State.updBank, h]

theorem plateDone_press (p q : Nat) (s : State) : (plateDone p q s).press = s.press := by
  simp only [plateDone]
  split <;> rfl

theorem readyPlates_press_ne {i : Nat} (h : i ≠ p) : (readyPlates p v s).press i = s.press i := by
  simp only [readyPlates]
  split
  · refine forN_keep (fun t => t.press i) _ _ (fun q _ t => ?_) s
    split
    · rw [plateDone_press, goLive_press_ne h]
    · rfl
  · rfl

/-- The end of a swap changes of a press its rotation alone. -/
theorem completeSwap_press (v p : Nat) (s : State) :
    (completeSwap v s).press p = { s.press p with rotation := ((completeSwap v s).press p).rotation } := by
  let P : State → Prop := fun t => t.press p = { s.press p with rotation := (t.press p).rotation }
  have freed : ∀ l, P (forL l zeroFrame s) := fun l => forL_inv P l zeroFrame (fun _ _ _ ht => ht) s rfl
  refine forL_inv P _ _ (fun q _ t ht => ?_) _ (freed _)
  show (t.updPress q resumeRotation).press p = _
  simp only [State.press_updPress]
  split
  · rename_i e
    subst e
    simp only [resumeRotation]
    rw [show t.press p = _ from ht]
    split <;> rfl
  · exact ht

/-- A press on which row groups load from staged sections waits: its plates and its engraving stay, and the loads go on. -/
structure PressWaits (r r' : PressRec) : Prop where
  plates : r'.plates = r.plates
  engraving : r'.engraving = r.engraving
  staged : r'.loadsStaged

theorem PressWaits.loads {r r' r'' : PressRec} (h : PressWaits r r') (h' : PressLoads r' r'') : PressWaits r r'' :=
  ⟨h'.plates.trans h.plates, (congrArg PressRec.engraving h'.record :).trans h.engraving, h'.staged h.staged⟩

theorem advanceSwap_waits {r : PressRec} (h : PressWaits r (s.press p)) : PressWaits r ((advanceSwap v s).press p) := by
  have begun : PressWaits r ((requestMacros v s).press p) :=
    h.loads ((SwapLoads.requestMacros (ps := fun _ => True) fun _ _ => trivial).press p)
  simp only [advanceSwap]
  split
  · have turned : PressWaits r ((forL (((requestMacros v s).vatPresses v).filter fun p =>
        decide (((requestMacros v s).press p).state = .active))
        (fun p t => readyPlates p v (requestPlates p v t)) (requestMacros v s)).press p) := by
      refine forL_inv (fun t => PressWaits r (t.press p)) _ _ (fun i _ t ht => ?_) _ begun
      have asked := ht.loads ((SwapLoads.requestPlates (ps := fun _ => True) (v := v) (p := i)).press p)
      by_cases hi : p = i
      · subst hi
        rw [readyPlates, step3Done_loading asked.staged]
        exact asked
      · rwa [readyPlates_press_ne hi]
    simp only [checkSwap]
    split
    · rw [completeSwap_press]
      exact ⟨turned.plates, turned.engraving, turned.staged⟩
    · exact turned
  · exact begun

/-- No swap that goes on takes up a press on which step 3 has not finished. -/
theorem advanceSwaps_waits (h : (s.press p).loadsStaged) : PressWaits (s.press p) ((advanceSwaps s).press p) :=
  forN_inv (fun t => PressWaits (s.press p) (t.press p)) 8 _ (fun _ _ _ ht => advanceSwap_waits ht) s ⟨rfl, rfl, h⟩

end Sys2Proof.Machine

end

section
/-! SUPPORT. SWAP_REQUEST (R325, R326): what a write of SwapRequest answers, what suspending the presses changes, and the state
in which an accepted swap stands. -/

namespace Sys2Proof.Machine

variable {s t : State} {v : Nat} {w : BitVec 32}

/-! ## The write of SwapRequest -/

theorem leBytes_length (n x : Nat) : (leBytes n x).length = n := by
  induction n generalizing x with
  | zero => rfl
  | succ n ih => simp [leBytes, ih]

/-- Bytes of a number spell it (R7). -/
theorem leNat_leBytes (n x : Nat) : leNat (leBytes n x) = x % 256 ^ n := by
  induction n generalizing x with
  | zero => simp [leBytes, leNat, Nat.mod_one]
  | succ n ih =>
    calc leNat (leBytes (n + 1) x) = x % 256 + 256 * (x / 256 % 256 ^ n) := by
          rw [leBytes, leNat, ih, BitVec.toNat_ofNat]
      _ = x % 256 ^ (n + 1) := by rw [Nat.pow_succ', ← Nat.mod_mul]

/-- A tenant of the vat, or a function that serves it, may write SwapRequest (R336). -/
theorem exec_swapRequest {pr : Principal} {v : Vat} (hs : s.dev.started = true) (hr : vt.any (holds s pr (.vat v)) = true) :
    exec (.swapRequest pr v w) s = .next ((swapRequest v w s).2.answer (swapRequest v w s).1) := by
  have idx : 0x2A10 + v.val ≠ 0x2D10 ∧ 0x2A10 + v.val ≠ 0x2920 := by omega
  have obj : objAt (0x2A10 + v.val) 0x07 = some ((command (.num 4) vt fun _ _ d s =>
      swapRequest v (BitVec.ofNat 32 (leNat d)) s).ownedBy (.vat v)) := objAt_reams v (by decide)
  have named : vt ≠ [] := by decide
  have rights : rightsResult s pr (.vat v) vt = resOk := by rw [rightsResult, if_pos hr]
  have check : writeCheck s pr (decide (0x2A10 + v.val = 0x2920)) ((command (.num 4) vt fun _ _ d s =>
      swapRequest v (BitVec.ofNat 32 (leNat d)) s).ownedBy (.vat v)) 0 (leBytes 4 w.toNat) = resOk := by
    simp [writeCheck, Obj.ownedBy, command, rights, sizeOk, valueOk, leBytes_length, named]
  have word : BitVec.ofNat 32 (leNat (leBytes 4 w.toNat)) = w := by
    rw [leNat_leBytes, Nat.mod_eq_of_lt (show w.toNat < 256 ^ 4 from w.isLt), BitVec.ofNat_toNat, BitVec.setWidth_eq]
  have write := direct_accepted hs (by rw [leBytes_length]; decide) (by decide) obj idx.1 check
  refine write.trans ?_
  show Host.Outcome.next (((swapRequest v (BitVec.ofNat 32 (leNat (leBytes 4 w.toNat))) s).2).answer
    (swapRequest v (BitVec.ofNat 32 (leNat (leBytes 4 w.toNat))) s).1) = _
  rw [word]

/-- A swap is refused with STATE unless the vat is SERVING, runs no swap, holds the ream that is named and, for the pending
one, has it STAGED with no job on older tables (R325, R328). -/
theorem swapRequest_state
    (h : (s.vat v).state ≠ .serving ∨ (s.vat v).swap.active = true ∨
      (if nbit w.toNat 15 then (s.vat v).pendingReam else (s.vat v).active) = none ∨
      (nbit w.toNat 15 = true ∧ ((s.vat v).load.state ≠ .staged ∨ olderTablesUsed s v = true))) :
    swapRequest v w s = (resState, s) := by
  refine if_pos ?_
  rcases h with h | h | h | ⟨hp, h | h⟩
  · exact .inl h
  · exact .inr (.inl h)
  · exact .inr (.inr (.inr (.inl h)))
  · exact .inr (.inr (.inl ⟨hp, h⟩))
  · exact .inr (.inr (.inr (.inr ⟨hp, h⟩)))

/-- A vat whose swap of edition and epoch w begins with the tables and the work given; old is the vat as the write found it
(R325, R326, R328). -/
def VatRec.beginSwap (old : VatRec) (w : BitVec 32) (todo : List (Press × Plate)) (stipple : List (Press × Macro))
    (tables : TableSet) (r : VatRec) : VatRec :=
  let epoch : BitVec 16 := BitVec.ofNat 16 (field w.toNat 31 16)
  let from' := nbit w.toNat 15
  let set := if from' then !old.tableNow else old.tableNow
  let known := if old.epochs.any fun e => decide (e.1 = old.currentEpoch) then old.epochs
    else (old.currentEpoch, old.tableNow) :: old.epochs
  { r with
    incomingEpoch := some epoch
    swap := { active := true, epoch := epoch, fromPending := from', edition := field w.toNat 5 0, todo := todo
              stippleTodo := stipple }
    tableSet0 := if from' ∧ !set then tables else r.tableSet0
    tableSet1 := if from' ∧ set then tables else r.tableSet1
    epochs := (epoch, set) :: known.filter fun e => decide (e.1 ≠ epoch) && (!from' || decide (e.2 ≠ set)) }

/-- The 16 plates of each press of a swap (R326). -/
def swapPlates (s : State) (v : Nat) : List (Press × Plate) :=
  (swapPresses s v).flatMap fun p => (List.range 16).map fun n => (Fin.ofNat 68 p, Fin.ofNat 17 ((s.press p).physOf n))

/-- The macros of the presses of a swap for which its edition has sections (R326 step 3). -/
def swapMacros (s : State) (v : Nat) (has : Nat → Macro → Bool) : List (Press × Macro) :=
  (swapPresses s v).flatMap fun p => (([0, 1] : List Macro).filter (has p)).map fun m => (Fin.ofNat 68 p, m)

/-- A swap that is accepted reads its tables, begins, suspends its presses and goes on (R325, R326). -/
theorem swapRequest_ream {x : Ream} (hs : (s.vat v).state = .serving) (ha : (s.vat v).swap.active = false)
    (hx : (if nbit w.toNat 15 then (s.vat v).pendingReam else (s.vat v).active) = some x)
    (hp : nbit w.toNat 15 = true → (s.vat v).load.state = .staged ∧ olderTablesUsed s v = false) :
    (x.editionCount ≤ field w.toNat 5 0 ∨ BitVec.ofNat 16 (field w.toNat 31 16) = (s.vat v).currentEpoch →
      swapRequest v w s = (resRange, s)) ∧
    (field w.toNat 5 0 < x.editionCount → BitVec.ofNat 16 (field w.toNat 31 16) ≠ (s.vat v).currentEpoch →
      ∃ u has tables, SwapLoads v (fun _ => False) s u ∧ swapRequest v w s =
        (resOk, advanceSwap v (forL (swapPresses s v) suspendForSwap
          (u.updVat v ((s.vat v).beginSwap w (swapPlates s v) (swapMacros s v has) tables))))) := by
  have go : ¬((s.vat v).state ≠ .serving ∨ (s.vat v).swap.active = true ∨
      (nbit w.toNat 15 = true ∧ (s.vat v).load.state ≠ .staged) ∨
      (if nbit w.toNat 15 then (s.vat v).pendingReam else (s.vat v).active) = none ∨
      (nbit w.toNat 15 = true ∧ olderTablesUsed s v = true)) := by
    rintro (h | h | ⟨h, h'⟩ | h | ⟨h, h'⟩)
    · exact h hs
    · exact absurd (ha.symm.trans h) (by decide)
    · exact h' (hp h).1
    · exact absurd (hx.symm.trans h) (by simp)
    · exact absurd ((hp h).2.symm.trans h') (by decide)
  unfold swapRequest
  dsimp only
  rw [if_neg go, hx]
  refine ⟨fun h => if_pos h, fun hc he => ?_⟩
  rw [if_neg (by rintro (h | h); exacts [absurd hc (Nat.not_lt.mpr h), he h])]
  split
  · rename_i y _
    exact ⟨(readSections v y (tableSections y) (countExact v 3 (sectionBytes (tableSections y)) s)).2,
      fun p m => hasStipple x (field w.toNat 5 0) ((readSections v y (tableSections y)
        (countExact v 3 (sectionBytes (tableSections y)) s)).2.press p).vatPress m,
      _, (SwapLoads.countExact ..).trans (.readSections ..), rfl⟩
  · exact ⟨s, fun p m => hasStipple x (field w.toNat 5 0) (s.press p).vatPress m, _, .refl .., rfl⟩

/-! ## Presses suspended for a swap -/

/-- Between s and t, the presses of a list were suspended for a swap (R326 step 1). -/
structure Suspends (ps : List Nat) (s t : State) : Prop where
  device : t = { s with presses := t.presses, engQueue := t.engQueue }
  press : ∀ p, t.press p = { s.press p with
    engraving := (t.press p).engraving, handover := (t.press p).handover, rotation := (t.press p).rotation }
  listed : ∀ p ∈ ps, (t.press p).rotation = .suspended
  others : ∀ p, p ∉ ps → t.press p = s.press p

theorem suspendForSwap_suspends (p : Nat) (s : State) : Suspends [p] s (suspendForSwap p s) := by
  have press : ∀ i, (suspendForSwap p s).press i = if i = p then { s.press p with
      engraving := if (s.press p).engraving.any fun e => decide (e.purpose = Purpose.refresh) then none
        else (s.press p).engraving
      handover := false, rotation := .suspended } else s.press i := by
    intro i
    rw [← State.press_updPress s p i fun r => { r with
      engraving := if r.engraving.any fun e => decide (e.purpose = Purpose.refresh) then none else r.engraving
      handover := false, rotation := .suspended }]
    simp only [suspendForSwap]
    split <;> rfl
  refine ⟨?_, fun i => ?_, fun i hi => ?_, fun i hi => ?_⟩
  · simp only [suspendForSwap]
    split <;> rfl
  · rw [press]
    split
    · rename_i e
      rw [e]
    · rfl
  · rw [press, if_pos (List.mem_singleton.mp hi)]
  · rw [press, if_neg fun e => hi (List.mem_singleton.mpr e)]

theorem Suspends.cons {p : Nat} {ps : List Nat} {u : State} (h : Suspends [p] s t) (h' : Suspends ps t u) :
    Suspends (p :: ps) s u where
  device := by rw [h'.device, h.device]
  press i := by rw [h'.press i, h.press i]
  listed i hi := by
    by_cases hps : i ∈ ps
    · exact h'.listed i hps
    · obtain rfl | hi := List.mem_cons.mp hi
      · rw [h'.others i hps]
        exact h.listed i (List.mem_singleton_self i)
      · exact absurd hi hps
  others i hi := by
    rw [List.mem_cons, not_or] at hi
    rw [h'.others i hi.2, h.others i fun e => hi.1 (List.mem_singleton.mp e)]

theorem suspends_forL (ps : List Nat) (s : State) : Suspends ps s (forL ps suspendForSwap s) := by
  induction ps generalizing s with
  | nil => exact ⟨rfl, fun _ => rfl, fun _ h => absurd h List.not_mem_nil, fun _ _ => rfl⟩
  | cons p ps ih => exact (suspendForSwap_suspends p s).cons (ih _)

/-! ## The swap in its first state -/

theorem swapPlates_length (s : State) (v : Nat) : (swapPlates s v).length = 16 * (swapPresses s v).length := by
  simp only [swapPlates]
  induction swapPresses s v with
  | nil => rfl
  | cons p l ih =>
    simp only [List.flatMap_cons, List.length_append, ih, List.length_map, List.length_range, List.length_cons]
    omega

theorem swapPlates_ne (h : swapPresses s v ≠ []) : swapPlates s v ≠ [] := by
  have some := List.length_pos_iff.mpr h
  exact List.length_pos_iff.mp (by rw [swapPlates_length]; omega)

/-- The presses of a swap are presses of the vat, numbered below 68. -/
theorem mem_swapPresses {p : Nat} (h : p ∈ swapPresses s v) : p ∈ s.vatPresses v ∧ p < 68 :=
  have owned := (List.mem_filter.mp h).1
  ⟨owned, List.mem_range.mp (List.mem_filter.mp owned).1⟩

theorem mem_swapMacros {has : Nat → Macro → Bool} {e : Press × Macro} (h : e ∈ swapMacros s v has) :
    e.1.val ∈ swapPresses s v := by
  obtain ⟨p, hp, h⟩ := List.mem_flatMap.mp h
  obtain ⟨m, -, rfl⟩ := List.mem_map.mp h
  rwa [Fin.val_ofNat, Nat.mod_eq_of_lt (mem_swapPresses hp).2]

/-- The epoch in force keeps its tables while another one is incoming (R328). -/
theorem beginSwap_epochs (old r : VatRec) (w : BitVec 32) (todo : List (Press × Plate)) (stipple : List (Press × Macro))
    (tables : TableSet) (hw : BitVec.ofNat 16 (field w.toNat 31 16) ≠ old.currentEpoch)
    (hn : ∀ e ∈ old.epochs, e.1 ≠ old.currentEpoch) :
    (old.currentEpoch, old.tableNow) ∈ (old.beginSwap w todo stipple tables r).epochs := by
  have unknown : (old.epochs.any fun e => decide (e.1 = old.currentEpoch)) = false :=
    List.any_eq_false.mpr fun e he => by simpa using hn e he
  refine List.mem_cons_of_mem _ (List.mem_filter.mpr ⟨?_, ?_⟩)
  · rw [unknown]
    exact List.mem_cons_self
  · cases nbit w.toNat 15 <;> simp [Ne.symm hw]

/-- The state t in which a swap of vat v has begun from s and gone on until the first plates are engraved (R325, R326). -/
structure SwapBegun (s t : State) (v : Nat) (w : BitVec 32) : Prop where
  device : t.apartSwap = s.apartSwap
  vat : ∃ r todo stipple tables, r.apartLoads = (s.vat v).apartLoads ∧ todo.length = 16 * (swapPresses s v).length ∧
    (t.vat v).apartLoads = ((s.vat v).beginSwap w todo stipple tables r).apartLoads
  vats : ∀ u, u ≠ v → t.vat u = s.vat u
  suspended : ∀ p ∈ swapPresses s v, (t.press p).rotation = .suspended
  kept : ∀ p, (t.press p).plates = (s.press p).plates ∧ (t.press p).banks = (s.press p).banks
  others : ∀ p, p ∉ s.vatPresses v → t.press p = s.press p
  quiet : s.clean → t.hubs = s.hubs ∧ t.events = s.events ∧ t.free = s.free

theorem swapRequest_accepted {x : Ream} (hs : (s.vat v).state = .serving) (ha : (s.vat v).swap.active = false)
    (hx : (if nbit w.toNat 15 then (s.vat v).pendingReam else (s.vat v).active) = some x)
    (hp : nbit w.toNat 15 = true → (s.vat v).load.state = .staged ∧ olderTablesUsed s v = false)
    (hc : field w.toNat 5 0 < x.editionCount) (he : BitVec.ofNat 16 (field w.toNat 31 16) ≠ (s.vat v).currentEpoch)
    (hready : ∀ p ∈ s.vatPresses v, ∀ q, ((s.press p).plate q).ready = none) (hps : swapPresses s v ≠ []) :
    ∃ t, swapRequest v w s = (resOk, t) ∧ SwapBegun s t v w := by
  obtain ⟨u, has, tables, read, accepted⟩ := (swapRequest_ream hs ha hx hp).2 hc he
  refine ⟨_, accepted, ?_⟩
  have suspends := suspends_forL (swapPresses s v)
    (u.updVat v ((s.vat v).beginSwap w (swapPlates s v) (swapMacros s v has) tables))
  generalize forL (swapPresses s v) suspendForSwap
    (u.updVat v ((s.vat v).beginSwap w (swapPlates s v) (swapMacros s v has) tables)) = b at suspends ⊢
  have vat : ∀ i, b.vat i = if i = v then (s.vat v).beginSwap w (swapPlates s v) (swapMacros s v has) tables (u.vat v)
      else u.vat i := by
    intro i
    rw [suspends.device]
    exact State.vat_updVat ..
  have here : b.vat v = (s.vat v).beginSwap w (swapPlates s v) (swapMacros s v has) tables (u.vat v) := by
    rw [vat, if_pos rfl]
  have press : ∀ p, u.press p = s.press p := fun p => read.others p id
  have same : ∀ p, b.press p = { s.press p with
      engraving := (b.press p).engraving, handover := (b.press p).handover, rotation := (b.press p).rotation } :=
    fun p => press p ▸ suspends.press p
  have owned : b.vatPresses v = s.vatPresses v := by
    have vatOf : ∀ p, b.pressVat p = s.pressVat p := fun p => (congrArg (fun r => Option.map Fin.val r.vat) (same p) :)
    simp only [State.vatPresses, vatOf]
  have loads : SwapLoads v (fun q => q ∈ swapPresses s v) b (advanceSwap v b) := by
    refine advanceSwap_loads (fun h => ?_) (fun p hp q => ?_) fun e h => ?_
    · rw [here] at h
      exact swapPlates_ne hps h
    · rw [same]
      exact hready p (owned ▸ hp) q
    · rw [here] at h
      exact mem_swapMacros h
  have store : s.clean → b.hubs = s.hubs ∧ b.events = s.events ∧ b.free = s.free := by
    rw [suspends.device]
    exact read.quiet
  refine ⟨?_, ⟨u.vat v, _, _, tables, read.vat, swapPlates_length s v, loads.vat.trans (by rw [here])⟩, fun i hi => ?_,
    fun p hp => ?_, fun p => ⟨?_, ?_⟩, fun p hp => ?_, fun h => ?_⟩
  · exact loads.device.trans ((congrArg State.apartSwap suspends.device :).trans read.device)
  · rw [loads.vats i hi, vat, if_neg hi, read.vats i hi]
  · exact (congrArg PressRec.rotation (loads.press p).record :).trans (suspends.listed p hp)
  · exact (loads.press p).plates.trans (by rw [same])
  · exact (loads.press p).banks.trans (by rw [same])
  · have out : p ∉ swapPresses s v := fun h => hp (mem_swapPresses h).1
    rw [loads.others p out, suspends.others p out]
    exact press p
  · obtain ⟨hh, he, hf⟩ := store h
    obtain ⟨hh', he', hf'⟩ := loads.quiet (h.of_hubs hh)
    exact ⟨hh'.trans hh, he'.trans he, hf'.trans hf⟩

end Sys2Proof.Machine
end

section
/-! SUPPORT. Plates and banks of a press of the device, read after they were written. -/

namespace Sys2Proof.Machine

@[simp] theorem State.press_updPlate (s : State) (p q i : Nat) (f : PlateRec → PlateRec) :
    (s.updPlate p q f).press i = if i = p then (s.press p).updPlate q f else s.press i := State.press_updPress ..

@[simp] theorem State.press_updBank (s : State) (p b i : Nat) (f : Bank → Bank) :
    (s.updBank p b f).press i = if i = p then (s.press p).updBank b f else s.press i := State.press_updPress ..

@[simp] theorem raise_press (c : BitVec 16) (p u v : Option Nat) (d : List Byte) (s : State) (i : Nat) :
    (raise c p u v d s).press i = s.press i := rfl

/-- A press apart from its plates. -/
def PressRec.apartPlates (r : PressRec) : PressRec := { r with plates := [] }

@[simp] theorem PressRec.apartPlates_updPlate (r : PressRec) (q : Nat) (f : PlateRec → PlateRec) :
    (r.updPlate q f).apartPlates = r.apartPlates := rfl

end Sys2Proof.Machine

end

section
/-! SUPPORT. ENGRAVING_START (R319, R322, R323): which waiting plate is granted power, and what its engraving begins with. -/

namespace Sys2Proof.Machine

variable {s t : State} {p q : Nat} {e : EngReq}

/-! ## The ledger -/

/-- One engraving that is counted changes presses and events alone (R330, R332). -/
theorem countEngraving_frame (p q : Nat) (s : State) :
    countEngraving p q s =
      { s with presses := (countEngraving p q s).presses, events := (countEngraving p q s).events } := by
  simp only [countEngraving]
  split <;> rfl

/-- It changes of its press the plates alone. -/
theorem countEngraving_own (p q : Nat) (s : State) :
    ((countEngraving p q s).press p).apartPlates = (s.press p).apartPlates := by
  simp only [countEngraving]
  split <;> simp

theorem countEngraving_press_ne {i : Nat} (h : i ≠ p) : (countEngraving p q s).press i = s.press i := by
  simp only [countEngraving]
  split <;> simp [h]

/-- The ledger of the plate counts one more engraving (R330). -/
theorem countEngraving_ledger (p q : Nat) (s : State) :
    (((countEngraving p q s).press p).plate q).ledger = satInc ((s.press p).plate q).ledger := by
  simp only [countEngraving]
  split <;> simp

/-! ## The plate that is granted power -/

theorem argMin_mem {α : Type} (key : α → Nat) {l : List α} {x : α} (h : argMin key l = some x) : x ∈ l := by
  induction l generalizing x with
  | nil => simp [argMin] at h
  | cons y r ih =>
    rw [argMin] at h
    split at h
    · exact Option.some.inj h ▸ List.mem_cons_self
    · rename_i z hz
      split at h
      · exact List.mem_cons_of_mem _ (ih (hz.trans h))
      · exact Option.some.inj h ▸ List.mem_cons_self

/-- A request is dropped before a grant only when it is one of a swap (R242, R326). -/
theorem kept_noSwap {f : EngReq → Bool} (h : ∀ e ∈ s.engQueue, e.purpose ≠ .swap) :
    (s.engQueue.filter fun e => !(decide (e.purpose = .swap) && f e)) = s.engQueue :=
  List.filter_eq_self.mpr fun e he => by simp [h e he]

/-- Without a swap, no plate is granted power beyond the limit, or where none can be (R322, R323). -/
theorem execEngravingStart_idle (hn : Safety.NoSwap s) (hq : ∀ e ∈ s.engQueue, e.purpose ≠ .swap)
    (h : engravingLimit s ≤ engravingsActive s ∨ s.engQueue.filter (grantable s) = []) : execEngravingStart s = .next s := by
  simp only [execEngravingStart, advanceSwaps_noSwap hn, Bool.and_assoc, kept_noSwap hq]
  split
  · rfl
  · rename_i hl
    rw [h.resolve_left hl]
    rfl

/-- Without a swap, the first plate by class and age is granted power (R323). -/
theorem execEngravingStart_grant (hn : Safety.NoSwap s) (hq : ∀ e ∈ s.engQueue, e.purpose ≠ .swap)
    (hl : engravingsActive s < engravingLimit s) (he : argMin EngReq.cls (s.engQueue.filter (grantable s)) = some e) :
    execEngravingStart s = .next (startEngraving e { s with engQueue := s.engQueue.erase e }) := by
  simp only [execEngravingStart, advanceSwaps_noSwap hn, Bool.and_assoc, kept_noSwap hq]
  rw [if_neg (Nat.not_le.mpr hl)]
  split
  · rename_i h
    exact absurd (h.symm.trans he) (by simp)
  · rename_i x h
    rw [Option.some.inj (h.symm.trans he)]

/-! ## What an engraving begins with -/

/-- Plate q of a press before its engraving: empty, and ENGRAVING unless it is the refresh target (R62, R319). -/
def emptyPlate (e : EngReq) (s : State) : State :=
  s.updPlate e.press e.plate fun y =>
    { y with
      state := if (s.press e.press).refreshTarget.val = e.plate.val then y.state else .engraving
      codes := [], ready := none }

/-- The bytes that an engraving reads are counted for the press's vat (R360). -/
def countStaged (e : EngReq) (s : State) : State :=
  match s.pressVat e.press with
  | some v => countExact v 3 (stagedBytes e) s
  | none => s

/-- The engraving that a granted request begins, its content with the codebook in force (R44, R319). -/
def EngReq.engraving (e : EngReq) (s : State) (c : Option Content) : EngRec :=
  { plate := e.plate, purpose := e.purpose, cls := e.cls
    content := c.map fun c => { c with codebook := codebookOf s { codebook := c.codebook } } }

/-- An engraving whose bites begin on plate y (R320). -/
def EngRec.withBites (x : EngRec) (y : PlateRec) : EngRec := { x with phase := .bites, lines := servingLines y }

theorem EngRec.withBites_lines (x : EngRec) (y : PlateRec) : (x.withBites y).lines = servingLines y := by
  rw [EngRec.withBites]

/-- A press that begins the bites of an engraving (R319, R331). -/
def PressRec.beginBites (x : EngRec) (r : PressRec) : PressRec := { r with engravedOnce := true, engraving := some x }

/-- The content read and the state that its read leaves. -/
def stagedContent (e : EngReq) (s : State) : Option Content × State := readEngraved e (countStaged e (emptyPlate e s))

theorem startEngraving_held (h : (s.press e.press).engraving.isSome = true) :
    startEngraving e s = updEng e.press (fun x => { x with held := false }) s := if_pos h

theorem startEngraving_pulp (h : (s.press e.press).engraving = none) (hc : e.content = none) :
    startEngraving e s = (stagedContent e s).2.updPress e.press fun r =>
      { r with engraving := some { e.engraving (stagedContent e s).2 (stagedContent e s).1 with phase := .pulp } } := by
  simp only [startEngraving, h, hc, Option.isSome_none, Bool.false_eq_true, if_false]
  rfl

theorem startEngraving_bites {c : Content} (h : (s.press e.press).engraving = none) (hc : e.content = some c) :
    startEngraving e s = countEngraving e.press e.plate ((stagedContent e s).2.updPress e.press (PressRec.beginBites
      ((e.engraving (stagedContent e s).2 (stagedContent e s).1).withBites ((s.press e.press).plate e.plate)))) := by
  simp only [startEngraving, h, hc, Option.isSome_none, Bool.false_eq_true, if_false]
  rfl

/-- Between s and t the content of a granted plate was read. -/
structure ContentRead (e : EngReq) (s t : State) : Prop where
  device : t.apartSwap = s.apartSwap
  queue : t.engQueue = s.engQueue
  others : ∀ p, p ≠ e.press.val → t.press p = s.press p
  own : (t.press e.press).apartPlates = (s.press e.press).apartPlates
  ledger : ((t.press e.press).plate e.plate).ledger = ((s.press e.press).plate e.plate).ledger
  vats : ∀ v, s.pressVat e.press ≠ some v → t.vat v = s.vat v
  quiet : s.clean → t.hubs = s.hubs ∧ t.free = s.free

theorem emptyPlate_read (e : EngReq) (s : State) : ContentRead e s (emptyPlate e s) where
  device := rfl
  queue := rfl
  others p hp := by rw [emptyPlate, State.press_updPlate, if_neg hp]
  own := by rw [emptyPlate, State.press_updPlate, if_pos rfl, PressRec.apartPlates_updPlate]
  ledger := by simp [emptyPlate]
  vats _ _ := rfl
  quiet _ := ⟨rfl, rfl⟩

theorem countStaged_read (e : EngReq) (s : State) : ContentRead e s (countStaged e s) ∧ ReadsAlike s (countStaged e s) := by
  simp only [countStaged]
  split
  · rename_i v hv
    refine ⟨⟨rfl, rfl, fun _ _ => rfl, rfl, rfl, fun w hw => ?_, fun _ => ⟨rfl, rfl⟩⟩, rfl, rfl, fun w => ?_⟩
    · rw [countExact_vat, if_neg fun h : w = v => hw (h ▸ hv)]
    · rw [countExact_vat]
      split
      · rename_i h
        exact h ▸ rfl
      · rfl
  · exact ⟨⟨rfl, rfl, fun _ _ => rfl, rfl, rfl, fun _ _ => rfl, fun _ => ⟨rfl, rfl⟩⟩, .refl s⟩

theorem readEngraved_read (e e' : EngReq) (s : State) : ContentRead e s (readEngraved e' s).2 := by
  have store := readEngraved_apartStore e' s
  have press : (readEngraved e' s).2.press = s.press := (congrArg State.press store :)
  refine ⟨apartSwap_of_apartStore store, (congrArg State.engQueue store :), fun p _ => by rw [press], by rw [press],
    by rw [press], fun v _ => (congrArg (fun t => t.vat v) store :), fun h => ?_⟩
  rw [readEngraved_clean h]
  exact ⟨rfl, rfl⟩

theorem ContentRead.trans {u : State} (h : ContentRead e s t) (h' : ContentRead e t u) : ContentRead e s u where
  device := h'.device.trans h.device
  queue := h'.queue.trans h.queue
  others p hp := (h'.others p hp).trans (h.others p hp)
  own := h'.own.trans h.own
  ledger := h'.ledger.trans h.ledger
  vats v hv := by
    have vat : t.pressVat e.press = s.pressVat e.press := (congrArg (fun r => Option.map Fin.val r.vat) h.own :)
    exact (h'.vats v (vat ▸ hv)).trans (h.vats v hv)
  quiet hc := by
    obtain ⟨hh, hf⟩ := h.quiet hc
    obtain ⟨hh', hf'⟩ := h'.quiet (hc.of_hubs hh)
    exact ⟨hh'.trans hh, hf'.trans hf⟩

theorem stagedContent_read (e : EngReq) (s : State) : ContentRead e s (stagedContent e s).2 :=
  ((emptyPlate_read e s).trans (countStaged_read e _).1).trans (readEngraved_read e e _)

/-- Neither emptying the plate nor counting changes what is read. -/
theorem stagedContent_eq (e : EngReq) (s : State) : (stagedContent e s).1 = (readEngraved e s).1 := by
  have empty := emptyPlate_read e s
  obtain ⟨count, alike⟩ := countStaged_read e (emptyPlate e s)
  have own := (count.own).trans empty.own
  have from_s : ReadsAlike s (countStaged e (emptyPlate e s)) := ⟨alike.hubs, alike.free, alike.vat⟩
  exact from_s.readEngraved (congrArg PressRec.vat own :) (congrArg PressRec.vatPress own :)

/-- Between s and t a granted plate began its engraving, or went on with one that was held (R319, R324). -/
structure EngravingBegun (e : EngReq) (s t : State) : Prop where
  device : t.apartSwap = s.apartSwap
  queue : t.engQueue = s.engQueue
  others : ∀ p, p ≠ e.press.val → t.press p = s.press p
  vats : ∀ v, s.pressVat e.press ≠ some v → t.vat v = s.vat v
  quiet : s.clean → t.hubs = s.hubs ∧ t.free = s.free
  engraving : ∃ r, (t.press e.press).engraving = some r ∧ r.plate = e.plate ∧ r.held = false ∧
    ((s.press e.press).engraving = none → r.purpose = e.purpose ∧ r.pulsed = false ∧ r.paid = 0 ∧
      r.content = (readEngraved e s).1.map (fun c => { c with codebook := codebookOf s { codebook := c.codebook } }) ∧
      (e.content = none → r.phase = .pulp) ∧ (e.content ≠ none → r.phase = .bites ∧
        r.lines = servingLines ((s.press e.press).plate e.plate) ∧
        ((t.press e.press).plate e.plate).ledger = satInc ((s.press e.press).plate e.plate).ledger))

/-- A plate that can be granted power stands on a press that engraves nothing else (R322). -/
theorem grantable_engraving (h : grantable s e = true) {x : EngRec} (hx : (s.press e.press).engraving = some x) :
    x.plate = e.plate := by
  simp only [grantable, hx, Bool.and_eq_true, decide_eq_true_eq] at h
  exact h.1.1.2.2

theorem startEngraving_begun (hg : ∀ x, (s.press e.press).engraving = some x → x.plate = e.plate) :
    EngravingBegun e s (startEngraving e s) := by
  cases hx : (s.press e.press).engraving with
  | some x =>
    rw [startEngraving_held (by rw [hx]; rfl)]
    refine ⟨rfl, rfl, fun p hp => ?_, fun _ _ => rfl, fun _ => ⟨rfl, rfl⟩, { x with held := false }, ?_, hg x hx, rfl,
      fun h => absurd (hx.symm.trans h) (by simp)⟩
    · rw [updEng, State.press_updPress, if_neg hp]
    · rw [updEng, State.press_updPress, if_pos rfl, hx]
      rfl
  | none =>
    have read := stagedContent_read e s
    have book : ∀ c, e.engraving (stagedContent e s).2 c = e.engraving s c := fun c => by
      have dev : (stagedContent e s).2.dev = s.dev := (congrArg State.dev read.device :)
      simp only [EngReq.engraving, codebookOf, imageDefault, dev]
    cases hc : e.content with
    | none =>
      rw [startEngraving_pulp hx hc, book, stagedContent_eq]
      refine ⟨read.device, read.queue, fun p hp => ?_, read.vats, read.quiet, _,
        by rw [State.press_updPress, if_pos rfl], rfl, rfl, fun _ => ⟨rfl, rfl, rfl, rfl, fun _ => rfl, fun h => absurd hc h⟩⟩
      rw [State.press_updPress, if_neg hp, read.others p hp]
    | some c =>
      rw [startEngraving_bites hx hc, book, stagedContent_eq]
      have own := countEngraving_own e.press e.plate ((stagedContent e s).2.updPress e.press
        (PressRec.beginBites ((e.engraving s (readEngraved e s).1).withBites ((s.press e.press).plate e.plate))))
      rw [State.press_updPress, if_pos rfl] at own
      refine ⟨?_, ?_, fun p hp => ?_, fun v hv => ?_, fun h => ?_,
        (e.engraving s (readEngraved e s).1).withBites ((s.press e.press).plate e.plate),
        (congrArg PressRec.engraving own :), rfl, rfl, fun _ => ⟨rfl, rfl, rfl, rfl,
          fun h => absurd (hc.symm.trans h) (by simp), fun _ => ⟨rfl, EngRec.withBites_lines .., ?_⟩⟩⟩
      · rw [countEngraving_frame]
        exact read.device
      · rw [countEngraving_frame]
        exact read.queue
      · rw [countEngraving_press_ne hp, State.press_updPress, if_neg hp, read.others p hp]
      · rw [countEngraving_frame]
        exact read.vats v hv
      · rw [countEngraving_frame]
        exact read.quiet h
      · rw [countEngraving_ledger, State.press_updPress, if_pos rfl]
        exact congrArg satInc read.ledger

end Sys2Proof.Machine
end

section
/-! SUPPORT. Bites and the check of an engraving (R319 to R321, R417): what paying for pulses, mapping a spare column in and
waking banks change, and what BITE and ENGRAVING_CHECK do in each case. -/

namespace Sys2Proof.Machine

variable {s t : State} {p q : Nat} {e : EngRec}

/-! ## The engraving of a press -/

@[simp] theorem updEng_press (p i : Nat) (f : EngRec → EngRec) (s : State) :
    (updEng p f s).press i = if i = p then { s.press p with engraving := (s.press p).engraving.map f } else s.press i :=
  State.press_updPress ..

/-- A change of the engraving changes nothing else (R319). -/
theorem updEng_frame (p : Nat) (f : EngRec → EngRec) (s : State) :
    updEng p f s = { s with presses := (updEng p f s).presses } := rfl

/-- Between s and t the engraving of press p became x, and the governor g. -/
structure EngravingSet (p : Nat) (x : EngRec) (g : Gov) (s t : State) : Prop where
  press : t.press p = { s.press p with engraving := some x }
  others : ∀ i, i ≠ p → t.press i = s.press i
  device : t = { s with presses := t.presses, gov := g }

section

variable {x : EngRec} {g : Gov} {f : EngRec → EngRec}

/-- One more change of the engraving. -/
theorem EngravingSet.updEng (h : EngravingSet p x g s t) (f : EngRec → EngRec) :
    EngravingSet p (f x) g s (updEng p f t) where
  press := by rw [updEng_press, if_pos rfl, h.press]; rfl
  others i hi := by rw [updEng_press, if_neg hi, h.others i hi]
  device := by rw [updEng_frame, h.device]

theorem updEng_set (he : (s.press p).engraving = some e) (hg : t = { s with gov := g }) (f : EngRec → EngRec) :
    EngravingSet p (f e) g s (updEng p f t) := by
  subst hg
  refine EngravingSet.updEng (p := p) (x := e) (s := s) (t := { s with gov := g }) ⟨?_, fun _ _ => rfl, rfl⟩ f
  rw [← he]
  rfl

theorem EngravingSet.engraving (h : EngravingSet p x g s t) : (t.press p).engraving = some x := by rw [h.press]

/-- The governor after the engraving was set. -/
theorem EngravingSet.gov_eq (h : EngravingSet p x g s t) : t.gov = g := by rw [h.device]

theorem EngravingSet.own (h : EngravingSet p x g s t) :
    t.press p = { s.press p with engraving := (t.press p).engraving } := by rw [h.engraving, h.press]

end

/-- Work that is paid for over windows changes the governor alone (R417). -/
theorem payTowards_frame {cls place need paid paid' : Nat} {done : Bool}
    (h : payTowards p cls place need paid s = (paid', done, t)) : t = { s with gov := t.gov } := by
  simp only [payTowards] at h
  split at h
  · cases h
    rfl
  · split at h <;> (cases h; rfl)

/-- The engraving e with the pulses of its pulp paid for so far (R319). -/
def EngRec.withPaid (e : EngRec) (paid : Nat) (done : Bool) : EngRec := { e with paid := paid, pulsed := done }

theorem payPulses_eq {paid : Nat} {done : Bool}
    (h : payTowards p 2 20 (1056 * price s p .pulse) e.paid s = (paid, done, t)) :
    payPulses p e s = updEng p (fun x => x.withPaid paid done) t := by
  simp only [payPulses, h]
  rfl

/-! ## A spare column mapped in -/

/-- The events of a mapping are all that raising them changes (R53). -/
theorem raiseMapped_frame (p q kind spare index : Nat) (s : State) :
    raiseMapped p q kind spare index s = { s with events := (raiseMapped p q kind spare index s).events } := by
  simp only [raiseMapped]
  split <;> rfl

/-- Between s and t the spare column of column n's segment was mapped in on plate q (R53, R320). -/
structure ColumnMapped (p q n : Nat) (s t : State) : Prop where
  device : t = { s with presses := t.presses, events := t.events }
  others : ∀ i, i ≠ p → t.press i = s.press i
  engraving : ∀ e, (s.press p).engraving = some e → ∃ l,
    (t.press p).engraving = some { e with pulses := e.pulses + 2, lines := l }
  colMap : ((t.press p).plate q).colMap = tput 0 ((s.press p).plate q).colMap (n / 32) (BitVec.ofNat 16 (0x8000 + n))

theorem mapColumn_mapped (p q n : Nat) (s : State) : ColumnMapped p q n s (mapColumn p q n s) := by
  have raised := raiseMapped_frame p q 1 (n / 32) n
  refine ⟨?_, fun i hi => ?_, fun e he => ⟨?_, ?_⟩, ?_⟩
  · rw [mapColumn, raised]
    rfl
  · rw [mapColumn, raised]
    show (updEng _ _ _).press i = _
    simp [hi]
  rotate_left
  · rw [mapColumn, raised]
    show ((updEng _ _ _).press p).engraving = _
    simp [he, PressRec.updPlate]
    rfl
  · rw [mapColumn, raised]
    show (((updEng _ _ _).press p).plate q).colMap = _
    simp [PressRec.plate, PressRec.updPlate, tmod]

/-- A failed column whose segment's spare is free is repaired by that spare (R53, R321). -/
theorem repairCell_mapColumn {line col : Nat} {row : Option Nat} (hs : ((s.press p).plate q).state ≠ .retired)
    (he : (s.press p).engraving ≠ none) (hl : lineColumn ((s.press p).plate q) line = (col, false))
    (hf : replacedBy ((s.press p).plate q).colMap (col / 32) = none) :
    repairCell p q line row s = mapColumn p q col s := by
  have free : spareOf ((s.press p).plate q).colMap 32 col ≠ some (col / 32) := by simp [spareOf, hf]
  simp only [repairCell, hl]
  rw [if_neg (not_or.mpr ⟨hs, he⟩), if_neg (fun h => free h.2), if_pos ⟨rfl, hf⟩]

/-! ## BITE -/

section

variable {seen : List (Fin 520 × Int)} {line : Nat} {rest : List Nat} {p : Press}

/-- Without an engraving, or on a press that may not bite, BITE changes nothing (R324). -/
theorem execBite_idle (h : (s.press p).engraving = none ∨ pressBites s p = false) : execBite p seen s = .next s := by
  simp only [execBite]
  split
  · rfl
  · rename_i e he
    split
    · rfl
    · rw [if_pos (.inr (by rw [h.resolve_left (by simp [he])]; rfl))]

/-- The cells that a bite of a line finds outside their windows (R320). -/
def badCells (s : State) (p : Nat) (e : EngRec) (line : Nat) (seen : List (Fin 520 × Int)) : List Nat :=
  cellsOf ((s.press p).plate e.plate) line (outsideCells ((s.press p).bank e.plate) seen)

/-- The line that was bitten is done. -/
def dropLine (p : Nat) (rest : List Nat) (s : State) : State := updEng p (fun x => { x with lines := rest, bites := 0 }) s

/-- What a bite of an engraving with a line left does: it pays for the pulp, then for the pulses of spares, then it bites
(R320, R417). -/
theorem execBite_line (he : (s.press p).engraving = some e) (hl : e.lines = line :: rest) (hh : e.held = false)
    (hp : pressBites s p = true) :
    execBite p seen s =
      if e.pulsed = false then .next (payPulses p e s)
      else if 0 < e.pulses then
        .next (if admits s p .pulse 1 then updEng p (fun x => { x with pulses := e.pulses - 1 }) (charge p .pulse 1 s)
          else refuse p 20 .pulse 1 s)
      else if admits s p .bite 1 = false then .next (refuse p 20 .bite 1 s)
      else if badCells s p e line seen = [] then .next (execBite.toCheck p (dropLine p rest (charge p .bite 1 s)))
      else if e.bites + 1 < s.settings.biteLimit.toNat then
        .next (updEng p (fun x => { x with bites := e.bites + 1 }) (charge p .bite 1 s))
      else .next (execBite.toCheck p ((badCells s p e line seen).foldl (fun t row => repairCell p e.plate line (some row) t)
        (dropLine p rest (charge p .bite 1 s)))) := by
  simp only [execBite, he, hl, hh, hp, Bool.not_eq_true', Bool.false_eq_true, false_or, if_false, Bool.true_eq_false]
  rfl

/-- An engraving whose first line is done goes to the check when it was the last one (R320, R321). -/
theorem toCheck_dropLine {g : Gov} (he : (s.press p).engraving = some e) (hg : t = { s with gov := g }) :
    EngravingSet p { e with
      lines := rest, bites := 0, phase := if e.phase = .bites ∧ rest = [] then .check else e.phase } g s
      (execBite.toCheck p (dropLine p rest t)) := by
  have done := (updEng_set he hg fun x => { x with lines := rest, bites := 0 }).updEng fun x =>
    if x.phase = .bites ∧ x.lines = [] then { x with phase := .check } else x
  have phase : (if e.phase = .bites ∧ rest = [] then ({ e with lines := rest, bites := 0, phase := .check } : EngRec)
      else { e with lines := rest, bites := 0 }) =
      { e with lines := rest, bites := 0, phase := if e.phase = .bites ∧ rest = [] then .check else e.phase } := by
    split <;> rfl
  exact phase ▸ done

end

/-! ## ENGRAVING_CHECK -/

/-- The banks that make the passes of a plate wake (R96). -/
def wakeForPass (p q : Nat) (s : State) : State := wakeBank p ((s.press p).upBank q) (wakeBank p q s)

/-- A press apart from its banks. -/
def PressRec.apartBanks (r : PressRec) : PressRec := { r with banks := [] }

theorem wakeForPass_press_ne {i : Nat} (h : i ≠ p) : (wakeForPass p q s).press i = s.press i := by
  simp [wakeForPass, wakeBank, h]

theorem wakeForPass_own (p q : Nat) (s : State) : ((wakeForPass p q s).press p).apartBanks = (s.press p).apartBanks := by
  simp [wakeForPass, wakeBank, PressRec.apartBanks, PressRec.updBank]

theorem wakeForPass_plate (p q i : Nat) (s : State) : ((wakeForPass p q s).press p).plate i = (s.press p).plate i :=
  (congrArg (fun r => r.plate i) (wakeForPass_own p q s) :)

theorem wakeForPass_bank (p q b : Nat) (s : State) : ((wakeForPass p q s).press p).bank b =
    if b = q ∨ b = (s.press p).upBank q then { (s.press p).bank b with poweredDown := false, idleFrame := false }
    else (s.press p).bank b := by
  simp only [wakeForPass, wakeBank, State.press_updBank, if_true, PressRec.bank_updBank]
  by_cases hq : b = q
  · subst hq
    by_cases hu : b = (s.press p).upBank b
    · rw [if_pos hu, ← hu]
      simp
    · simp [hu]
  · by_cases hu : b = (s.press p).upBank q
    · rw [if_pos hu, ← hu]
      simp [hq]
    · simp [hq, hu]

section

variable {p : Press} {errs : List (Fin 512 × Int × Int)} {x1 x2 : List Frac}

/-- The columns that fail one of the two passes of the check (R321). -/
def failedColumns (s : State) (x1 x2 : List Frac) (errs : List (Fin 512 × Int × Int)) : List Nat :=
  (errs.filter fun d => checkFails s.settings.engraveCheckLimit.toNat (lget ⟨0, 1⟩ x1 d.1) d.2.1 ||
    checkFails s.settings.engraveCheckLimit.toNat (lget ⟨0, 1⟩ x2 d.1) d.2.2).map fun d => d.1.val

/-- Without an engraving, or on a press that may run no pass of it, ENGRAVING_CHECK changes nothing (R321). -/
theorem execEngravingCheck_idle (h : (s.press p).engraving = none ∨ pressPasses s p = false) :
    execEngravingCheck p errs s = .next s := by
  simp only [execEngravingCheck]
  split
  · rfl
  · rename_i e he
    rw [if_pos (.inr (.inr (.inr (by rw [h.resolve_left (by simp [he])]; rfl))))]

/-- In another phase than the check ENGRAVING_CHECK changes nothing (R321). -/
theorem execEngravingCheck_phase (he : (s.press p).engraving = some e) (hc : e.phase ≠ .check) (hr : e.phase ≠ .recheck) :
    execEngravingCheck p errs s = .next s := by
  simp only [execEngravingCheck, he]
  rw [if_pos (.inr (.inr (.inl ⟨hc, hr⟩)))]

/-- The ideal ratios depend on the default codebook alone (R44, R321). -/
theorem checkRatios_congr (h : t.dev = s.dev) (c : Content) : checkRatios t c = checkRatios s c := by
  simp only [checkRatios, plateCharges, codebookOf, imageDefault, h]

/-- What the check of an engraving does: it passes, repeats the failing columns, or maps spare columns in (R321). -/
theorem execEngravingCheck_run (he : (s.press p).engraving = some e) (hh : e.held = false) (hl : e.lines = [])
    (hph : e.phase = .check ∨ e.phase = .recheck) (hp : pressPasses s p = true)
    (hx : checkRatios s (e.content.getD {}) = (x1, x2)) :
    execEngravingCheck p errs s =
      if failedColumns s x1 x2 errs = [] then
        .next (updEng p (fun x => { x with phase := .verify }) (wakeForPass p e.plate s))
      else if e.phase = .check then
        .next (countEngraving p e.plate (updEng p (fun x => { x with
          phase := .recheck
          lines := (failedColumns s x1 x2 errs).flatMap
            (columnLines (((wakeForPass p e.plate s).press p).plate e.plate)) }) (wakeForPass p e.plate s)))
      else .next ((failedColumns s x1 x2 errs).foldl (fun t n => repairCell p e.plate
          (lget 0 (columnLines (((wakeForPass p e.plate s).press p).plate e.plate) n) 0) none t)
        (updEng p (fun x => { x with phase := .verify }) (wakeForPass p e.plate s))) := by
  have go : ¬(e.held = true ∨ e.lines ≠ [] ∨ (e.phase ≠ .check ∧ e.phase ≠ .recheck) ∨ (!pressPasses s p) = true) := by
    rw [hh, hl, hp]
    rintro (h | h | ⟨hc, hr⟩ | h)
    · cases h
    · exact h rfl
    · exact hph.elim hc hr
    · cases h
  have ratios : checkRatios (wakeForPass p e.plate s) (e.content.getD {}) = (x1, x2) := (checkRatios_congr rfl _).trans hx
  simp only [execEngravingCheck, he]
  rw [if_neg go]
  rw [wakeForPass] at ratios
  simp only [ratios]
  rfl

end

end Sys2Proof.Machine
end

section
/-! SUPPORT. The end of an engraving and of a pulp (R55, R62, R65, R326, R329, R352): what the verify records, how a plate goes
LIVE, and what ENGRAVING_DONE and PLATE_PULP_DONE do in each case. -/

namespace Sys2Proof.Machine

variable {s t u : State} {p q : Nat} {e : EngRec}

@[simp] theorem PressRec.bank_updPlate (r : PressRec) (q b : Nat) (f : PlateRec → PlateRec) :
    (r.updPlate q f).bank b = r.bank b := rfl

@[simp] theorem PressRec.plate_updBank (r : PressRec) (b q : Nat) (f : Bank → Bank) :
    (r.updBank b f).plate q = r.plate q := rfl

/-- A change that keeps the power of a bank keeps that of every bank. -/
theorem PressRec.poweredDown_updBank {r : PressRec} {b i : Nat} {f : Bank → Bank}
    (h : ∀ x, (f x).poweredDown = x.poweredDown) : ((r.updBank b f).bank i).poweredDown = (r.bank i).poweredDown := by
  rw [PressRec.bank_updBank]
  split
  · rename_i e
    rw [h, e]
  · rfl

/-! ## A plate whose engraving ended -/

/-- The engraving of press p ends. -/
def endEngraving (p : Nat) (s : State) : State := s.updPress p fun r => { r with engraving := none }

/-- Between s and t the engraving of plate q of press p ended: of that press, no other plate changed. -/
structure EngravingEnded (p q : Nat) (s t : State) : Prop where
  engraving : (t.press p).engraving = none
  plates : ∀ i, i ≠ q → (t.press p).plate i = (s.press p).plate i
  others : ∀ i, i ≠ p → t.press i = s.press i
  device : t = { s with presses := t.presses, vats := t.vats, gov := t.gov }

namespace EngravingEnded

/-- An engraving whose pulses are paid for ends. -/
theorem of_set {x : EngRec} {g : Gov} (h : EngravingSet p x g s t) : EngravingEnded p q s (endEngraving p t) where
  engraving := by rw [endEngraving, State.press_updPress, if_pos rfl]
  plates i _ := by
    rw [endEngraving, State.press_updPress, if_pos rfl, h.press]
    rfl
  others i hi := by rw [endEngraving, State.press_updPress, if_neg hi, h.others i hi]
  device := by
    rw [endEngraving, h.device]
    rfl

theorem of_engraving (p q : Nat) (s : State) : EngravingEnded p q s (endEngraving p s) where
  engraving := by rw [endEngraving, State.press_updPress, if_pos rfl]
  plates i _ := by
    rw [endEngraving, State.press_updPress, if_pos rfl]
    rfl
  others i hi := by rw [endEngraving, State.press_updPress, if_neg hi]
  device := rfl

variable {f : PressRec → PressRec}

/-- The press changes on, its engraving and its other plates apart. -/
theorem updPress (h : EngravingEnded p q s t) (hf : (f (t.press p)).engraving = (t.press p).engraving)
    (hq : ∀ i, i ≠ q → (f (t.press p)).plate i = (t.press p).plate i) : EngravingEnded p q s (t.updPress p f) where
  engraving := by rw [State.press_updPress, if_pos rfl, hf, h.engraving]
  plates i hi := by rw [State.press_updPress, if_pos rfl, hq i hi, h.plates i hi]
  others i hi := by rw [State.press_updPress, if_neg hi, h.others i hi]
  device := by
    rw [h.device]
    rfl

theorem updPlate (h : EngravingEnded p q s t) (f : PlateRec → PlateRec) : EngravingEnded p q s (t.updPlate p q f) :=
  h.updPress rfl fun i hi => by rw [PressRec.plate_updPlate, if_neg hi]

theorem updBank (h : EngravingEnded p q s t) (b : Nat) (f : Bank → Bank) : EngravingEnded p q s (t.updBank p b f) :=
  h.updPress rfl fun _ _ => rfl

theorem updVat (h : EngravingEnded p q s t) (v : Nat) (f : VatRec → VatRec) : EngravingEnded p q s (t.updVat v f) :=
  ⟨h.engraving, h.plates, h.others, by rw [h.device]; rfl⟩

end EngravingEnded

/-! ## The verify -/

/-- The verify changes presses alone. -/
theorem recordVerify_frame (p q : Nat) (errs : List Int) (s : State) :
    recordVerify p q errs s = { s with presses := (recordVerify p q errs s).presses } := rfl

theorem EngravingEnded.recordVerify (h : EngravingEnded p q s t) (errs : List Int) :
    EngravingEnded p q s (recordVerify p q errs t) :=
  (((h.updBank _ _).updBank _ _).updBank _ _).updPlate _

/-- MaxAbs takes codes without waking or parking the bank (R141). -/
theorem recordMax_poweredDown (n c : Nat) (l : List Int) (x : Bank) : (recordMax n c l x).poweredDown = x.poweredDown := by
  simp only [recordMax]
  split <;> rfl

/-- A plate verified with the errors errs at a reading of the thermometer (R56, R426). -/
structure Verified (errs : List Int) (temp : Int) (y : PlateRec) : Prop where
  centres : y.centres = (List.range 8).map (fun j => proofCode j (lget 0 errs j))
  driftAge : y.driftAge = 0
  passes : y.passes = 0
  verifyTemp : y.verifyTemp = temp

/-- A press whose plate q was verified: r is the press before, and its banks of plate q are awake (R96). -/
structure VerifiedOn (q : Nat) (errs : List Int) (r r' : PressRec) : Prop where
  plate : Verified errs r.thermal.reading (r'.plate q)
  own : (r'.bank q).poweredDown = false
  up : (r'.bank (r.upBank q)).poweredDown = false
  state : (r'.plate q).state = (r.plate q).state
  vat : r'.vat = r.vat
  macros : r'.macros = r.macros

/-- Plate y as its verify leaves it: the codes of its proof columns are the window centres. -/
def PlateRec.verify (codes : List Int) (temp : Int) (goal : Nat) (y : PlateRec) : PlateRec :=
  { y with
    centres := codes, verifyTemp := temp, driftAge := 0, overdue := false, passes := 0, proofGoal := goal, outside := 0
    limitTripped := false
    columnResult := packResult ((List.range 8).map fun j =>
      if y.proofDisabled.any fun x => decide (x.val = j) then 3 else 0) }

/-- The codes of the proof columns that a verify records. -/
def verifyCodes (errs : List Int) : List Int := (List.range 8).map fun j => proofCode j (lget 0 errs j)

theorem recordVerify_eq (p q : Nat) (errs : List Int) (s : State) :
    recordVerify p q errs s =
      ((wakeForPass p q s).updBank p q (recordMax 12 512 (verifyCodes errs))).updPlate p q
        (PlateRec.verify (verifyCodes errs) (s.press p).thermal.reading (s.press p).cfg.proofInterval.toNat) := rfl

theorem recordVerify_verified (p q : Nat) (errs : List Int) (s : State) :
    VerifiedOn q errs (s.press p) ((recordVerify p q errs s).press p) := by
  have awake : ∀ b, b = q ∨ b = (s.press p).upBank q →
      (((recordVerify p q errs s).press p).bank b).poweredDown = false := fun b hb => by
    have woken : (((wakeForPass p q s).press p).bank b).poweredDown = false := by rw [wakeForPass_bank, if_pos hb]
    rw [recordVerify_eq, State.press_updPlate, if_pos rfl, State.press_updBank, if_pos rfl, PressRec.bank_updPlate,
      PressRec.bank_updBank]
    split
    · rename_i h
      rw [recordMax_poweredDown]
      exact h ▸ woken
    · exact woken
  have plate : ((recordVerify p q errs s).press p).plate q = PlateRec.verify (verifyCodes errs) (s.press p).thermal.reading
      (s.press p).cfg.proofInterval.toNat ((s.press p).plate q) := by
    rw [recordVerify_eq, State.press_updPlate, if_pos rfl, PressRec.plate_updPlate, if_pos rfl, State.press_updBank,
      if_pos rfl, PressRec.plate_updBank, wakeForPass_plate]
  have rest := wakeForPass_own p q s
  refine ⟨?_, awake q (.inl rfl), awake _ (.inr rfl), ?_, ?_, ?_⟩
  · rw [plate]
    exact ⟨rfl, rfl, rfl, rfl⟩
  · rw [plate, PlateRec.verify]
  · rw [recordVerify_eq, State.press_updPlate, if_pos rfl, State.press_updBank, if_pos rfl]
    exact (congrArg PressRec.vat rest :)
  · rw [recordVerify_eq, State.press_updPlate, if_pos rfl, State.press_updBank, if_pos rfl]
    exact (congrArg PressRec.macros rest :)

/-! ## The content of a plate, and a plate that goes LIVE -/

/-- Plate y holds content c. -/
structure Holds (c : Content) (y : PlateRec) : Prop where
  codes : y.codes = c.codes
  codebook : y.codebook = c.codebook
  fullScaleShift : y.fullScaleShift = c.fullScaleShift
  epoch : y.epoch = c.epoch

/-- Plate y with content c. -/
def PlateRec.withContent (c : Content) (y : PlateRec) : PlateRec :=
  { y with
    codes := c.codes, codebook := c.codebook, fullScaleShift := c.fullScaleShift, couch := c.couch, epoch := c.epoch
    staged := c.staged }

/-- Plate y, LIVE with content c. -/
def PlateRec.live (c : Content) (y : PlateRec) : PlateRec :=
  { y.withContent c with state := .live, ready := none, outOfService := false, priority := false, overdue := false }

theorem PlateRec.withContent_holds (c : Content) (y : PlateRec) : Holds c (y.withContent c) := ⟨rfl, rfl, rfl, rfl⟩

theorem Verified.withContent {errs : List Int} {temp : Int} {y : PlateRec} (h : Verified errs temp y) (c : Content) :
    Verified errs temp (y.withContent c) := ⟨h.centres, h.driftAge, h.passes, h.verifyTemp⟩

theorem Verified.live {errs : List Int} {temp : Int} {y : PlateRec} (h : Verified errs temp y) (c : Content) :
    Verified errs temp (y.live c) := ⟨h.centres, h.driftAge, h.passes, h.verifyTemp⟩

theorem setContent_eq (p q : Nat) (c : Content) (s : State) :
    setContent p q c s = s.updPlate p q (PlateRec.withContent c) := rfl

/-- A bank whose sense registers a content sets. -/
def Bank.withSense (c : Content) (b : Bank) : Bank := { b with regs := { b.regs with sense := c.sense } }

/-- A bank whose drive registers a content sets. -/
def Bank.withDrive (c : Content) (b : Bank) : Bank := { b with regs := { b.regs with drive := c.drive } }

/-- Plate q goes LIVE with its registers: its couch mode apart, this is what goLive does. -/
def liveWithRegs (p q : Nat) (c : Content) (s : State) : State :=
  ((s.updPlate p q (PlateRec.live c)).updBank p q (Bank.withSense c)).updBank p ((s.press p).upBank q) (Bank.withDrive c)

/-- A press whose couch modes are m. -/
def PressRec.withCouch (m : Tab Couch) (r : PressRec) : PressRec := { r with couchMode := m }

theorem goLive_eq (p q : Nat) (c : Content) (s : State) : goLive p q c s = liveWithRegs p q c s ∨
    ∃ f : PressRec → Tab Couch,
      goLive p q c s = (liveWithRegs p q c s).updPress p fun r => r.withCouch (f r) := by
  simp only [goLive]
  split
  · rename_i n _
    exact .inr ⟨fun r => tput .none r.couchMode (n / 2) c.couch, rfl⟩
  · exact .inl rfl

/-- Going LIVE changes presses alone. -/
theorem goLive_frame (p q : Nat) (c : Content) (s : State) :
    goLive p q c s = { s with presses := (goLive p q c s).presses } := by
  obtain h | ⟨f, h⟩ := goLive_eq p q c s <;> (rw [h]; rfl)

theorem EngravingEnded.goLive (h : EngravingEnded p q s t) (c : Content) : EngravingEnded p q s (goLive p q c t) := by
  have regs : EngravingEnded p q s (liveWithRegs p q c t) := ((h.updPlate _).updBank _ _).updBank _ _
  obtain eq | ⟨f, eq⟩ := goLive_eq p q c t
  · exact eq ▸ regs
  · exact eq ▸ regs.updPress rfl fun _ _ => rfl

/-- Between r and r', plate q of a press went LIVE with content c (R440). -/
structure WentLive (q : Nat) (c : Content) (r r' : PressRec) : Prop where
  plate : r'.plate q = (r.plate q).live c
  sense : (r'.bank q).regs.sense = c.sense
  parked : ∀ b, (r'.bank b).poweredDown = (r.bank b).poweredDown

theorem goLive_went (p q : Nat) (c : Content) (s : State) : WentLive q c (s.press p) ((goLive p q c s).press p) := by
  have regs : WentLive q c (s.press p) ((liveWithRegs p q c s).press p) := by
    refine ⟨by simp [liveWithRegs], ?_, fun b => ?_⟩
    · simp only [liveWithRegs, State.press_updBank, State.press_updPlate, if_true, PressRec.bank_updBank,
        PressRec.bank_updPlate]
      split
      · rename_i h
        rw [if_pos h.symm]
        rfl
      · rfl
    · simp only [liveWithRegs, State.press_updBank, State.press_updPlate, if_true]
      rw [PressRec.poweredDown_updBank (f := Bank.withDrive c) fun _ => rfl,
        PressRec.poweredDown_updBank (f := Bank.withSense c) fun _ => rfl, PressRec.bank_updPlate]
  obtain h | ⟨f, h⟩ := goLive_eq p q c s
  · exact h ▸ regs
  · rw [h, State.press_updPress, if_pos rfl]
    exact ⟨regs.plate, regs.sense, regs.parked⟩

/-! ## ENGRAVING_DONE -/

/-- A plate whose verify was recorded is left as the purpose of its engraving says (R62, R65, R326). -/
def leaveVerified (p : Press) (e : EngRec) (c : Content) (s : State) : State :=
  match e.purpose with
  | .refresh => (setContent p e.plate c s).updPress p fun r => { r with handover := true }
  | .inPlace => (setContent p e.plate c s).updPress p fun r => { r with returning := some e.plate }
  | _ => if awaitsStep3 s p c.epoch then s.updPlate p e.plate fun y => { y with ready := some c } else goLive p e.plate c s

section

variable {p : Press} {errs : List Int} {c : Content}

/-- Without an engraving, or on a press that may run no pass of it, ENGRAVING_DONE changes nothing (R324). -/
theorem execEngravingDone_idle (h : (s.press p).engraving = none ∨ pressPasses s p = false) :
    execEngravingDone p errs s = .next s := by
  simp only [execEngravingDone]
  split
  · rfl
  · rename_i e he
    split
    · rfl
    · rw [if_pos (.inr (.inr (.inr (by rw [h.resolve_left (by simp [he])]; rfl))))]

/-- The verify ends an engraving that it is due for, in a state u in which its plate is verified (R329). -/
theorem execEngravingDone_run (he : (s.press p).engraving = some e) (hc : e.content = some c) (hh : e.held = false)
    (hl : e.lines = []) (hv : e.phase = .verify) (hp : pressPasses s p = true) :
    ∃ u : State, execEngravingDone p errs s = .next (advanceSwaps (leaveVerified p e c u)) ∧
      EngravingEnded p e.plate s u ∧ VerifiedOn e.plate errs (s.press p) (u.press p) ∧
      u = { s with presses := u.presses } := by
  have go : ¬(e.held = true ∨ e.lines ≠ [] ∨ e.phase ≠ .verify ∨ (!pressPasses s p) = true) := by
    simp [hh, hl, hv, hp]
  have ended : (endEngraving p s).press p = { s.press p with engraving := none } := by
    rw [endEngraving, State.press_updPress, if_pos rfl]
  have verify := recordVerify_verified p e.plate errs (endEngraving p s)
  rw [ended] at verify
  refine ⟨recordVerify p e.plate errs (endEngraving p s), ?_,
    (EngravingEnded.of_engraving p e.plate s).recordVerify errs,
    ⟨verify.plate, verify.own, verify.up, verify.state, verify.vat, verify.macros⟩,
    recordVerify_frame p e.plate errs (endEngraving p s)⟩
  simp only [execEngravingDone, he, hc]
  rw [if_neg go, leaveVerified]
  cases e.purpose <;> rfl

/-- For another purpose than a refresh, a content that awaits step 3 makes the plate ready (R326). -/
theorem leaveVerified_ready (hr : e.purpose ≠ .refresh) (hi : e.purpose ≠ .inPlace) (hw : awaitsStep3 s p c.epoch = true) :
    leaveVerified p e c s = s.updPlate p e.plate fun y => { y with ready := some c } := by
  cases hp : e.purpose <;> simp_all [leaveVerified]

/-- For another purpose than a refresh, a content that awaits nothing makes the plate LIVE (R440). -/
theorem leaveVerified_live (hr : e.purpose ≠ .refresh) (hi : e.purpose ≠ .inPlace) (hw : awaitsStep3 s p c.epoch = false) :
    leaveVerified p e c s = goLive p e.plate c s := by
  cases hp : e.purpose <;> simp_all [leaveVerified]

/-- Between r and r', a plate left the engraving e with content c as its purpose says (R62, R65, R329). -/
structure LeftVerified (e : EngRec) (errs : List Int) (c : Content) (r r' : PressRec) : Prop where
  verified : Verified errs r.thermal.reading (r'.plate e.plate)
  holds : Holds c (r'.plate e.plate)
  own : (r'.bank e.plate).poweredDown = false
  up : (r'.bank (r.upBank e.plate)).poweredDown = false
  refresh : e.purpose = .refresh → r'.handover = true ∧ (r'.plate e.plate).state = (r.plate e.plate).state
  inPlace : e.purpose = .inPlace → r'.returning = some e.plate ∧ (r'.plate e.plate).state = (r.plate e.plate).state
  live : e.purpose ≠ .refresh → e.purpose ≠ .inPlace →
    (r'.plate e.plate).state = .live ∧ (r'.bank e.plate).regs.sense = c.sense

/-- A content that the plate is set to leaves it verified. -/
theorem VerifiedOn.setContent {r : PressRec} (h : VerifiedOn e.plate errs r (s.press p)) :
    VerifiedOn e.plate errs r ((setContent p e.plate c s).press p) ∧
      Holds c (((setContent p e.plate c s).press p).plate e.plate) := by
  have plate : ((Machine.setContent p e.plate c s).press p).plate e.plate = ((s.press p).plate e.plate).withContent c := by
    rw [setContent_eq, State.press_updPlate, if_pos rfl, PressRec.plate_updPlate, if_pos rfl]
  have bank : ∀ b, ((Machine.setContent p e.plate c s).press p).bank b = (s.press p).bank b := fun b => by
    rw [setContent_eq, State.press_updPlate, if_pos rfl, PressRec.bank_updPlate]
  refine ⟨⟨plate ▸ h.plate.withContent c, bank _ ▸ h.own, bank _ ▸ h.up, plate ▸ h.state, ?_, ?_⟩,
    plate ▸ PlateRec.withContent_holds ..⟩
  · rw [setContent_eq, State.press_updPlate, if_pos rfl]
    exact h.vat
  · rw [setContent_eq, State.press_updPlate, if_pos rfl]
    exact h.macros

theorem leaveVerified_left {r : PressRec} (h : VerifiedOn e.plate errs r (s.press p))
    (hw : awaitsStep3 s p c.epoch = false) :
    LeftVerified e errs c r ((leaveVerified p e c s).press p) := by
  obtain ⟨set, holds⟩ := h.setContent (c := c)
  by_cases hr : e.purpose = .refresh
  · rw [leaveVerified, hr]
    simp only [State.press_updPress, if_true]
    exact ⟨set.plate, holds, set.own, set.up, fun _ => ⟨rfl, set.state⟩, fun h => absurd (hr.symm.trans h) (by decide),
      fun h => absurd hr h⟩
  by_cases hi : e.purpose = .inPlace
  · rw [leaveVerified, hi]
    simp only [State.press_updPress, if_true]
    exact ⟨set.plate, holds, set.own, set.up, fun h => absurd h hr, fun _ => ⟨rfl, set.state⟩, fun _ h => absurd hi h⟩
  have went := goLive_went p e.plate c s
  rw [leaveVerified_live hr hi hw]
  refine ⟨went.plate ▸ h.plate.live c, went.plate ▸ ⟨rfl, rfl, rfl, rfl⟩, (went.parked _).trans h.own,
    (went.parked _).trans h.up, fun h => absurd h hr, fun h => absurd h hi, fun _ _ => ⟨?_, went.sense⟩⟩
  rw [went.plate, PlateRec.live]

theorem EngravingEnded.leaveVerified (h : EngravingEnded p e.plate s t) :
    EngravingEnded p e.plate s (leaveVerified p e c t) := by
  have set : EngravingEnded p e.plate s (Machine.setContent p e.plate c t) := h.updPlate _
  simp only [Machine.leaveVerified]
  split
  · exact set.updPress rfl fun _ _ => rfl
  · exact set.updPress rfl fun _ _ => rfl
  · split
    · exact h.updPlate _
    · exact h.goLive c

/-- Leaving the engraving changes presses alone. -/
theorem leaveVerified_frame (p : Press) (e : EngRec) (c : Content) (s : State) :
    leaveVerified p e c s = { s with presses := (leaveVerified p e c s).presses } := by
  simp only [leaveVerified]
  split
  · rfl
  · rfl
  · split
    · rfl
    · exact goLive_frame ..

/-- What a swap is under way is read from the vats alone. -/
theorem noSwap_of_vats (h : Safety.NoSwap s) (hv : t.vats = s.vats) : Safety.NoSwap t := fun v => by
  rw [State.vat, hv]
  exact h v

/-- Without a swap no plate waits for step 3. -/
theorem awaitsStep3_noSwap (h : Safety.NoSwap s) (p : Nat) (epoch : BitVec 16) : awaitsStep3 s p epoch = false := by
  rw [awaitsStep3, State.pressVat]
  cases (s.press p).vat with
  | none => rfl
  | some v =>
    obtain ⟨inactive, -⟩ := h v
    simp [inactive]

/-- Without a swap, the verify of an engraving records the proof columns and leaves the plate as its purpose says. -/
theorem execEngravingDone_noSwap (he : (s.press p).engraving = some e) (hc : e.content = some c) (hh : e.held = false)
    (hl : e.lines = []) (hv : e.phase = .verify) (hp : pressPasses s p = true) (hn : Safety.NoSwap s) :
    ∃ t : State, execEngravingDone p errs s = .next t ∧ EngravingEnded p e.plate s t ∧
      LeftVerified e errs c (s.press p) (t.press p) ∧ t = { s with presses := t.presses } := by
  obtain ⟨u, run, ended, verified, frame⟩ := execEngravingDone_run (errs := errs) he hc hh hl hv hp
  have left := leaveVerified_frame p e c u
  have quiet : Safety.NoSwap u := noSwap_of_vats hn (congrArg State.vats frame :)
  rw [advanceSwaps_noSwap (noSwap_of_vats quiet (congrArg State.vats left :))] at run
  refine ⟨_, run, ended.leaveVerified, leaveVerified_left verified (awaitsStep3_noSwap quiet ..), ?_⟩
  calc leaveVerified p e c u
    _ = { u with presses := (leaveVerified p e c u).presses } := left
    _ = _ := by rw [frame]

/-- In a running swap a plate of the incoming epoch waits for the loads of step 3 (R326). -/
theorem execEngravingDone_waits {v : Vat} (he : (s.press p).engraving = some e) (hc : e.content = some c)
    (hh : e.held = false) (hl : e.lines = []) (hv : e.phase = .verify) (hp : pressPasses s p = true)
    (hvat : s.pressVat p = some v.val) (ha : (s.vat v).swap.active = true) (hep : (s.vat v).swap.epoch = c.epoch)
    (hr : e.purpose ≠ .refresh) (hi : e.purpose ≠ .inPlace) (hload : (s.press p).loadsStaged) :
    ∃ t : State, execEngravingDone p errs s = .next t ∧ (t.press p).engraving = none ∧
      ((t.press p).plate e.plate).ready = some c ∧
      ((t.press p).plate e.plate).state = ((s.press p).plate e.plate).state := by
  obtain ⟨u, run, ended, verified, frame⟩ := execEngravingDone_run (errs := errs) he hc hh hl hv hp
  have await : awaitsStep3 u p c.epoch = true := by
    have vat : u.pressVat p = some v.val := by rw [State.pressVat, verified.vat, ← State.pressVat, hvat]
    have swap : u.vat v = s.vat v := (congrArg (fun t => t.vat v) frame :)
    rw [awaitsStep3, vat, Option.any_some, swap, ha, decide_eq_true hep, Bool.and_self]
  rw [leaveVerified_ready hr hi await] at run
  have left := ended.updPlate fun y => { y with ready := some c }
  have loads : ((u.updPlate p e.plate fun y => { y with ready := some c }).press p).loadsStaged := by
    obtain ⟨m, g, hm, hg, staged⟩ := hload
    refine ⟨m, g, hm, hg, ?_⟩
    simp only [State.press_updPlate, if_true, PressRec.macro', PressRec.updPlate, verified.macros]
    exact staged
  have kept := advanceSwaps_waits loads
  refine ⟨_, run, kept.engraving.trans left.engraving, ?_⟩
  rw [PressRec.plate, kept.plates, ← PressRec.plate, State.press_updPlate, if_pos rfl, PressRec.plate_updPlate, if_pos rfl]
  exact ⟨rfl, verified.state⟩

end

end Sys2Proof.Machine
end

section
/-! SUPPORT. The end of a pulp (R62, R326, R352, R356): what PLATE_PULP_DONE does in each case. -/

namespace Sys2Proof.Machine

variable {s t u : State} {e : EngRec} {p : Press} {paid : Nat} {done : Bool}

/-! ## A pulped plate -/

/-- The epoch that a pulped plate has (R326): that of the swap under way. -/
def pulpEpoch (p q : Nat) (s : State) : BitVec 16 :=
  match (s.press p).vat with
  | some v => if (s.vat v).swap.active then (s.vat v).swap.epoch else ((s.press p).plate q).epoch
  | none => ((s.press p).plate q).epoch

/-- Plate q of press p is BLANK and has the epoch that pulps have. -/
def pulpedPlate (p q : Nat) (s : State) : State :=
  (blankPlate p q s).updPlate p q fun y => { y with epoch := pulpEpoch p q s }

/-- A pulped plate is done for a swap whose edition leaves it BLANK (R326 step 4). -/
def donePulped (p q : Nat) (s : State) : State := if blankInEdition s p q then plateDone p q s else s

/-- A plate whose pulp ended is left as the purpose of the pulp says (R62 step 3, R326, R352, R356). -/
def leavePulped (p : Press) (e : EngRec) (s : State) : State :=
  match e.purpose with
  | .refresh => advanceSwaps (s.updPress p fun r => { r with handover := true })
  | .swapTarget => advanceSwaps s
  | .vatPulp => if (s.press p).refreshTarget = e.plate then s else blankPlate p e.plate s
  | .resetPulp => if (s.press p).refreshTarget = e.plate then s else blankPlate p e.plate s
  | _ => advanceSwaps (donePulped p e.plate (pulpedPlate p e.plate s))

/-- Plate y was pulped: it holds no content. -/
structure Pulped (y : PlateRec) : Prop where
  state : y.state = .blank
  fullScaleShift : y.fullScaleShift = 3
  codebook : y.codebook = []

theorem blankPlate_pulped (p q : Nat) (s : State) : Pulped (((blankPlate p q s).press p).plate q) := by
  rw [blankPlate, State.press_updPlate, if_pos rfl, PressRec.plate_updPlate, if_pos rfl]
  exact ⟨rfl, rfl, rfl⟩

theorem pulpedPlate_pulped (p q : Nat) (s : State) : Pulped (((pulpedPlate p q s).press p).plate q) := by
  obtain ⟨state, shift, book⟩ := blankPlate_pulped p q s
  rw [pulpedPlate, State.press_updPlate, if_pos rfl, PressRec.plate_updPlate, if_pos rfl]
  exact ⟨state, shift, book⟩

theorem donePulped_press (p q : Nat) (s : State) : (donePulped p q s).press = s.press := by
  rw [donePulped]
  split
  · exact plateDone_press ..
  · rfl

theorem donePulped_apartSwap (p q : Nat) (s : State) : (donePulped p q s).apartSwap = s.apartSwap := by
  rw [donePulped]
  split
  · exact plateDone_apartSwap ..
  · rfl

/-- A plate that is done for a swap begins no swap. -/
theorem donePulped_noSwap (h : Safety.NoSwap s) (p q : Nat) : Safety.NoSwap (donePulped p q s) := by
  rw [donePulped]
  split
  · rw [plateDone]
    split
    · exact h
    · intro v
      rw [State.vat_updVat]
      split
      · rename_i eq
        exact eq ▸ h v
      · exact h v
  · exact h

theorem EngravingEnded.donePulped {p q : Nat} (h : EngravingEnded p q s t) : EngravingEnded p q s (donePulped p q t) := by
  rw [Machine.donePulped]
  split
  · rw [plateDone]
    split
    · exact h
    · exact h.updVat _ _
  · exact h

theorem State.gov_of_apartSwap (h : t.apartSwap = s.apartSwap) : t.gov = s.gov := (congrArg State.gov h :)

/-- What is left of a pulp keeps the governor. -/
theorem leavePulped_gov (p : Press) (e : EngRec) (s : State) : (leavePulped p e s).gov = s.gov := by
  rw [leavePulped]
  split
  · exact (State.gov_of_apartSwap (advanceSwaps_apartSwap _)).trans rfl
  · exact State.gov_of_apartSwap (advanceSwaps_apartSwap s)
  · split <;> rfl
  · split <;> rfl
  · exact (State.gov_of_apartSwap ((advanceSwaps_apartSwap _).trans (donePulped_apartSwap ..))).trans rfl

/-! ## A pulp that ends without a swap -/

/-- Between r and r', a plate left the pulp e as its purpose says (R62 step 3, R326, R352, R356). -/
structure LeftPulped (e : EngRec) (r r' : PressRec) : Prop where
  refresh : e.purpose = .refresh → r'.handover = true ∧ r'.plates = r.plates
  swapTarget : e.purpose = .swapTarget → r'.plates = r.plates
  target : e.purpose = .vatPulp ∨ e.purpose = .resetPulp → e.plate = r.refreshTarget → r'.plates = r.plates
  pulped : (e.purpose = .vatPulp ∨ e.purpose = .resetPulp) ∧ e.plate ≠ r.refreshTarget ∨ e.purpose = .swap ∨
    e.purpose = .engage ∨ e.purpose = .reengrave → Pulped (r'.plate e.plate)

section

variable (hn : Safety.NoSwap s)
include hn

/-- The end of a pulp of the refresh target hands it over (R62 step 3). -/
theorem leavePulped_refresh (hp : e.purpose = .refresh) :
    leavePulped p e s = s.updPress p fun r => { r with handover := true } := by
  rw [leavePulped, hp]
  exact advanceSwaps_noSwap hn

/-- The refresh target that was pulped for a swap stays as it is (R326). -/
theorem leavePulped_swapTarget (hp : e.purpose = .swapTarget) : leavePulped p e s = s := by
  rw [leavePulped, hp]
  exact advanceSwaps_noSwap hn

/-- Another plate than these is BLANK after its pulp. -/
theorem leavePulped_plate (hr : e.purpose ≠ .refresh) (ht : e.purpose ≠ .swapTarget)
    (hp : ¬(e.purpose = .vatPulp ∨ e.purpose = .resetPulp)) :
    leavePulped p e s = donePulped p e.plate (pulpedPlate p e.plate s) := by
  have ends : leavePulped p e s = advanceSwaps (donePulped p e.plate (pulpedPlate p e.plate s)) := by
    rw [leavePulped]
    split <;> simp_all
  have pulped : Safety.NoSwap (pulpedPlate p e.plate s) := noSwap_of_vats hn rfl
  exact ends.trans (advanceSwaps_noSwap (donePulped_noSwap pulped p e.plate))

end

/-- The pulp of a vat or of a press makes all plates but the refresh target BLANK (R352, R356). -/
theorem leavePulped_pulp (hp : e.purpose = .vatPulp ∨ e.purpose = .resetPulp) :
    leavePulped p e s = if (s.press p).refreshTarget = e.plate then s else blankPlate p e.plate s := by
  rw [leavePulped]
  obtain hp | hp := hp <;> rw [hp]

theorem leavePulped_noSwap (hn : Safety.NoSwap t) (h : EngravingEnded p e.plate s t) :
    EngravingEnded p e.plate s (leavePulped p e t) ∧ LeftPulped e (t.press p) ((leavePulped p e t).press p) := by
  by_cases hp : e.purpose = .vatPulp ∨ e.purpose = .resetPulp
  · have other : e.purpose ≠ .refresh ∧ e.purpose ≠ .swapTarget ∧ e.purpose ≠ .swap ∧ e.purpose ≠ .engage ∧
        e.purpose ≠ .reengrave := by obtain hp | hp := hp <;> simp [hp]
    obtain ⟨hr, ht, hs, he, hg⟩ := other
    rw [leavePulped_pulp hp]
    split
    · rename_i target
      exact ⟨h, fun x => absurd x hr, fun x => absurd x ht, fun _ _ => rfl, fun x => by simp_all⟩
    · rename_i target
      exact ⟨h.updPlate _, fun x => absurd x hr, fun x => absurd x ht, fun _ x => absurd x.symm target,
        fun _ => blankPlate_pulped ..⟩
  by_cases hr : e.purpose = .refresh
  · rw [leavePulped_refresh hn hr]
    refine ⟨h.updPress rfl fun _ _ => rfl, ?_⟩
    rw [State.press_updPress, if_pos rfl]
    exact ⟨fun _ => ⟨rfl, rfl⟩, fun _ => rfl, fun x => absurd x hp, fun x => by simp [hr] at x⟩
  by_cases ht : e.purpose = .swapTarget
  · rw [leavePulped_swapTarget hn ht]
    exact ⟨h, fun x => absurd x hr, fun _ => rfl, fun _ _ => rfl, fun x => by simp [ht] at x⟩
  rw [leavePulped_plate hn hr ht hp]
  refine ⟨((h.updPlate _).updPlate _).donePulped, fun x => absurd x hr, fun x => absurd x ht, fun x => absurd x hp,
    fun _ => ?_⟩
  rw [donePulped_press]
  exact pulpedPlate_pulped ..

/-! ## PLATE_PULP_DONE -/

/-- Without an engraving, or on a press that may not bite, PLATE_PULP_DONE changes nothing (R324). -/
theorem execPlatePulpDone_idle (h : (s.press p).engraving = none ∨ pressBites s p = false) :
    execPlatePulpDone p s = .next s := by
  simp only [execPlatePulpDone]
  split
  · rfl
  · rename_i e he
    rw [if_pos (.inr (.inr (by rw [h.resolve_left (by simp [he])]; rfl)))]

section

variable (he : (s.press p).engraving = some e) (hph : e.phase = .pulp) (hh : e.held = false) (hp : pressBites s p = true)
  (hpay : payTowards p 2 20 (1056 * price s p .pulse) e.paid s = (paid, done, u))
include he hpay

theorem payPulses_set : EngravingSet p (e.withPaid paid done) u.gov s (payPulses p e s) := by
  rw [payPulses_eq hpay]
  exact updEng_set he (payTowards_frame hpay) fun x => x.withPaid paid done

include hph hh hp

/-- A pulp goes on until its pulses are paid for, and then ends (R352, R417). -/
theorem execPlatePulpDone_run : execPlatePulpDone p s =
    .next (if done then leavePulped p e (endEngraving p (payPulses p e s)) else payPulses p e s) := by
  have go : ¬(e.phase ≠ .pulp ∨ e.held = true ∨ (!pressBites s p) = true) := by simp [hph, hh, hp]
  have paid := (payPulses_set he hpay).engraving
  simp only [execPlatePulpDone, he]
  rw [if_neg go]
  simp only [paid, Option.any_some, EngRec.withPaid]
  cases done with
  | false => rfl
  | true =>
    rw [leavePulped]
    cases e.purpose <;> rfl

/-- A pulp whose pulses are paid for leaves the governor that the payment left; without a swap it leaves the plate as its
purpose says. -/
theorem execPlatePulpDone_paid (hd : done = true) : ∃ t : State, execPlatePulpDone p s = .next t ∧ t.gov = u.gov ∧
    (Safety.NoSwap s → EngravingEnded p e.plate s t ∧ LeftPulped e (s.press p) (t.press p)) := by
  have set := payPulses_set he hpay
  have run := execPlatePulpDone_run he hph hh hp hpay
  rw [if_pos hd] at run
  refine ⟨_, run, (leavePulped_gov ..).trans set.gov_eq, fun hn => ?_⟩
  have quiet : Safety.NoSwap (endEngraving p (payPulses p e s)) :=
    noSwap_of_vats hn ((congrArg State.vats set.device :) : (payPulses p e s).vats = s.vats)
  obtain ⟨ended, left⟩ := leavePulped_noSwap quiet (EngravingEnded.of_set (q := e.plate) set)
  have press : (endEngraving p (payPulses p e s)).press p = { s.press p with engraving := none } := by
    rw [endEngraving, State.press_updPress, if_pos rfl, set.press]
  rw [press] at left
  exact ⟨ended, left.refresh, left.swapTarget, left.target, left.pulped⟩

end

end Sys2Proof.Machine
end

section
/-! SUPPORT. The outcomes of BITE and of ENGRAVING_CHECK (R320, R321, R417): each by what it leaves of the engraving. -/

namespace Sys2Proof.Machine

variable {s t : State} {e : EngRec} {p : Press}

theorem EngravingSet.outcome {x : EngRec} {g : Gov} (h : EngravingSet p x g s t) : (t.press p).engraving = some x ∧
    t.press p = { s.press p with engraving := (t.press p).engraving } ∧
    (∀ q : Press, q ≠ p → t.press q = s.press q) ∧ t = { s with presses := t.presses, gov := g } :=
  ⟨h.engraving, h.own, fun q hq => h.others q (Fin.val_ne_of_ne hq), h.device⟩

/-! ## A column whose spare was mapped in -/

/-- Between s and t, the spare column of column n was mapped in on plate q, and the engraving became r (R53). -/
structure SpareMapped (p q n : Nat) (r : EngRec) (s t : State) : Prop where
  engraving : (t.press p).engraving = some r
  mapped : tget 0 ((t.press p).plate q).colMap (n / 32) = BitVec.ofNat 16 (0x8000 + n)
  kept : ∀ i, i ≠ n / 32 → tget 0 ((t.press p).plate q).colMap i = tget 0 ((s.press p).plate q).colMap i
  others : ∀ i, i ≠ p → t.press i = s.press i

/-- A column that is mapped in on a press with an engraving, its plates as in s. -/
theorem ColumnMapped.spare {p q n : Nat} {u : State} (h : ColumnMapped p q n u t) (he : (u.press p).engraving = some e)
    (hq : (u.press p).plates = (s.press p).plates) (ho : ∀ i, i ≠ p → u.press i = s.press i) :
    ∃ l, SpareMapped p q n { e with pulses := e.pulses + 2, lines := l } s t := by
  have same : (u.press p).plate q = (s.press p).plate q := by rw [PressRec.plate, hq, ← PressRec.plate]
  obtain ⟨l, hl⟩ := h.engraving e he
  refine ⟨l, hl, ?_, fun i hi => ?_, fun i hi => (h.others i hi).trans (ho i hi)⟩
  · rw [h.colMap, tget_tput_self]
  · rw [h.colMap, tget_tput_ne _ _ _ _ hi, same]

/-- A change of the engraving that follows. -/
theorem SpareMapped.updEng {p q n : Nat} {r : EngRec} (h : SpareMapped p q n r s t) (f : EngRec → EngRec) :
    SpareMapped p q n (f r) s (updEng p f t) := by
  have press : (Machine.updEng p f t).press p = { t.press p with engraving := some (f r) } := by
    rw [updEng_press, if_pos rfl, h.engraving]
    rfl
  refine ⟨by rw [press], by rw [press]; exact h.mapped, by rw [press]; exact h.kept, fun i hi => ?_⟩
  rw [updEng_press, if_neg hi, h.others i hi]

/-- The even line of an active column serves that column (R320). -/
theorem lineColumn_even (y : PlateRec) {n : Nat} (hn : n < 512) : lineColumn y (2 * n) = (n, false) := by
  have line : 2 * n % 2048 = 2 * n := by omega
  have half : 2 * n / 2 = n := by omega
  rw [lineColumn, line, if_pos (by omega), half]

/-! ## The outcomes of BITE -/

section

variable {seen : List (Fin 520 × Int)} {line : Nat} {rest : List Nat} (he : (s.press p).engraving = some e)
  (hl : e.lines = line :: rest) (hh : e.held = false) (hp : pressBites s p = true)
include he hl hh hp

/-- A bite before the pulses of the pulp are admitted pays for them (R319, R417). -/
theorem execBite_pulp {paid : Nat} {done : Bool} {u : State} (hpulsed : e.pulsed = false)
    (hpay : payTowards p 2 20 (1056 * price s p .pulse) e.paid s = (paid, done, u)) :
    execBite p seen s = .next (payPulses p e s) ∧ EngravingSet p (e.withPaid paid done) u.gov s (payPulses p e s) :=
  ⟨by rw [execBite_line he hl hh hp, if_pos hpulsed], payPulses_set he hpay⟩

section

variable (hpulsed : e.pulsed = true)
include hpulsed

/-- A bite with a pulse of a spare to do admits that pulse or counts it as demand (R53, R417). -/
theorem execBite_pulse (hpulses : 0 < e.pulses) : execBite p seen s =
    .next (if admits s p .pulse 1 then updEng p (fun x => { x with pulses := e.pulses - 1 }) (charge p .pulse 1 s)
      else refuse p 20 .pulse 1 s) := by
  rw [execBite_line he hl hh hp, if_neg (by simp [hpulsed]), if_pos hpulses]

variable (hpulses : e.pulses = 0)
include hpulses

/-- A bite that is not admitted counts as demand (R417). -/
theorem execBite_refused (ha : admits s p .bite 1 = false) : execBite p seen s = .next (refuse p 20 .bite 1 s) := by
  rw [execBite_line he hl hh hp, if_neg (by simp [hpulsed]), if_neg (by omega), if_pos ha]

/-- An admitted bite ends its line, counts, or repairs the cells that stay outside their windows (R320). -/
theorem execBite_admitted (ha : admits s p .bite 1 = true) : execBite p seen s =
    if badCells s p e line seen = [] then .next (execBite.toCheck p (dropLine p rest (charge p .bite 1 s)))
    else if e.bites + 1 < s.settings.biteLimit.toNat then
      .next (updEng p (fun x => { x with bites := e.bites + 1 }) (charge p .bite 1 s))
    else .next (execBite.toCheck p ((badCells s p e line seen).foldl (fun t row => repairCell p e.plate line (some row) t)
      (dropLine p rest (charge p .bite 1 s)))) := by
  rw [execBite_line he hl hh hp, if_neg (by simp [hpulsed]), if_neg (by omega), if_neg (by simp [ha])]

/-- At BiteLimit the free spare column of a failed cell is mapped in (R53, R320). -/
theorem execBite_spare {row col : Nat} (ha : admits s p .bite 1 = true) (hb : badCells s p e line seen = [row])
    (hlim : s.settings.biteLimit.toNat ≤ e.bites + 1) (hs : ((s.press p).plate e.plate).state ≠ .retired)
    (hc : lineColumn ((s.press p).plate e.plate) line = (col, false))
    (hf : replacedBy ((s.press p).plate e.plate).colMap (col / 32) = none) :
    ∃ (t : State) (r : EngRec), execBite p seen s = .next t ∧ SpareMapped p e.plate col r s t ∧ r.pulses = 2 ∧
      t = { s with presses := t.presses, events := t.events, gov := t.gov } := by
  have drop := updEng_set he (rfl : charge p .bite 1 s = { s with gov := (charge p .bite 1 s).gov })
    fun x => { x with lines := rest, bites := 0 }
  have same : ((dropLine p rest (charge p .bite 1 s)).press p).plate e.plate = (s.press p).plate e.plate :=
    (congrArg (fun r => r.plate e.plate) drop.press :)
  have repair : repairCell p e.plate line (some row) (dropLine p rest (charge p .bite 1 s)) =
      mapColumn p e.plate col (dropLine p rest (charge p .bite 1 s)) :=
    repairCell_mapColumn (by rwa [same]) (by rw [dropLine, drop.engraving]; simp) (by rwa [same]) (by rwa [same])
  have mapped := mapColumn_mapped p e.plate col (dropLine p rest (charge p .bite 1 s))
  obtain ⟨l, spare⟩ := mapped.spare drop.engraving (congrArg PressRec.plates drop.press :) drop.others
  have check := spare.updEng fun x => if x.phase = .bites ∧ x.lines = [] then { x with phase := .check } else x
  refine ⟨_, _, ?_, check, ?_, ?_⟩
  · rw [execBite_admitted he hl hh hp hpulsed hpulses ha, if_neg (by simp [hb]), if_neg (Nat.not_lt.mpr hlim), hb,
      List.foldl_cons, List.foldl_nil, repair]
    rfl
  · have pulses : 0 + 2 = 2 := rfl
    split <;> simp only [hpulses]
  · rw [updEng_frame, mapped.device]
    rfl

end

end

/-! ## The outcomes of ENGRAVING_CHECK -/

/-- Between s and t, the banks that make the passes of plate q woke, and the engraving of press p became x (R96, R321). -/
structure WokenFor (p q : Nat) (x : EngRec) (s t : State) : Prop where
  engraving : (t.press p).engraving = some x
  own : t.press p = { s.press p with engraving := (t.press p).engraving, banks := (t.press p).banks }
  bank : ∀ b, (t.press p).bank b = if b = q ∨ b = (s.press p).upBank q then
    { (s.press p).bank b with poweredDown := false, idleFrame := false } else (s.press p).bank b
  others : ∀ i, i ≠ p → t.press i = s.press i
  device : t = { s with presses := t.presses }

theorem wakeForPass_updEng {p q : Nat} (he : (s.press p).engraving = some e) (f : EngRec → EngRec) :
    WokenFor p q (f e) s (updEng p f (wakeForPass p q s)) := by
  have rest := wakeForPass_own p q s
  have press : (updEng p f (wakeForPass p q s)).press p =
      { (wakeForPass p q s).press p with engraving := some (f e) } := by
    have awake : ((wakeForPass p q s).press p).engraving = some e := (congrArg PressRec.engraving rest :).trans he
    rw [updEng_press, if_pos rfl, awake]
    rfl
  refine ⟨by rw [press], ?_, fun b => ?_, fun i hi => ?_, rfl⟩
  · rw [press]
    exact (congrArg (fun r => { r with
      engraving := some (f e), banks := ((wakeForPass p q s).press p).banks : PressRec }) rest :)
  · rw [press]
    exact wakeForPass_bank p q b s
  · rw [updEng_press, if_neg hi, wakeForPass_press_ne hi]

section

variable {errs : List (Fin 512 × Int × Int)} {x1 x2 : List Frac} (he : (s.press p).engraving = some e) (hh : e.held = false)
  (hl : e.lines = []) (hp : pressPasses s p = true) (hx : checkRatios s (e.content.getD {}) = (x1, x2))
include he hh hl hp hx

/-- A check that no column fails goes on to the verify (R321). -/
theorem execEngravingCheck_passed (hph : e.phase = .check ∨ e.phase = .recheck) (hb : failedColumns s x1 x2 errs = []) :
    ∃ t : State, execEngravingCheck p errs s = .next t ∧ WokenFor p e.plate { e with phase := .verify } s t :=
  ⟨_, by rw [execEngravingCheck_run he hh hl hph hp hx, if_pos hb],
    wakeForPass_updEng he fun x => { x with phase := .verify }⟩

/-- The columns that fail the first check are bitten once more, which counts as an engraving (R321, R330). -/
theorem execEngravingCheck_repeats (hph : e.phase = .check) (hb : failedColumns s x1 x2 errs ≠ []) :
    ∃ t : State, execEngravingCheck p errs s = .next t ∧ (t.press p).engraving = some { e with
        phase := .recheck, lines := (failedColumns s x1 x2 errs).flatMap (columnLines ((s.press p).plate e.plate)) } ∧
      ((t.press p).plate e.plate).ledger = satInc ((s.press p).plate e.plate).ledger ∧
      (∀ i, i ≠ p.val → t.press i = s.press i) ∧ t = { s with presses := t.presses, events := t.events } := by
  have woken := wakeForPass_updEng (q := e.plate) he fun x => { x with
    phase := .recheck, lines := (failedColumns s x1 x2 errs).flatMap (columnLines ((s.press p).plate e.plate)) }
  have run := execEngravingCheck_run (errs := errs) he hh hl (.inl hph) hp hx
  rw [if_neg hb, if_pos hph, wakeForPass_plate] at run
  have counted := countEngraving_own p e.plate (updEng p (fun x => { x with
    phase := .recheck, lines := (failedColumns s x1 x2 errs).flatMap (columnLines ((s.press p).plate e.plate)) })
    (wakeForPass p e.plate s))
  refine ⟨_, run, (congrArg PressRec.engraving counted :).trans woken.engraving, ?_, fun i hi => ?_, ?_⟩
  · rw [countEngraving_ledger, woken.own]
    rfl
  · rw [countEngraving_press_ne hi, woken.others i hi]
  · rw [countEngraving_frame, woken.device]

/-- The free spare column of a column that fails again is mapped in (R53, R321). -/
theorem execEngravingCheck_spare {n : Nat} (hph : e.phase = .recheck) (hb : failedColumns s x1 x2 errs = [n])
    (hs : ((s.press p).plate e.plate).state ≠ .retired) (hn : spareOf ((s.press p).plate e.plate).colMap 32 n = none)
    (hf : replacedBy ((s.press p).plate e.plate).colMap (n / 32) = none) :
    ∃ (t : State) (r : EngRec), execEngravingCheck p errs s = .next t ∧ SpareMapped p e.plate n r s t ∧
      r.phase = .verify ∧ t = { s with presses := t.presses, events := t.events, gov := t.gov } := by
  have column : n < 512 := by
    have mem : n ∈ failedColumns s x1 x2 errs := by simp [hb]
    obtain ⟨d, -, rfl⟩ := List.mem_map.mp mem
    exact d.1.isLt
  have line : lget 0 (columnLines ((s.press p).plate e.plate) n) 0 = 2 * n := by
    rw [columnLines, hn]
    rfl
  have woken := wakeForPass_updEng (q := e.plate) he fun x => { x with phase := .verify }
  have same : ((updEng p (fun x => { x with phase := .verify }) (wakeForPass p e.plate s)).press p).plates =
      (s.press p).plates := (congrArg PressRec.plates woken.own :)
  have plate : ((updEng p (fun x => { x with phase := .verify }) (wakeForPass p e.plate s)).press p).plate e.plate =
      (s.press p).plate e.plate := by rw [PressRec.plate, same, ← PressRec.plate]
  have run := execEngravingCheck_run (errs := errs) he hh hl (.inr hph) hp hx
  rw [if_neg (by simp [hb]), if_neg (by simp [hph]), wakeForPass_plate, hb, List.foldl_cons, List.foldl_nil, line,
    repairCell_mapColumn (by rwa [plate]) (by rw [woken.engraving]; simp) (by rw [plate]; exact lineColumn_even _ column)
      (by rwa [plate])] at run
  have mapped := mapColumn_mapped p e.plate n (updEng p (fun x => { x with phase := .verify }) (wakeForPass p e.plate s))
  obtain ⟨l, spare⟩ := mapped.spare woken.engraving same woken.others
  refine ⟨_, _, run, spare, rfl, ?_⟩
  rw [mapped.device]
  rfl

end

end Sys2Proof.Machine
end

section
/-! SUPPORT. Swap requests, engraving power, bites, checks and the end of an engraving: O54, from the outcomes above. -/

namespace Sys2Proof.Settled

open Sys2Proof.Machine

/-- Settles O54: each command by its outcomes, the swap's write by what the first turn of the swap loads and keeps. -/
theorem swapsAndEngraving : Obligations.SwapsAndEngraving := by
  refine ⟨?swap, ?start, ?bite, ?check, ?done, ?pulp⟩
  case swap =>
    intro pr v w s ream hs hr hream
    subst hream
    refine ⟨fun h => ?_, fun x hserving ha hx hp => ⟨fun h => ?_, fun hc hep hready hps => ?_⟩⟩
    · rw [exec_swapRequest hs hr, swapRequest_state h]
    · rw [exec_swapRequest hs hr, (swapRequest_ream hserving ha hx hp).1 h]
    · obtain ⟨t, accepted, begun⟩ := swapRequest_accepted hserving ha hx hp hc hep hready hps
      obtain ⟨r, todo, stipple, tables, hr', htodo, hvat⟩ := begun.vat
      have now : ∀ {α : Type} (g : VatRec → α) (_ : ∀ x, g x.apartLoads = g x := by intro; rfl),
          g (t.vat v) = g ((s.vat v).beginSwap w todo stipple tables r) := fun g hg => by rw [← hg, hvat, hg]
      have kept : ∀ {α : Type} (g : VatRec → α) (_ : ∀ x, g x.apartLoads = g x := by intro; rfl), g r = g (s.vat v) :=
        fun g hg => by rw [← hg, hr', hg]
      refine ⟨t, by rw [exec_swapRequest hs hr, accepted], now fun x => x.swap.active, now fun x => x.swap.epoch,
        now fun x => x.swap.fromPending, now fun x => x.swap.edition, (now fun x => x.swap.todo.length).trans htodo,
        now fun x => x.incomingEpoch, (now fun x => x.currentEpoch).trans (kept fun x => x.currentEpoch),
        (now fun x => x.active).trans (kept fun x => x.active), begun.suspended, ?_,
        (now fun x => x.tableNow).trans (kept fun x => x.tableNow), fun hn => ?_, begun.kept,
        fun u hu => begun.vats u (Fin.val_ne_of_ne hu), begun.others, begun.quiet, State.eq_of_apartSwap begun.device⟩
      · rw [now fun x => x.epochs]
        exact List.mem_cons_self
      · rw [now fun x => x.epochs]
        exact beginSwap_epochs _ _ _ _ _ _ hep hn
  case start =>
    intro s hn hq
    refine ⟨execEngravingStart_idle hn hq, fun e hl he => ?_⟩
    have waiting := (List.mem_filter.mp (argMin_mem _ he)).2
    have begun := startEngraving_begun (e := e) (s := { s with engQueue := s.engQueue.erase e })
      fun x hx => grantable_engraving waiting hx
    have read : (readEngraved e { s with engQueue := s.engQueue.erase e }).1 = (readEngraved e s).1 :=
      (ReadsAlike.mk rfl rfl fun _ => rfl : ReadsAlike s { s with engQueue := s.engQueue.erase e }).readEngraved rfl rfl
    have run := execEngravingStart_grant hn hq hl he
    generalize startEngraving e { s with engQueue := s.engQueue.erase e } = t at begun run
    refine ⟨t, run, begun.queue, ?_, fun p hp => begun.others p (Fin.val_ne_of_ne hp),
      fun v hv => begun.vats v hv, begun.quiet, ?_⟩
    · obtain ⟨r, hr, hplate, hheld, hnew⟩ := begun.engraving
      rw [read] at hnew
      exact ⟨r, hr, hplate, hheld, hnew⟩
    · exact State.eq_of_apartSwap begun.device
  case bite =>
    intro p seen s
    refine ⟨execBite_idle, fun e line rest outside hout he hl hh hp => ?_⟩
    subst hout
    refine ⟨fun paid done u hpulsed hpay => ?_, fun hpulsed hpulses => ⟨fun ha => ?_, fun ha => ?_⟩,
      fun hpulsed hpulses ha => execBite_refused he hl hh hp hpulsed hpulses ha, fun hpulsed hpulses ha => ?_⟩
    · obtain ⟨run, set⟩ := execBite_pulp (seen := seen) he hl hh hp hpulsed hpay
      obtain ⟨engraving, own, others, device⟩ := set.outcome
      exact ⟨_, run, engraving, own, others, set.gov_eq, by rw [set.gov_eq]; exact device⟩
    · exact (execBite_pulse he hl hh hp hpulsed hpulses).trans (by rw [ha]; rfl)
    · have run := execBite_pulse (seen := seen) he hl hh hp hpulsed hpulses
      rw [if_pos ha] at run
      exact ⟨_, run, (updEng_set he rfl fun x => { x with pulses := e.pulses - 1 }).outcome⟩
    · have run := execBite_admitted (seen := seen) he hl hh hp hpulsed hpulses ha
      refine ⟨fun hb => ?_, fun hb hlim => ?_, fun row col hb hlim hs hc hf => ?_⟩
      · exact ⟨_, run.trans (if_pos hb), (toCheck_dropLine he rfl).outcome⟩
      · exact ⟨_, run.trans ((if_neg hb).trans (if_pos hlim)),
          (updEng_set he rfl fun x => { x with bites := e.bites + 1 }).outcome⟩
      · obtain ⟨t, r, run, spare, hr, device⟩ := execBite_spare he hl hh hp hpulsed hpulses ha hb hlim hs hc hf
        exact ⟨t, run, ⟨r, spare.engraving, hr⟩, spare.mapped, spare.kept,
          fun q hq => spare.others q (Fin.val_ne_of_ne hq), device⟩
  case check =>
    intro p errs s
    refine ⟨execEngravingCheck_idle, fun e x1 x2 bad he hh hl hp hx hbad => ?_⟩
    subst hbad
    refine ⟨execEngravingCheck_phase he, fun hph hb => ?_, fun hph hb => ?_, fun n hph hb hs hn hf => ?_⟩
    · obtain ⟨t, run, woken⟩ := execEngravingCheck_passed he hh hl hp hx hph hb
      exact ⟨t, run, woken.engraving, woken.own, woken.bank, fun q hq => woken.others q (Fin.val_ne_of_ne hq), woken.device⟩
    · obtain ⟨t, run, engraving, ledger, others, device⟩ := execEngravingCheck_repeats he hh hl hp hx hph hb
      exact ⟨t, run, engraving, ledger, fun q hq => others q (Fin.val_ne_of_ne hq), device⟩
    · obtain ⟨t, r, run, spare, verify, device⟩ := execEngravingCheck_spare he hh hl hp hx hph hb hs hn hf
      exact ⟨t, r, run, spare.engraving, verify, spare.mapped, fun q hq => spare.others q (Fin.val_ne_of_ne hq), device⟩
  case done =>
    intro p errs s
    refine ⟨execEngravingDone_idle, fun e c he hc hh hl hv hp => ⟨fun hn => ?_, fun v hvat ha hep hr hi hload => ?_⟩⟩
    · obtain ⟨t, run, ended, left, device⟩ := execEngravingDone_noSwap (errs := errs) he hc hh hl hv hp hn
      exact ⟨t, run, ended.engraving, left.verified.centres, left.verified.driftAge, left.verified.passes, left.own, left.up,
        left.verified.verifyTemp, left.holds.codes, left.holds.codebook, left.holds.fullScaleShift, left.holds.epoch,
        left.refresh, left.inPlace, left.live, ended.plates, fun q hq => ended.others q (Fin.val_ne_of_ne hq), device⟩
    · exact execEngravingDone_waits he hc hh hl hv hp hvat ha hep hr hi hload
  case pulp =>
    intro p s
    refine ⟨execPlatePulpDone_idle, fun e paid done u he hph hh hp hpay => ?_⟩
    cases hdone : done with
    | false =>
      have set := payPulses_set he hpay
      obtain ⟨engraving, own, others, device⟩ := set.outcome
      have run := execPlatePulpDone_run he hph hh hp hpay
      rw [if_neg (by simp [hdone])] at run
      subst hdone
      exact ⟨_, run, set.gov_eq, fun _ => ⟨engraving, own, others, by rw [set.gov_eq]; exact device⟩, fun h => nomatch h⟩
    | true =>
      obtain ⟨t, run, gov, left⟩ := execPlatePulpDone_paid he hph hh hp hpay hdone
      refine ⟨t, run, gov, fun h => (nomatch h), fun _ hn => ?_⟩
      obtain ⟨ended, left⟩ := left hn
      exact ⟨ended.engraving, left.refresh, left.swapTarget, left.target,
        fun h => ⟨(left.pulped h).state, (left.pulped h).fullScaleShift, (left.pulped h).codebook⟩, ended.plates,
        fun q hq => ended.others q (Fin.val_ne_of_ne hq), ended.device⟩

end Sys2Proof.Settled
end

section
/-! SUPPORT. A replacement that loads a row group from a poisoned staged section (R153, R284, R439 step 7). -/

namespace Sys2Proof.Machine

/-- Press 2 engages for press 0, whose valid row group was loaded from a staged section of one word, which is poisoned. -/
def poisonedReload : State :=
  { presses := [(0, { state := .retiring, vat := some 0, vatPress := 0, replacement := some 2
                      macros := [(0, { valid := 1, records := [(0, { staged := some (0, 0) })] })] }),
      (2, { state := .engaging, vat := some 0, vatPress := 0, replaces := some 0, engagingFor := some 0 })]
    vats := [(0, { state := .serving, quotaBase := 65536, quotaPages := 1, stagingPages := 1
                   active := some { digest := 0, isProtected := false, editionCount := 1, pages := 1, held := [0]
                                    sections := [{ type := 5, edition := 0, press := 0, unit := 0, param0 := 0, param1 := 0
                                                   body := List.replicate 8 0 }] } })]
    hubs := { map := [(65536, { state := .owned, use := .staging })], poison := [(256 * 65536, true)] } }

/-- The free values drawn when a command has ended. -/
def drawnAfter (o : Out) : Nat :=
  match o with
  | .next t => t.free
  | _ => 0

/-- The read of the poisoned section draws a free value for each of its bytes. -/
theorem poisonedReload_draws : drawnAfter (exec (.engageCheckDone 2 ⟨true, [], []⟩) poisonedReload) = 8 := by
  decide +kernel

end Sys2Proof.Machine

namespace Sys2Proof.Settled

open Sys2Proof.Machine

/-- Refutes O17: the second clause lists what the check of a spare may change, and the free values drawn are not listed; but
a row group whose staged source holds a poisoned word is read as free bytes (R284) when the replacement loads it. -/
theorem not_spareEngages : ¬ Obligations.SpareEngages := by
  intro h
  have checked := h.2.1 2 0 [] poisonedReload (by decide +kernel) (by decide +kernel) (by decide +kernel)
    (by decide +kernel) (by decide +kernel)
  obtain ⟨t, ran, -, -, -, -, -, frame⟩ := checked
  have drawn : t.free = 8 := by
    rw [← poisonedReload_draws, ran]
    rfl
  have kept : t.free = poisonedReload.free := (congrArg State.free frame :)
  exact absurd (drawn.symm.trans kept) (by decide)

end Sys2Proof.Settled

end

section
/-! SUPPORT. A change of one slice bank: what it leaves alone, and the events raised with it. -/

namespace Sys2Proof.Safety

open Sys2Proof.Machine

/-- What is logged up to a state is logged up to every state with the same events (R398). -/
theorem Logged.to_events {s t t' : State} {code : BitVec 16} {press unit vat : Option Nat} {detail : List Byte}
    (h : Logged s t code press unit vat detail) (e : t'.events = t.events) : Logged s t' code press unit vat detail := by
  unfold Logged at h ⊢
  rw [e]
  exact h

end Sys2Proof.Safety

namespace Sys2Proof.Machine

variable {s t : State} {p b : Nat} {y : Bank}

/-- Between s and t bank b of press p became y: no other bank, no other press, and of the rest of the device only the
events have changed. -/
structure BankChanged (p b : Nat) (y : Bank) (s t : State) : Prop where
  bank : (t.press p).bank b = y
  banks : ∀ a, a ≠ b → (t.press p).bank a = (s.press p).bank a
  others : ∀ q, q ≠ p → t.press q = s.press q
  device : t = { s with presses := t.presses, events := t.events }

/-- Between s and t bank b of press p became y, and nothing else has changed but the events. -/
structure BankSet (p b : Nat) (y : Bank) (s t : State) : Prop extends BankChanged p b y s t where
  press : t.press p = { s.press p with banks := (t.press p).banks }

theorem BankSet.refl (p b : Nat) (s : State) : BankSet p b ((s.press p).bank b) s s :=
  ⟨⟨rfl, fun _ _ => rfl, fun _ _ => rfl, rfl⟩, rfl⟩

theorem BankChanged.updPress (h : BankChanged p b y s t) {f : PressRec → PressRec}
    (hf : (f (t.press p)).banks = (t.press p).banks) : BankChanged p b y s (t.updPress p f) where
  bank := by
    rw [State.press_updPress, if_pos rfl, PressRec.bank, hf]
    exact h.bank
  banks a ha := by
    rw [State.press_updPress, if_pos rfl, PressRec.bank, hf]
    exact h.banks a ha
  others q hq := by rw [State.press_updPress, if_neg hq, h.others q hq]
  device := by
    rw [h.device]
    rfl

theorem BankSet.updBank (h : BankSet p b y s t) (f : Bank → Bank) : BankSet p b (f y) s (t.updBank p b f) where
  bank := by rw [State.press_updBank, if_pos rfl, PressRec.bank_updBank, if_pos rfl, h.bank]
  banks a ha := by rw [State.press_updBank, if_pos rfl, PressRec.bank_updBank, if_neg ha, h.banks a ha]
  others q hq := by rw [State.press_updBank, if_neg hq, h.others q hq]
  device := by
    rw [h.device]
    rfl
  press := by
    rw [State.press_updBank, if_pos rfl, h.press]
    rfl

theorem BankSet.raise (h : BankSet p b y s t) (c : BitVec 16) (i u v : Option Nat) (d : List Byte) :
    BankSet p b y s (raise c i u v d t) :=
  ⟨⟨h.bank, h.banks, h.others, by rw [raise_frame, h.device]⟩, h.press⟩

/-- One change of the bank after another. -/
theorem BankChanged.trans {u : State} {z : Bank} (h : BankChanged p b y s t) (h' : BankChanged p b z t u) :
    BankChanged p b z s u where
  bank := h'.bank
  banks a ha := (h'.banks a ha).trans (h.banks a ha)
  others q hq := (h'.others q hq).trans (h.others q hq)
  device := by rw [h'.device, h.device]

theorem BankSet.trans {u : State} {z : Bank} (h : BankSet p b y s t) (h' : BankSet p b z t u) : BankSet p b z s u :=
  ⟨h.toBankChanged.trans h'.toBankChanged, by rw [h'.press, h.press]⟩

/-- Of the press, all but its banks is as before. -/
theorem BankSet.press_eq (h : BankSet p b y s t) {α : Type} (g : PressRec → α)
    (hg : ∀ r l, g { r with banks := l } = g r := by intros; rfl) : g (t.press p) = g (s.press p) := by
  rw [h.press, hg]

theorem BankSet.pressVat (h : BankSet p b y s t) : t.pressVat p = s.pressVat p :=
  h.press_eq fun r => r.vat.map Fin.val

theorem BankSet.eventLog (h : BankSet p b y s t) (q : Nat) : (t.press p).eventLog q = (s.press p).eventLog q :=
  h.press_eq fun r => r.eventLog q

/-- Where no event was raised, presses alone have changed. -/
theorem BankChanged.quiet (h : BankChanged p b y s t) (he : t.events = s.events) : t = { s with presses := t.presses } := by
  have device := h.device
  rw [he] at device
  exact device

end Sys2Proof.Machine

end

section
/-! SUPPORT. Slices that fail (R99 to R104): what becomes of their bank. -/

namespace Sys2Proof.Machine

open Safety

variable {s t : State} {p b j cause : Nat} {x y : Bank}

/-! ## A slice that the spare replaces -/

/-- Slice j of a bank has failed. -/
def Bank.withFailed (x : Bank) (j : Nat) : Bank :=
  { x with
    sliceFailed := tput false x.sliceFailed j true, sliceFailures := satInc x.sliceFailures
    pendingTrim := tput none x.pendingTrim j none, failing := x.failing.filter (· ≠ j) }

/-- The spare slice of a bank stands in for slice j (R102). -/
def Bank.substitute (x : Bank) (j : Nat) : Bank :=
  { x.withFailed j with substituted := BitVec.ofNat 8 j, state := .degraded, shadowActive := false }

/-- A healthy spare that is free takes the place of a slice that fails (R101, R102). -/
theorem sliceFails_substitutes (hx : (s.press p).bank b = x) (hs : x.spareFailed = false) (hf : x.substituted = 0xFF) :
    BankSet p b (x.substitute j) s (sliceFails p b j cause s) ∧
      Logged s (sliceFails p b j cause s) evSliceSubstituted (some p) (some b) (s.pressVat p)
        (leBytes 1 j ++ leBytes 1 cause) := by
  subst hx
  have failed := (BankSet.refl p b s).updBank (·.withFailed j)
  have taken := failed.updBank fun x =>
    { x with substituted := BitVec.ofNat 8 j, state := .degraded, shadowActive := false }
  have run : sliceFails p b j cause s = raise evSliceSubstituted (some p) (some b)
      ((s.updBank p b (·.withFailed j)).pressVat p) (leBytes 1 j ++ leBytes 1 cause)
      ((s.updBank p b (·.withFailed j)).updBank p b fun x =>
        { x with substituted := BitVec.ofNat 8 j, state := .degraded, shadowActive := false }) :=
    if_neg (by simp [hs, hf])
  rw [run, failed.pressVat]
  exact ⟨taken.raise .., (raise_logged ..).of_events rfl⟩

/-! ## A spare that fails -/

/-- The spare slice of a bank has failed (R99, R102). -/
def Bank.withSpareFailed (x : Bank) : Bank :=
  { x with
    spareFailed := true, sliceFailed := tput false x.sliceFailed 128 true, sliceFailures := satInc x.sliceFailures
    shadowActive := false, failing := x.failing.filter (· ≠ 128)
    state := if x.state = .working then .degraded else x.state }

/-- The spare slice of bank b of press p fails, and SPARE_SLICE_FAILED is raised (R102). -/
def failSpare (p b : Nat) (s : State) : State :=
  raise evSpareSliceFailed (some p) (some b) (s.pressVat p)
    (leBytes 1 (if ((s.press p).bank b).substituted = 0xFF then 1 else 2)) (s.updBank p b Bank.withSpareFailed)

theorem failSpare_set (p b : Nat) (s : State) : BankSet p b ((s.press p).bank b).withSpareFailed s (failSpare p b s) :=
  ((BankSet.refl p b s).updBank Bank.withSpareFailed).raise ..

theorem failSpare_logged (p b : Nat) (s : State) :
    Logged s (failSpare p b s) evSpareSliceFailed (some p) (some b) (s.pressVat p)
      (leBytes 1 (if ((s.press p).bank b).substituted = 0xFF then 1 else 2)) := (raise_logged ..).of_events rfl

/-- A spare that stands in for no slice fails alone; with one substituted its bank fails. -/
theorem spareFails_eq (p b : Nat) (s : State) :
    spareFails p b s =
      if ((s.press p).bank b).substituted = 0xFF then failSpare p b s else bankFails p b (failSpare p b s) := by
  have vat := ((BankSet.refl p b s).updBank Bank.withSpareFailed).pressVat
  simp only [failSpare, ← vat]
  rfl

/-- A bank that fails while the fallback converter is free waits for its check (R104). -/
theorem bankFails_waits (hw : ((s.press p).bank b).state = .degraded) (ht : (s.press p).refreshTarget.val ≠ b)
    (hc : (s.press p).fallback = .standby) (hf : (s.press p).fallbackFor = none) :
    bankFails p b s = (s.updBank p b fun x => { x with shadowActive := false }).updPress p fun r =>
      { r with fallbackFor := some (Fin.ofNat 17 b) } := by
  simp only [bankFails, hw, ht, hc, hf, Option.map_none, Option.isSome_none, reduceCtorEq, or_self, if_false,
    Bool.false_eq_true]

theorem Bank.withSpareFailed_state (hw : x.state = .working ∨ x.state = .degraded) :
    x.withSpareFailed.state = .degraded := by
  rcases hw with h | h <;> simp [Bank.withSpareFailed, h]

/-- The spare fails, and its bank waits for the fallback converter where the spare stood in for a slice (R102, R104). -/
theorem spareFails_outcome {b : Plate} (hx : (s.press p).bank b = x) (hw : x.state = .working ∨ x.state = .degraded)
    (hc : x.substituted = 0xFF ∨ ((s.press p).refreshTarget ≠ b ∧ (s.press p).fallback = .standby ∧
      (s.press p).fallbackFor = none)) :
    BankChanged p b x.withSpareFailed s (spareFails p b s) ∧
      Logged s (spareFails p b s) evSpareSliceFailed (some p) (some b) (s.pressVat p)
        (leBytes 1 (if x.substituted = 0xFF then 1 else 2)) ∧
      ((spareFails p b s).press p).fallbackFor =
        if x.substituted = 0xFF then (s.press p).fallbackFor else some b := by
  subst hx
  have failed := failSpare_set p b s
  have logged := failSpare_logged p b s
  rw [spareFails_eq]
  by_cases hs : ((s.press p).bank b).substituted = 0xFF
  · simp only [if_pos hs] at logged ⊢
    exact ⟨failed.toBankChanged, logged, failed.press_eq PressRec.fallbackFor⟩
  · obtain ⟨target, standby, free⟩ := hc.resolve_left hs
    have waits := bankFails_waits (by rw [failed.bank, Bank.withSpareFailed_state hw])
      (by rw [failed.press_eq PressRec.refreshTarget]; exact Fin.val_ne_of_ne target)
      ((failed.press_eq PressRec.fallback).trans standby) ((failed.press_eq PressRec.fallbackFor).trans free)
    simp only [if_neg hs, waits] at logged ⊢
    exact ⟨(failed.updBank fun x => { x with shadowActive := false }).toBankChanged.updPress rfl, logged, by simp⟩

end Sys2Proof.Machine

end

section
/-! SUPPORT. DWELL_END (R97, R98, R139, R140): the trim of the shadowed slice, and the end of a round. -/

namespace Sys2Proof.Machine

open Safety

variable {s t : State} {p b : Nat} {x y : Bank}

/-! ## The end of a round -/

/-- A bank with the figures of its round, and the round's sums cleared (R139). -/
def Bank.roundFigures (x : Bank) : Bank :=
  { x with
    rounds := satInc x.rounds
    convMse := BitVec.ofNat 32 (min (x.roundDiff2 * 256 / max 1 x.roundN) (2 ^ 32 - 1))
    convSignal := BitVec.ofNat 32 (min (x.roundSquare / max 1 x.roundN) (2 ^ 32 - 1))
    roundN := 0, roundDiff2 := 0, roundSquare := 0 }

/-- A bank whose calibration round has completed (R139, R140). -/
def Bank.roundEnded (ratio : Nat) (x : Bank) : Bank :=
  { x.roundFigures with
    coarseRounds := if x.roundSquare < ratio * x.roundDiff2 then satInc x.coarseRounds else x.coarseRounds }

/-- Between s and t the figures of a round of bank b of press p, whose sums were those of x, were found too coarse for the
scale or not (R140). -/
structure CoarseRaised (p b : Nat) (x : Bank) (s t : State) : Prop where
  coarse : x.roundSquare < s.settings.coarseRatio.toNat * x.roundDiff2 →
    Logged s t evScaleCoarse (some p) (some b) (s.pressVat p)
      (leBytes 1 ((s.press p).eventLog b) ++ [0] ++ leBytes 2 s.settings.coarseRatio.toNat)
  fine : s.settings.coarseRatio.toNat * x.roundDiff2 ≤ x.roundSquare → t.events = s.events

/-- A round ends with its figures; one whose signal is too small raises SCALE_COARSE (R139, R140). -/
theorem BankSet.endRound (h : BankSet p b y s t) (he : t.events = s.events) :
    BankSet p b (y.roundEnded s.settings.coarseRatio.toNat) s (endRound p b t) ∧
      CoarseRaised p b y s (endRound p b t) := by
  have settings : t.settings = s.settings := (congrArg State.settings h.device :)
  have closed := h.updBank Bank.roundFigures
  have counted := closed.updBank fun x => { x with coarseRounds := satInc x.coarseRounds }
  have run : Machine.endRound p b t =
      if y.roundSquare < s.settings.coarseRatio.toNat * y.roundDiff2 then
        Machine.raise evScaleCoarse (some p) (some b) (s.pressVat p)
          (leBytes 1 ((s.press p).eventLog b) ++ [0] ++ leBytes 2 s.settings.coarseRatio.toNat)
          ((t.updBank p b Bank.roundFigures).updBank p b fun x => { x with coarseRounds := satInc x.coarseRounds })
      else t.updBank p b Bank.roundFigures := by
    rw [← closed.pressVat, ← closed.eventLog, ← h.bank, ← settings]
    rfl
  rw [run, Bank.roundEnded]
  by_cases hc : y.roundSquare < s.settings.coarseRatio.toNat * y.roundDiff2
  · rw [if_pos hc, if_pos hc]
    exact ⟨counted.raise .., fun _ => (raise_logged ..).of_events he.symm, fun hf => absurd hc (Nat.not_lt.mpr hf)⟩
  · rw [if_neg hc, if_neg hc]
    exact ⟨closed, fun hc' => absurd hc' hc, fun _ => he⟩

/-! ## The end of a dwell -/

/-- A bank whose dwell is over, at its next column (R97, R98). -/
def Bank.dwelt (x : Bank) (goal : Nat) : Bank :=
  { x with
    dwellN := 0, dwellDiff := 0, dwellProd := 0, dwellSquare := 0, dwellGoal := goal, mismatches := 0
    shadowColumn := BitVec.ofNat 16 ((x.shadowColumn.toNat + 1) % 512) }

/-- The slice that the spare shadows. -/
def Bank.shadowed (x : Bank) : Nat := x.shadowColumn.toNat / 4

/-- The trim that R98 gives the shadowed slice. -/
def Bank.movedTrim (x : Bank) : Int × Int :=
  let now := unpackTrim ((tget none x.pendingTrim x.shadowed).getD (tget 0 x.sliceTrim x.shadowed))
  (now.1 + (trimStep x).1, now.2 + (trimStep x).2)

/-- The dwell at bank b of press p is over, and with the last column its round. -/
def dwellOver (p b : Nat) (s : State) : State :=
  let t := s.updBank p b fun x => x.dwelt (s.press p).cfg.shadowDwell.toNat
  if ((s.press p).bank b).shadowColumn.toNat = 511 then endRound p b t else t

/-- The trim that x gives its shadowed slice waits in y for the fence (R98). -/
def Bank.withPending (x y : Bank) : Bank :=
  { y with pendingTrim := tput none y.pendingTrim x.shadowed (some (packTrim x.movedTrim)) }

/-- The trim of the slice that x shadows moves in y by its step, if it has one (R98). -/
def Bank.withStep (x y : Bank) : Bank :=
  { y with pendingTrim := if trimStep x = (0, 0) then y.pendingTrim else (x.withPending y).pendingTrim }

theorem Bank.withStep_pendingTrim (x y : Bank) (k : Nat) :
    tget none (x.withStep y).pendingTrim k =
      if k = x.shadowed ∧ trimStep x ≠ (0, 0) then some (packTrim x.movedTrim) else tget none y.pendingTrim k := by
  by_cases h : trimStep x = (0, 0)
  · simp [Bank.withStep, h]
  · simp [Bank.withStep, Bank.withPending, h, tget_tput]

theorem execDwellEnd_idle {p : Press} {b : Plate} (hx : (s.press p).bank b = x)
    (h : x.shadowActive = false ∨ x.dwellN < x.dwellGoal ∨ x.dwellN = 0) : execDwellEnd p b s = .next s := by
  subst hx
  exact if_pos (by simpa using h)

/-- A dwell that is over moves the trim of the shadowed slice, or fails the slice (R98, R101). -/
theorem execDwellEnd_run {p : Press} {b : Plate} (hx : (s.press p).bank b = x) (ha : x.shadowActive = true)
    (hg : x.dwellGoal ≤ x.dwellN) (hn : x.dwellN ≠ 0) :
    execDwellEnd p b s =
      if execDwellEnd.fitsTrim x.movedTrim then
        .next (if trimStep x = (0, 0) then dwellOver p b s else (dwellOver p b s).updBank p b x.withPending)
      else .next (sliceFails p b x.shadowed 1 (dwellOver p b s)) := by
  subst hx
  exact if_neg (by simp [ha, hn, Nat.not_lt.mpr hg])

theorem fitsTrim_iff (w : Int × Int) :
    execDwellEnd.fitsTrim w = true ↔ -128 ≤ w.1 ∧ w.1 ≤ 127 ∧ -128 ≤ w.2 ∧ w.2 ≤ 127 := by
  simp [execDwellEnd.fitsTrim]

/-- Before the last column the bank alone goes on. -/
theorem dwellOver_column (hx : (s.press p).bank b = x) (hc : x.shadowColumn.toNat ≠ 511) :
    BankSet p b (x.dwelt (s.press p).cfg.shadowDwell.toNat) s (dwellOver p b s) ∧
      (dwellOver p b s).events = s.events := by
  subst hx
  rw [dwellOver, if_neg hc]
  exact ⟨(BankSet.refl p b s).updBank fun x => x.dwelt (s.press p).cfg.shadowDwell.toNat, rfl⟩

/-- The last column ends the round. -/
theorem dwellOver_round (hx : (s.press p).bank b = x) (hc : x.shadowColumn.toNat = 511) :
    BankSet p b ((x.dwelt (s.press p).cfg.shadowDwell.toNat).roundEnded s.settings.coarseRatio.toNat) s (dwellOver p b s) ∧
      CoarseRaised p b x s (dwellOver p b s) := by
  subst hx
  rw [dwellOver, if_pos hc]
  have dwelt := (BankSet.refl p b s).updBank fun x => x.dwelt (s.press p).cfg.shadowDwell.toNat
  obtain ⟨ended, raised⟩ := dwelt.endRound rfl
  exact ⟨ended, raised.coarse, raised.fine⟩

/-- A bank whose dwell is over, at the last column also its round. -/
def Bank.dwellEnded (x : Bank) (goal ratio : Nat) : Bank :=
  if x.shadowColumn.toNat = 511 then (x.dwelt goal).roundEnded ratio else x.dwelt goal

/-- What the end of a dwell does at every column. -/
theorem Bank.dwellEnded_dwelt (x : Bank) (goal ratio : Nat) :
    let y := x.dwellEnded goal ratio
    y.shadowColumn = BitVec.ofNat 16 ((x.shadowColumn.toNat + 1) % 512) ∧ y.dwellN = 0 ∧ y.mismatches = 0 ∧
      y.dwellDiff = 0 ∧ y.dwellProd = 0 ∧ y.dwellSquare = 0 ∧ y.dwellGoal = goal ∧ y.sliceTrim = x.sliceTrim ∧
      y.pendingTrim = x.pendingTrim := by
  rw [Bank.dwellEnded]
  split <;> exact ⟨rfl, rfl, rfl, rfl, rfl, rfl, rfl, rfl, rfl⟩

theorem dwellOver_set (hx : (s.press p).bank b = x) :
    BankSet p b (x.dwellEnded (s.press p).cfg.shadowDwell.toNat s.settings.coarseRatio.toNat) s (dwellOver p b s) := by
  rw [Bank.dwellEnded]
  split
  · exact (dwellOver_round hx ‹_›).1
  · exact (dwellOver_column hx ‹_›).1

/-- A trim that stays in its range moves by its step and waits for the fence (R98). -/
theorem execDwellEnd_trims {p : Press} {b : Plate} (hx : (s.press p).bank b = x) (ha : x.shadowActive = true)
    (hg : x.dwellGoal ≤ x.dwellN) (hn : x.dwellN ≠ 0) (hf : execDwellEnd.fitsTrim x.movedTrim = true) :
    ∃ t, execDwellEnd p b s = .next t ∧ t.events = (dwellOver p b s).events ∧
      BankSet p b (x.withStep (x.dwellEnded (s.press p).cfg.shadowDwell.toNat s.settings.coarseRatio.toNat)) s t := by
  have ended := dwellOver_set hx
  simp only [execDwellEnd_run hx ha hg hn, if_pos hf, Bank.withStep]
  split
  · exact ⟨_, rfl, rfl, ended⟩
  · exact ⟨_, rfl, rfl, ended.updBank x.withPending⟩

/-- A trim that leaves its range fails the slice, and a healthy free spare takes its place (R101, R102). -/
theorem execDwellEnd_fails {p : Press} {b : Plate} (hx : (s.press p).bank b = x) (ha : x.shadowActive = true)
    (hg : x.dwellGoal ≤ x.dwellN) (hn : x.dwellN ≠ 0) (hf : execDwellEnd.fitsTrim x.movedTrim = false)
    (hc : x.shadowColumn.toNat ≠ 511) (hs : x.spareFailed = false) (hu : x.substituted = 0xFF) :
    ∃ t, execDwellEnd p b s = .next t ∧
      BankSet p b ((x.dwelt (s.press p).cfg.shadowDwell.toNat).substitute x.shadowed) s t ∧
      Logged s t evSliceSubstituted (some p) (some b) (s.pressVat p) (leBytes 1 x.shadowed ++ leBytes 1 1) := by
  obtain ⟨ended, events⟩ := dwellOver_column hx hc
  obtain ⟨taken, logged⟩ := sliceFails_substitutes (j := x.shadowed) (cause := 1) ended.bank hs hu
  rw [execDwellEnd_run hx ha hg hn, if_neg (by simp [hf])]
  exact ⟨_, rfl, ended.trans taken, (ended.pressVat ▸ logged).of_events events.symm⟩

end Sys2Proof.Machine

end

section
/-! SUPPORT. SPARE_SELF_CHECK, BANK_POWER_DOWN and SAT_WINDOW_END (R96, R99, R137). -/

namespace Sys2Proof.Machine

open Safety

variable {s : State} {p : Press} {b : Plate} {x : Bank} {errs : List Int}

/-! ## The self-check of the spare slice -/

/-- The reference levels that a self-check finds out of limit (R99). -/
def levelsOut (errs : List Int) : List Nat :=
  (List.range 5).filter fun i => decide (lget 0 errs i < -8 ∨ 8 < lget 0 errs i)

/-- A bank whose spare slice has been checked (R99). -/
def Bank.checked (errs : List Int) (x : Bank) : Bank := { x with badLevels := levelsOut errs, checkDue := false }

theorem execSpareSelfCheck_idle (hx : (s.press p).bank b = x)
    (h : x.checkDue = false ∨ x.spareFailed = true ∨ (x.state ≠ .working ∧ x.state ≠ .degraded) ∨
      (s.press p).clocked = false) : execSpareSelfCheck p b errs s = .next s := by
  subst hx
  exact if_pos (by simpa using h)

/-- A due check notes the levels out of limit; one that was out before fails the spare (R99). -/
theorem execSpareSelfCheck_run (hx : (s.press p).bank b = x) (hd : x.checkDue = true) (hf : x.spareFailed = false)
    (hw : x.state = .working ∨ x.state = .degraded) (hc : (s.press p).clocked = true) :
    execSpareSelfCheck p b errs s = if ∃ i ∈ levelsOut errs, i ∈ x.badLevels
      then .next (spareFails p b (s.updBank p b (Bank.checked errs))) else .next (s.updBank p b (Bank.checked errs)) := by
  subst hx
  have due : ¬((!((s.press p).bank b).checkDue) = true ∨ ((s.press p).bank b).spareFailed = true ∨
      (!decide (((s.press p).bank b).state = .working ∨ ((s.press p).bank b).state = .degraded)) = true ∨
      (!(s.press p).clocked) = true) := by
    simp [hd, hf, hw, hc]
  have twice : ((levelsOut errs).any fun i => ((s.press p).bank b).badLevels.contains i) = true ↔
      ∃ i ∈ levelsOut errs, i ∈ ((s.press p).bank b).badLevels := by simp
  simp only [← twice]
  exact if_neg due

/-- A check that finds no level out of limit again changes its bank alone (R99). -/
theorem execSpareSelfCheck_passes (hx : (s.press p).bank b = x) (hd : x.checkDue = true) (hf : x.spareFailed = false)
    (hw : x.state = .working ∨ x.state = .degraded) (hc : (s.press p).clocked = true)
    (hl : ∀ i ∈ levelsOut errs, i ∉ x.badLevels) :
    ∃ t, execSpareSelfCheck p b errs s = .next t ∧ BankSet p b (x.checked errs) s t ∧ t.events = s.events := by
  rw [execSpareSelfCheck_run hx hd hf hw hc, if_neg fun ⟨i, hi, again⟩ => hl i hi again]
  exact ⟨_, rfl, hx ▸ (BankSet.refl p b s).updBank (Bank.checked errs), rfl⟩

/-- A level out of limit for the second time fails the spare (R99, R102). -/
theorem execSpareSelfCheck_fails (hx : (s.press p).bank b = x) (hd : x.checkDue = true) (hf : x.spareFailed = false)
    (hw : x.state = .working ∨ x.state = .degraded) (hc : (s.press p).clocked = true)
    (hl : ∃ i ∈ levelsOut errs, i ∈ x.badLevels) (hfree : x.substituted = 0xFF ∨ ((s.press p).refreshTarget ≠ b ∧
      (s.press p).fallback = .standby ∧ (s.press p).fallbackFor = none)) :
    ∃ t, execSpareSelfCheck p b errs s = .next t ∧ BankChanged p b (x.checked errs).withSpareFailed s t ∧
      Logged s t evSpareSliceFailed (some p) (some b) (s.pressVat p)
        (leBytes 1 (if x.substituted = 0xFF then 1 else 2)) ∧
      (t.press p).fallbackFor = if x.substituted = 0xFF then (s.press p).fallbackFor else some b := by
  have checked : BankSet p b (x.checked errs) s _ := hx ▸ (BankSet.refl p b s).updBank (Bank.checked errs)
  rw [execSpareSelfCheck_run hx hd hf hw hc, if_pos hl]
  have events : s.events = (s.updBank p b (Bank.checked errs)).events := rfl
  generalize s.updBank p b (Bank.checked errs) = u at checked events
  have outcome := spareFails_outcome (p := p) checked.bank hw
  rw [checked.press_eq PressRec.refreshTarget, checked.press_eq PressRec.fallback, checked.press_eq PressRec.fallbackFor,
    checked.pressVat] at outcome
  obtain ⟨failed, logged, waits⟩ := outcome hfree
  exact ⟨_, rfl, checked.toBankChanged.trans failed, logged.of_events events, waits⟩

/-! ## Power-down -/

theorem execBankPowerDown_idle (h : (s.press p).cfg.powerDownEnable = false ∨ bankInvolved (s.press p) b = true) :
    execBankPowerDown p b s = .next s :=
  if_neg (by rcases h with h | h <;> simp [h])

theorem execBankPowerDown_run (he : (s.press p).cfg.powerDownEnable = true) (hi : bankInvolved (s.press p) b = false) :
    execBankPowerDown p b s = .next (s.updBank p b fun x => { x with poweredDown := true }) :=
  if_pos (by simp [he, hi])

/-! ## The saturation window -/

/-- A bank whose saturation window has ended (R137). -/
def Bank.windowEnded (x : Bank) : Bank :=
  { x with
    clipCount := 0, windowConversions := 0
    satDriftWindows := if x.windowLimit < x.clipCount.toNat then satInc x.satDriftWindows else x.satDriftWindows }

theorem execSatWindowEnd_idle (hx : (s.press p).bank b = x)
    (h : x.windowConversions < x.windowGoal ∨ x.windowConversions = 0) : execSatWindowEnd p b s = .next s := by
  subst hx
  exact if_pos h

/-- A window that ends starts its counts again; above its limit it raises SAT_DRIFT (R137). -/
theorem execSatWindowEnd_run (hx : (s.press p).bank b = x) (hg : x.windowGoal ≤ x.windowConversions)
    (hn : x.windowConversions ≠ 0) : ∃ t, execSatWindowEnd p b s = .next t ∧ BankSet p b x.windowEnded s t ∧
      (x.windowLimit < x.clipCount.toNat → Logged s t evSatDrift (some p) (some b) (s.pressVat p)
        (leBytes 1 ((s.press p).eventLog b) ++ [0, 0, 0] ++ leBytes 4 x.windowLimit)) ∧
      (x.clipCount.toNat ≤ x.windowLimit → t.events = s.events) := by
  subst hx
  have cleared := (BankSet.refl p b s).updBank fun x => { x with clipCount := 0, windowConversions := 0 }
  have ended : ¬(((s.press p).bank b).windowConversions < ((s.press p).bank b).windowGoal ∨
      ((s.press p).bank b).windowConversions = 0) := by omega
  simp only [execSatWindowEnd]
  rw [if_neg ended, cleared.pressVat, cleared.eventLog, Bank.windowEnded]
  split
  · exact ⟨_, rfl, (cleared.updBank fun x => { x with satDriftWindows := satInc x.satDriftWindows }).raise ..,
      fun _ => (raise_logged ..).of_events rfl, fun h => by omega⟩
  · exact ⟨_, rfl, cleared, fun h => by omega, fun _ => rfl⟩

end Sys2Proof.Machine

end

section
/-! SUPPORT. FALLBACK_CHECK_DONE (R103 to R106): the fallback converter takes a bank over, or fails. -/

namespace Sys2Proof.Machine

open Safety

variable {s : State} {p : Press} {b : Plate} {errs : List Int}

/-! ## Refresh steps that wait -/

/-- A refresh step that waits takes the class of its press (R323). -/
theorem reclass_refresh {p : Nat} {e : EngReq} (he : e ∈ (reclass p s).engQueue) (hp : e.press.val = p)
    (hr : e.purpose = .refresh) : e.cls = refreshClass (s.press p) := by
  obtain ⟨x, -, rfl⟩ := List.mem_map.mp he
  split at hp
  · rename_i h
    rw [if_pos h]
  · rename_i h
    rw [if_neg h] at hr
    exact absurd ⟨hp, hr⟩ h

theorem reclass_frame (p : Nat) (s : State) : reclass p s = { s with engQueue := (reclass p s).engQueue } := rfl

/-- Only classes of waiting plates change. -/
theorem reclass_apartCls (p : Nat) (s : State) :
    ((reclass p s).engQueue.map fun e => { e with cls := 0 }) = s.engQueue.map fun e => { e with cls := 0 } := by
  rw [reclass, List.map_map]
  refine List.map_congr_left fun e _ => ?_
  rw [Function.comp_apply]
  split <;> rfl

/-! ## The converter takes a bank over -/

/-- A press none of whose banks waits for the fallback converter. -/
def PressRec.noneWaits (r : PressRec) : PressRec := { r with fallbackFor := none }

/-- A press whose bank b the fallback converter serves (R104). -/
def PressRec.withFallback (b : Plate) (r : PressRec) : PressRec :=
  { r with
    fallback := .active, fallbackBank := some b
    rotation := if r.rotation = .running then .priority else r.rotation }

/-- The device when the fallback converter has taken over bank b of press p (R104). -/
def fallbackServes (p : Press) (b : Plate) (s : State) : State :=
  ((s.updPress p PressRec.noneWaits).updPress p (PressRec.withFallback b)).updBank p b fun x =>
    { x with state := .fallback, parkSteps := 0 }

/-- Between s and t the fallback converter of press p took the place of bank b, and what waits to be refreshed there took the
class of its press (R104, R323). -/
structure FallbackTaken (p : Press) (b : Plate) (s t : State) : Prop where
  press : t.press p =
    ((s.press p).noneWaits.withFallback b).updBank b fun x => { x with state := .fallback, parkSteps := 0 }
  others : ∀ q : Press, q ≠ p → t.press q = s.press q
  refresh : ∀ e ∈ t.engQueue, e.press = p → e.purpose = .refresh → e.cls = refreshClass (t.press p)
  queue : (s.engQueue.map fun e => { e with cls := 0 }) = t.engQueue.map fun e => { e with cls := 0 }
  logged : Logged s t evBankFallback (some p) (some b) (s.pressVat p) (leBytes 1 ((s.press p).bank b).sliceFailed.length)
  device : t = { s with presses := t.presses, events := t.events, engQueue := t.engQueue }

theorem FallbackTaken.bank {t : State} (h : FallbackTaken p b s t) (a : Nat) :
    (t.press p).bank a =
      if a = b then { (s.press p).bank b with state := .fallback, parkSteps := 0 } else (s.press p).bank a := by
  rw [h.press, PressRec.bank_updBank]
  rfl

theorem fallbackServes_press (p : Press) (b : Plate) (s : State) :
    (fallbackServes p b s).press p =
      ((s.press p).noneWaits.withFallback b).updBank b fun x => { x with state := .fallback, parkSteps := 0 } := by
  simp only [fallbackServes, State.press_updBank, State.press_updPress, if_true]

theorem fallbackServes_others {q : Press} (hq : q ≠ p) : (fallbackServes p b s).press q = s.press q := by
  simp only [fallbackServes, State.press_updBank, State.press_updPress, if_neg (Fin.val_ne_of_ne hq)]

theorem fallbackServes_frame (p : Press) (b : Plate) (s : State) :
    fallbackServes p b s = { s with presses := (fallbackServes p b s).presses } := rfl

/-- BANK_FALLBACK is raised when the converter has taken over (R104). -/
theorem fallbackServes_taken (p : Press) (b : Plate) (s : State) :
    FallbackTaken p b s (raise evBankFallback (some p) (some b) (s.pressVat p)
      (leBytes 1 ((s.press p).bank b).sliceFailed.length) (reclass p (fallbackServes p b s))) := by
  have own := fallbackServes_press p b s
  have others : ∀ q : Press, q ≠ p → (fallbackServes p b s).press q = s.press q := fun _ => fallbackServes_others
  have frame := fallbackServes_frame p b s
  generalize fallbackServes p b s = u at own others frame
  have queue : u.engQueue = s.engQueue := (congrArg State.engQueue frame :)
  have events : u.events = s.events := (congrArg State.events frame :)
  exact {
    press := own
    others := others
    refresh := fun e he hp hr => reclass_refresh (s := u) he (congrArg Fin.val hp) hr
    queue := by rw [raise_engQueue, reclass_apartCls, queue]
    logged := (raise_logged ..).of_events events.symm
    device := by rw [raise_frame, reclass_frame, frame] }

/-! ## The converter fails -/

/-- The device when the fallback converter has failed its check for bank b of press p (R104). -/
def converterFailed (p : Press) (b : Plate) (errs : List Int) (s : State) : State :=
  raise evFallbackFailed (some p) (some b) (s.pressVat p) ((lpad 0 5 errs).flatMap fun e => leInt 2 e)
    (s.updPress p fun r => { r with fallback := .failed })

theorem converterFails_eq :
    execFallbackCheckDone.converterFails errs p b s = loseBank p b 2 (converterFailed p b errs s) := by
  have vat : (s.updPress p fun r => { r with fallback := .failed }).pressVat p = s.pressVat p := by
    simp [State.pressVat]
  rw [converterFailed, ← vat]
  rfl

/-- Between s and u the fallback converter of press p failed its check for bank b, and serves the bank that served says. -/
structure ConverterLost (p : Press) (b : Plate) (errs : List Int) (served : Option Plate) (s u : State) : Prop where
  failed : (u.press p).fallback = .failed
  waits : (u.press p).fallbackFor = none
  serves : (u.press p).fallbackBank = served
  logged : Logged s u evFallbackFailed (some p) (some b) (s.pressVat p) ((lpad 0 5 errs).flatMap fun e => leInt 2 e)
  others : ∀ q : Press, q ≠ p → u.press q = s.press q
  device : u = { s with presses := u.presses, events := u.events }

/-- The converter fails after the press has let go of the bank. -/
theorem converterFailed_lost {f : PressRec → PressRec} (hv : (f (s.press p)).vat = (s.press p).vat)
    (hf : (f (s.press p)).fallbackFor = none) :
    ConverterLost p b errs (f (s.press p)).fallbackBank s (converterFailed p b errs (s.updPress p f)) := by
  have vat : (s.updPress p f).pressVat p = s.pressVat p := by simp [State.pressVat, hv]
  have others : ∀ q : Press, q ≠ p → (converterFailed p b errs (s.updPress p f)).press q = s.press q := by
    intro q hq
    simp [converterFailed, Fin.val_ne_of_ne hq]
  rw [converterFailed, vat] at others ⊢
  exact ⟨by simp, by simp [hf], by simp, (raise_logged ..).of_events rfl, others, rfl⟩

/-! ## The check -/

/-- Every level is within 8 LSBs of its reference (R104). -/
theorem levelsGood_iff : (errs.all fun e => decide (-8 ≤ e ∧ e ≤ 8)) = true ↔ ∀ e ∈ errs, -8 ≤ e ∧ e ≤ 8 := by
  simp only [List.all_eq_true, decide_eq_true_eq]

theorem levelsGood_of_bad (h : ∃ e ∈ errs, e < -8 ∨ 8 < e) : (errs.all fun e => decide (-8 ≤ e ∧ e ≤ 8)) = false := by
  obtain ⟨e, he, hb⟩ := h
  exact List.all_eq_false.mpr ⟨e, he, by simp; omega⟩

/-- Without a bank that waits or is served, and while the bank served is served well, a check changes nothing. -/
theorem execFallbackCheckDone_idle (hf : (s.press p).fallbackFor = none)
    (h : (s.press p).fallbackBank = none ∨ ∀ e ∈ errs, -8 ≤ e ∧ e ≤ 8) : execFallbackCheckDone p errs s = .next s := by
  simp only [execFallbackCheckDone, hf]
  split
  · rfl
  · rename_i b hb
    exact if_pos (levelsGood_iff.mpr (h.resolve_left (by simp [hb])))

/-- A bank whose plate has become the refresh target is parked (R105). -/
theorem execFallbackCheckDone_parks (hf : (s.press p).fallbackFor = some b) (hg : ∀ e ∈ errs, -8 ≤ e ∧ e ≤ 8)
    (ht : (s.press p).refreshTarget = b) :
    execFallbackCheckDone p errs s = .next (parkBank p b (s.updPress p PressRec.noneWaits)) := by
  have target : ((s.updPress p PressRec.noneWaits).press p).refreshTarget = b := by
    rw [State.press_updPress, if_pos rfl]
    exact ht
  simp only [execFallbackCheckDone, hf, levelsGood_iff.mpr hg, Bool.not_true, Bool.false_eq_true, if_false]
  exact if_pos target

/-- The converter takes the place of a bank that waits for it (R104). -/
theorem execFallbackCheckDone_serves (hf : (s.press p).fallbackFor = some b) (hg : ∀ e ∈ errs, -8 ≤ e ∧ e ≤ 8)
    (ht : (s.press p).refreshTarget ≠ b) :
    ∃ t, execFallbackCheckDone p errs s = .next t ∧ FallbackTaken p b s t := by
  have target : ((s.updPress p PressRec.noneWaits).press p).refreshTarget ≠ b := by
    rw [State.press_updPress, if_pos rfl]
    exact ht
  have vat : (fallbackServes p b s).pressVat p = s.pressVat p := by
    rw [State.pressVat, fallbackServes_press]
    rfl
  have failed : (((fallbackServes p b s).press p).bank b).sliceFailed = ((s.press p).bank b).sliceFailed := by
    rw [fallbackServes_press, PressRec.bank_updBank, if_pos rfl]
    rfl
  have taken := fallbackServes_taken p b s
  rw [← vat, ← failed] at taken
  simp only [execFallbackCheckDone, hf, levelsGood_iff.mpr hg, Bool.not_true, Bool.false_eq_true, if_false]
  exact ⟨_, if_neg target, taken⟩

/-- A converter that is out of limit is lost to the bank that waits for it, or to the one that it serves (R104, R106). -/
theorem execFallbackCheckDone_fails (h : (s.press p).fallbackFor = some b ∨
      ((s.press p).fallbackFor = none ∧ (s.press p).fallbackBank = some b)) (hb : ∃ e ∈ errs, e < -8 ∨ 8 < e) :
    ∃ u, execFallbackCheckDone p errs s = .next (loseBank p b 2 u) ∧ ConverterLost p b errs
      (if (s.press p).fallbackFor = none then none else (s.press p).fallbackBank) s u := by
  have bad := levelsGood_of_bad hb
  rcases h with hf | ⟨hf, hs⟩
  · simp only [execFallbackCheckDone, hf, bad, Bool.not_false, if_true, converterFails_eq, reduceCtorEq, if_false]
    exact ⟨_, rfl, converterFailed_lost (f := PressRec.noneWaits) rfl rfl⟩
  · simp only [execFallbackCheckDone, hf, hs, bad, Bool.false_eq_true, if_false, if_true, converterFails_eq]
    exact ⟨_, rfl, converterFailed_lost (f := fun r => { r with fallbackBank := none }) rfl hf⟩

end Sys2Proof.Machine

end

section
/-! SUPPORT. Slices, spare slices and the fallback converter: O57, from the outcomes above. -/

namespace Sys2Proof.Settled

open Sys2Proof.Machine Sys2Proof.Safety

/-- Settles O57: each command by its outcomes, a bank and the events being all that most of them change. -/
theorem sliceBanks : Obligations.SliceBanks := by
  refine ⟨?dwell, ?selfCheck, ?fallback, ?powerDown⟩
  case dwell =>
    intro p b s x hx
    refine ⟨execDwellEnd_idle hx.symm, fun col i now new ha hg hn hcol hi hnow hnew => ?_⟩
    subst hcol hi hnow
    have moved : new = x.movedTrim := hnew
    subst moved
    refine ⟨fun h1 h2 h3 h4 => ?_, fun hout hc hs hu => ?_⟩
    · have fits := (fitsTrim_iff x.movedTrim).mpr ⟨h1, h2, h3, h4⟩
      obtain ⟨t, run, events, set⟩ := execDwellEnd_trims hx.symm ha hg hn fits
      obtain ⟨column, n, mismatches, diff, prod, square, goal, trim, pending⟩ :=
        x.dwellEnded_dwelt (s.press p).cfg.shadowDwell.toNat s.settings.coarseRatio.toNat
      refine ⟨t, _, run, set.bank.symm, column, n, mismatches, diff, prod, square, goal, trim, fun k => ?_, fun hc => ?_,
        fun hc => ?_, set.banks, set.press, fun q hq => set.others q (Fin.val_ne_of_ne hq), set.device⟩
      · rw [Bank.withStep_pendingTrim, pending]
        rfl
      · rw [Bank.dwellEnded, if_neg hc, events]
        exact ⟨rfl, rfl, (dwellOver_column hx.symm hc).2⟩
      · obtain ⟨-, raised⟩ := dwellOver_round hx.symm hc
        rw [Bank.dwellEnded, if_pos hc, events]
        exact ⟨rfl, rfl, rfl, rfl, fun coarse => ⟨if_pos coarse, (raised.coarse coarse).to_events events⟩, raised.fine⟩
    · have out : execDwellEnd.fitsTrim x.movedTrim = false := by
        rw [← Bool.not_eq_true, fitsTrim_iff]
        omega
      obtain ⟨t, run, set, logged⟩ := execDwellEnd_fails hx.symm ha hg hn out hc hs hu
      exact ⟨t, _, run, set.bank.symm, tget_tput_self .., rfl, rfl, rfl, rfl, logged, set.banks, set.press,
        fun q hq => set.others q (Fin.val_ne_of_ne hq), set.device⟩
  case selfCheck =>
    intro p b errs s x bad hx hbad
    subst hbad
    refine ⟨execSpareSelfCheck_idle hx.symm, fun hd hf hw hc => ⟨fun once => ?_, fun twice hfree => ?_⟩⟩
    · obtain ⟨t, run, set, quiet⟩ := execSpareSelfCheck_passes hx.symm hd hf hw hc once
      exact ⟨t, run, set.bank, set.banks, set.press, fun q hq => set.others q (Fin.val_ne_of_ne hq), set.quiet quiet⟩
    · obtain ⟨t, run, changed, logged, waits⟩ := execSpareSelfCheck_fails hx.symm hd hf hw hc twice hfree
      exact ⟨t, _, run, changed.bank.symm, rfl, tget_tput_self .., Bank.withSpareFailed_state hw, rfl, logged, waits,
        changed.banks, fun q hq => changed.others q (Fin.val_ne_of_ne hq), changed.device⟩
  case fallback =>
    intro p errs s
    refine ⟨execFallbackCheckDone_idle, fun b => ⟨execFallbackCheckDone_parks, fun hf hg ht => ?_, fun h hb => ?_⟩⟩
    · obtain ⟨t, run, taken⟩ := execFallbackCheckDone_serves hf hg ht
      have own : ∀ {α : Type} (g : PressRec → α), g (t.press p) = g _ := fun g => congrArg g taken.press
      exact ⟨t, run, own PressRec.fallback, own PressRec.fallbackBank, own PressRec.fallbackFor, own PressRec.rotation,
        (taken.bank b).trans (if_pos rfl), fun a ha => (taken.bank a).trans (if_neg ha), own PressRec.plates, taken.refresh,
        taken.queue, taken.logged, taken.others, taken.device⟩
    · obtain ⟨u, run, lost⟩ := execFallbackCheckDone_fails h hb
      exact ⟨u, run, lost.failed, lost.waits, lost.serves, lost.logged, lost.others, lost.device⟩
  case powerDown =>
    intro p b s x hx
    refine ⟨execBankPowerDown_idle, fun he hi => ?_, execSatWindowEnd_idle hx.symm, fun hg hn => ?_⟩
    · have down := (BankSet.refl p b s).updBank fun x => { x with poweredDown := true }
      exact ⟨_, execBankPowerDown_run he hi, by rw [hx]; exact down.bank, down.banks, down.press,
        fun q hq => down.others q (Fin.val_ne_of_ne hq), down.quiet rfl⟩
    · obtain ⟨t, run, set, drift, quiet⟩ := execSatWindowEnd_run hx.symm hg hn
      exact ⟨t, _, run, set.bank.symm, rfl, drift, quiet, set.banks, set.press,
        fun q hq => set.others q (Fin.val_ne_of_ne hq), set.device⟩

end Sys2Proof.Settled

end

section
/-! SUPPORT. The statistics units of the presses (R138): what a change of every bank of a press is for each bank, and what
debugStats leaves of the presses. -/

namespace Sys2Proof.Machine

variable {s t : State}

/-! ## Every bank of a press -/

/-- A function applied at each of a list of distinct places of a table. -/
theorem tget_foldl_tmod {α : Type} [DecidableEq α] {d : α} {l : List Nat} (hl : l.Nodup) (f : α → α) (m : Tab α) (i : Nat) :
    tget d (l.foldl (fun m q => tmod d m q f) m) i = if i ∈ l then f (tget d m i) else tget d m i := by
  induction l generalizing m with
  | nil => rfl
  | cons q l ih =>
    obtain ⟨hq, hl⟩ := List.nodup_cons.mp hl
    rw [List.foldl_cons, ih hl, tmod, tget_tput]
    by_cases hi : i = q
    · subst hi
      simp [hq]
    · simp [hi]

theorem eachBank_bank (f : Bank → Bank) (r : PressRec) (b : Plate) : (eachBank f r).bank b = f (r.bank b) := by
  simp only [eachBank, PressRec.bank]
  rw [tget_foldl_tmod List.nodup_range, if_pos (List.mem_range.mpr b.isLt)]

theorem eachBank_frame (f : Bank → Bank) (r : PressRec) : eachBank f r = { r with banks := (eachBank f r).banks } := by
  simp only [eachBank]

theorem setStatsMode_mode (m : Bool) (x : Bank) : (setStatsMode m x).maxAbsMode = m := by
  unfold setStatsMode
  split
  · assumption
  · rfl

/-! ## The mode that debug gives -/

/-- Between s and t nothing but banks of presses changed. -/
structure BanksOnly (s t : State) : Prop where
  device : t = { s with presses := t.presses }
  press : ∀ p, t.press p = { s.press p with banks := (t.press p).banks }

theorem BanksOnly.refl (s : State) : BanksOnly s s := ⟨rfl, fun _ => rfl⟩

theorem BanksOnly.eachBank (h : BanksOnly s t) (p : Nat) (f : Bank → Bank) :
    BanksOnly s (t.updPress p (Machine.eachBank f)) where
  device := by
    rw [h.device]
    rfl
  press i := by
    rw [State.press_updPress]
    split
    case isTrue hi =>
      subst hi
      rw [eachBank_frame, h.press i]
    case isFalse => exact h.press i

/-- Banks have no part in the mode that debug gives a press. -/
theorem BanksOnly.debugMaxAbs (h : BanksOnly s t) (p : Nat) : debugMaxAbs t p = debugMaxAbs s p := by
  have vat : (t.press p).vat = (s.press p).vat := (congrArg PressRec.vat (h.press p) :)
  have vats : t.vat = s.vat := (congrArg State.vat h.device :)
  have settings : t.settings = s.settings := (congrArg State.settings h.device :)
  simp only [Machine.debugMaxAbs, vat, vats, settings]

theorem debugMaxAbs_of_vat {p : Nat} {v : Vat} (h : (s.press p).vat = some v) :
    debugMaxAbs s p = decide ((s.vat v).debug = .active ∧ s.settings.statsDebugMaxAbs = 1) := by
  rw [debugMaxAbs, h]

theorem debugStats_banksOnly (s : State) : BanksOnly s (debugStats s) :=
  forL_inv (BanksOnly s) _ _ (fun p _ _ ht => ht.eachBank p _) s (.refl s)

/-- A turn of debugStats puts the units of its press in the mode that debug gives it, and leaves the other presses alone. -/
theorem BanksOnly.switched (h : BanksOnly s t) (p q : Nat) (b : Plate) :
    (((t.updPress p (Machine.eachBank (setStatsMode (Machine.debugMaxAbs t p)))).press q).bank b).maxAbsMode =
      if q = p then Machine.debugMaxAbs s q else ((t.press q).bank b).maxAbsMode := by
  rw [State.press_updPress]
  split
  case isTrue hq => rw [eachBank_bank, setStatsMode_mode, hq, h.debugMaxAbs]
  case isFalse => rfl

/-- The statistics units of an ACTIVE press of a vat are in the mode that the vat's debug state gives (R138). -/
theorem debugStats_mode {p : Press} {v : Vat} (ha : (s.press p).state = .active) (hv : (s.press p).vat = some v)
    (b : Plate) : (((debugStats s).press p).bank b).maxAbsMode =
      decide ((s.vat v).debug = .active ∧ s.settings.statsDebugMaxAbs = 1) := by
  rw [← debugMaxAbs_of_vat hv, debugStats]
  have listed : p.val ∈ allPresses.filter fun p => decide ((s.press p).state = .active ∧ (s.press p).vat.isSome) :=
    List.mem_filter.mpr ⟨List.mem_range.mpr p.isLt, decide_eq_true ⟨ha, by rw [hv]; rfl⟩⟩
  refine forL_reaches (BanksOnly s) (fun t => ((t.press p).bank b).maxAbsMode = debugMaxAbs s p)
    (fun q _ t ht => ht.eachBank q _) (fun q _ t ht mode => ?_) listed (fun t ht => ?_) s (.refl s)
  · rw [ht.switched, mode, ite_self]
  · rw [ht.switched, if_pos rfl]

end Sys2Proof.Machine

end

section
/-! SUPPORT. The end of a load (R317, R318): which staging pages it zeroes, and what it leaves of the vat. -/

namespace Sys2Proof.Machine

variable {s t : State}

/-! ## Frames written with zeros -/

theorem tgetN_eq_replicate {α : Type} {d x : α} {m : Tab α} {k n : Nat} (h : ∀ i, i < n → tget d m (k + i) = x) :
    tgetN d m k n = List.replicate n x := by
  induction n generalizing k with
  | zero => rfl
  | succ n ih =>
    have rest : ∀ i, i < n → tget d m (k + 1 + i) = x := fun i hi => by
      rw [Nat.add_right_comm]
      exact h (i + 1) (Nat.succ_lt_succ hi)
    rw [tgetN, ih rest, ← k.add_zero, h 0 n.succ_pos, List.replicate_succ]

/-- Between s and t the frames of a list were written with zeros. -/
structure FramesZeroed (fs : List Nat) (s t : State) : Prop where
  device : t = { s with hubs := { s.hubs with mem := t.hubs.mem, poison := t.hubs.poison } }
  zeros : ∀ f ∈ fs, ∀ i < 2048, tget 0 t.hubs.mem (2048 * f + i) = 0
  kept : ∀ f ∉ fs, ∀ i < 2048, tget 0 t.hubs.mem (2048 * f + i) = tget 0 s.hubs.mem (2048 * f + i)

/-- A frame written with zeros reads 0, and every other frame what it held. -/
theorem zeroFrame_byte (f g : Nat) {i : Nat} (hi : i < 2048) (s : State) :
    tget 0 (zeroFrame f s).hubs.mem (2048 * g + i) = if g = f then 0 else tget 0 s.hubs.mem (2048 * g + i) := by
  rw [zeroFrame_reads]
  by_cases hg : g = f
  · rw [if_pos hg, if_pos (by omega)]
  · rw [if_neg hg, if_neg (by omega)]

theorem framesZeroed (fs : List Nat) (s : State) : FramesZeroed fs s (forL fs zeroFrame s) := by
  induction fs generalizing s with
  | nil => exact ⟨rfl, fun _ h => absurd h List.not_mem_nil, fun _ _ _ _ => rfl⟩
  | cons f fs ih =>
    obtain ⟨device, zeros, kept⟩ := ih (zeroFrame f s)
    change FramesZeroed (f :: fs) s (forL fs zeroFrame (zeroFrame f s))
    generalize forL fs zeroFrame (zeroFrame f s) = t at device zeros kept ⊢
    refine ⟨device, fun g hg i hi => ?_, fun g hg i hi => ?_⟩
    · by_cases later : g ∈ fs
      · exact zeros g later i hi
      · rw [kept g later i hi, zeroFrame_byte f g hi, if_pos ((List.mem_cons.mp hg).resolve_right later)]
    · obtain ⟨ne, later⟩ := not_or.mp (mt List.mem_cons.mpr hg)
      rw [kept g later i hi, zeroFrame_byte f g hi, if_neg ne]

theorem frameRead_congr (h : t.hubs = s.hubs) (f i n : Nat) : t.frameRead f i n = s.frameRead f i n := by
  rw [State.frameRead, State.frameRead, h]

/-! ## The load of a vat -/

/-- The frames that hold the pending ream of a vat. -/
def pendingFrames (s : State) (v : Nat) : List Nat := stagingFrames s v (((s.vat v).pendingReam.map Ream.held).getD [])

/-- Between s and t the load of vat v ended, its staging pages written with zeros (R317, R318). -/
structure LoadEnded (v : Nat) (s t : State) : Prop where
  device : t = { s with vats := t.vats, hubs := { s.hubs with mem := t.hubs.mem, poison := t.hubs.poison } }
  vat : t.vat v = { s.vat v with pendingReam := none, load := (t.vat v).load }
  load : (t.vat v).load.state ≠ .fetching ∧ (t.vat v).load.state ≠ .staged
  others : ∀ w, w ≠ v → t.vat w = s.vat w
  zeros : ∀ f ∈ pendingFrames s v, t.frameRead f 0 2048 = List.replicate 2048 0
  kept : ∀ f i, f ∉ pendingFrames s v → i < 2048 → t.frameRead f i 1 = s.frameRead f i 1

theorem abortLoad_ended (v : Nat) (s : State) : LoadEnded v s (abortLoad v s) := by
  obtain ⟨device, zeros, kept⟩ := framesZeroed (pendingFrames s v) s
  have eq : abortLoad v s = ((forL (pendingFrames s v) zeroFrame s).updVat v fun r => { r with pendingReam := none }).updVat v
      fun r => { r with load := if r.load.state = .fetching ∨ r.load.state = .staged
        then { state := .aborted, stream := r.load.stream } else r.load } := rfl
  rw [eq]
  generalize forL (pendingFrames s v) zeroFrame s = u at device zeros kept ⊢
  have vats : u.vat = s.vat := (congrArg State.vat device :)
  refine ⟨?_, ?_, ?_, fun w hw => ?_, fun f hf => ?_, fun f i hf hi => ?_⟩
  · rw [device]
    rfl
  · simp only [State.vat_updVat, if_true, vats]
  · simp only [State.vat_updVat, if_true]
    split
    case isTrue => exact ⟨LoadSt.noConfusion, LoadSt.noConfusion⟩
    case isFalse h => exact not_or.mp h
  · simp only [State.vat_updVat, if_neg hw, vats]
  · exact tgetN_eq_replicate (zeros f hf)
  · exact congrArg (fun x => [x]) (kept f hf i hi)

end Sys2Proof.Machine

end

section
/-! SUPPORT. The pulping that a vat begins (R352): what it leaves of the vats and of the device's own state. -/

namespace Sys2Proof.Machine

variable {p k v : Nat} {w : Outputs} {s t : State} {j : Job}

/-! ## Jobs stopped by pulping -/

/-- A job that pulping ends writes no output at all, not even undefined data (R352 step 2). -/
theorem JobEnds.finishJob_pulped (hj : (s.press p).slot k = some j) (hp : j.vatPulping = true) :
    JobEnds p k w s (Machine.finishJob p k s) := by
  have drop : JobWrites p k w _ ((Machine.returnClaim p k s).updPress p (dropPasses k)) := .keepPasses _
  simp only [Machine.finishJob, hj, hp, if_true, Bool.not_true, Bool.false_eq_true, and_false, if_false]
  exact ((JobEnds.returnClaim.trans drop.toJobEnds).trans (.updJob _)).trans
    (JobWrites.settleMacros.trans .signalSlot).toJobEnds

theorem JobEnds.stopJob_pulped : JobEnds p k w s (stopJob p k (fun j => { j with vatPulping := true }) s) := by
  simp only [stopJob]
  split
  · exact (JobWrites.refl ..).toJobEnds
  · split
    · exact (JobWrites.refl ..).toJobEnds
    · rename_i j hj _
      refine (JobEnds.updJob _).trans (.finishJob_pulped (j := { j with vatPulping := true }) ?_ rfl)
      rw [State.slot_updJob, if_pos ⟨rfl, rfl⟩, hj]
      rfl

theorem JobsEnd.stopJobs_pulped (sel : Job → Bool) :
    JobsEnd p w s (stopJobs p sel (fun j => { j with vatPulping := true }) s) :=
  forL_inv (JobsEnd p w s) _ _ (fun _ _ _ ht => ht.trans JobEnds.stopJob_pulped.toJobsEnd) s (.refl ..)

/-! ## Vats through a pulp -/

/-- The vats and the device's own state, to which the work of pulping on presses, pages and streams does nothing. -/
def State.vatsAndDev (s : State) : Tab VatRec × Dev := (s.vats, s.dev)

theorem JobsEnd.vatsAndDev (h : JobsEnd p w s t) : t.vatsAndDev = s.vatsAndDev :=
  (congrArg State.vatsAndDev h.device :)

theorem askPower_vatsAndDev (e : EngReq) (s : State) : (askPower e s).vatsAndDev = s.vatsAndDev := rfl

theorem retireAlone_vatsAndDev (f c : Nat) (s : State) : (retireAlone f c s).vatsAndDev = s.vatsAndDev := rfl

theorem pulpPlates_vatsAndDev (p : Nat) (purpose : Purpose) (s : State) :
    (pulpPlates p purpose s).vatsAndDev = s.vatsAndDev := by
  simp only [pulpPlates]
  rw [forN_keep State.vatsAndDev _ _ fun _ _ t => askPower_vatsAndDev _ t]
  rfl

theorem scrubVat_vatsAndDev (v : Nat) (purpose : Purpose) (scrub : PressRec → PressRec) (s : State) :
    (scrubVat v purpose (fun j => { j with vatPulping := true }) scrub s).vatsAndDev = s.vatsAndDev := by
  have stop : ∀ p t, (stopJobs p (fun _ => true) (fun j => { j with vatPulping := true }) t).vatsAndDev = t.vatsAndDev :=
    fun p t => (JobsEnd.stopJobs_pulped (w := ⟨fun _ _ => False, fun _ => False, False⟩) _).vatsAndDev
  exact (forL_keep State.vatsAndDev _ _ (fun p _ t => pulpPlates_vatsAndDev p purpose (t.updPress p scrub)) _).trans
    (forL_keep State.vatsAndDev _ _ (fun p _ t => stop p t) s)

theorem startPagePulp_vatsAndDev (v : Nat) (s : State) : (startPagePulp v s).vatsAndDev = s.vatsAndDev := by
  simp only [startPagePulp]
  rw [forL_keep State.vatsAndDev _ (fun (c : Copy) t => retireAlone c.frame c.cause t) fun _ _ _ => retireAlone_vatsAndDev ..]
  rfl

/-- Between s and t the reams of vat v, whose record was r, became void (R352 step 7). -/
structure ReamsDropped (v : Nat) (r : VatRec) (s t : State) : Prop where
  dev : t.dev = s.dev
  reams : (t.vat v).active = none ∧ (t.vat v).pendingReam = none
  status : (t.vat v).state = r.state ∧ (t.vat v).pulpForDebug = r.pulpForDebug
  debug : (t.vat v).debug = r.debug ∧ (t.vat v).debugCount = r.debugCount
  others : ∀ w, w ≠ v → t.vat w = s.vat w

theorem dropReams_dropped (v : Nat) (s : State) : ReamsDropped v (s.vat v) s (dropReams v s) := by
  have ended := abortLoad_ended v s
  unfold dropReams
  generalize abortLoad v s = u at ended ⊢
  constructor
  case dev => exact (congrArg State.dev ended.device :)
  case others =>
    intro w hw
    rw [State.vat_updVat, if_neg hw, ended.others w hw]
  all_goals
    rw [State.vat_updVat, if_pos rfl, ended.vat]
    exact ⟨rfl, rfl⟩

/-- Reams that became void stay so through work that keeps the vats, and through the erasure of the publisher key (R352). -/
theorem ReamsDropped.setKey {r : VatRec} {u : State} (h : ReamsDropped v r s t) (e : u.vatsAndDev = t.vatsAndDev)
    (key : BitVec 256) : ReamsDropped v r s (u.updVat v fun x => { x with publisherKey := key }) := by
  obtain ⟨vats, dev⟩ := Prod.mk.inj e
  have vat : u.vat = t.vat := by funext w; simp only [State.vat, vats]
  constructor
  case dev => exact dev.trans h.dev
  case others =>
    intro w hw
    rw [State.vat_updVat, if_neg hw, vat, h.others w hw]
  all_goals rw [State.vat_updVat, if_pos rfl, vat]
  case reams => exact h.reams
  case status => exact h.status
  case debug => exact h.debug

/-- A vat as pulping counts its plates and pages (R352 step 1, R354). -/
def VatRec.pulpStarted (forDebug : Bool) (plates pages : Nat) (r : VatRec) : VatRec :=
  { r with
    state := .pulping, pulpForDebug := forDebug, pulpForReset := false, padWatts := BitVec.ofNat 16 (vatPower r), padHold := 0
    platesTotal := plates, pagesTotal := pages }

/-- Pulping drops the reams of a vat that is PULPING, and leaves the other vats alone (R352). -/
theorem beginPulp_dropped (v : Nat) (forDebug : Bool) (s : State) : ∃ plates pages,
    ReamsDropped v ((s.vat v).pulpStarted forDebug plates pages) s (beginPulp v forDebug false s) := by
  let started := VatRec.pulpStarted forDebug (17 * (servingPresses s v).length) (vatFrames s v .owned).length
  let marked := markWaiting v (fun j => { j with vatPulping := true })
    (raise evVatPulpStarted none none (some v) (leBytes 1 (if forDebug then 2 else 1)) (s.updVat v started))
  have dropped : ReamsDropped v (started (s.vat v)) s (dropReams v marked) := by
    have here : marked.vat v = started (s.vat v) := (State.vat_updVat s v v started).trans (if_pos rfl)
    obtain ⟨dev, reams, status, debug, others⟩ := dropReams_dropped v marked
    rw [here] at status debug
    exact ⟨dev, reams, status, debug, fun w hw =>
      (others w hw).trans ((State.vat_updVat s v w started).trans (if_neg hw))⟩
  exact ⟨_, _, dropped.setKey ((startPagePulp_vatsAndDev ..).trans (scrubVat_vatsAndDev ..)) 0⟩

end Sys2Proof.Machine

end

section
/-! SUPPORT. DEBUG_REQUEST (R357, R358): the entry DebugRequest, what ends before debug entry, and the two ways into debug. -/

namespace Sys2Proof.Machine

variable {s t u : State} {v : Nat}

/-! ## The entry DebugRequest -/

/-- The entries of a vat (R368). -/
theorem objAt_vat (v : Vat) {sub : Nat} (hsub : sub ≠ 0) : objAt (0x2100 + v.val) sub = vats2100 v.val sub := by
  have hv := v.isLt
  have plain : plainIndex (0x2100 + v.val) = false := by
    by_contra h
    have := lt_of_plainIndex (Bool.eq_true_of_not_eq_false h)
    omega
  have press : (pressAreas.findSome? fun a => (within (0x2100 + v.val) a.1 68).map fun p => (a.2.1, a.2.2 p)) = none := by
    have above : ∀ a ∈ pressAreas, 0x2108 ≤ a.1 := by simp [pressAreas]
    refine List.findSome?_eq_none_iff.mpr fun a ha => ?_
    rw [within_outside (by have := above a ha; omega)]
    rfl
  have index : indexOf (0x2100 + v.val) = some (0x13, vats2100 v.val) := by
    unfold indexOf
    rw [press]
    simp only [vatAreas, List.findSome?_cons, within_add hv, Option.map_some]
    rfl
  simp only [objAt, plain, index, if_neg hsub, Bool.false_eq_true, if_false]

/-- M and H may write DebugRequest (R357, R368). -/
theorem direct_debugRequest {pr : Principal} (v : Vat) (x : Byte) (hs : s.dev.started = true) (hpr : pr = .M ∨ pr = .H)
    (hx : x = 0 ∨ x = 1) : direct pr (0x2100 + v.val) 0x0C 0 [x] s =
      .next ((debugRequest v (decide (x = 1)) s).2.answer (debugRequest v (decide (x = 1)) s).1) := by
  have idx : 0x2100 + v.val ≠ 0x2D10 ∧ 0x2100 + v.val ≠ 0x2920 := by omega
  have check : writeCheck s pr (decide (0x2100 + v.val = 0x2920)) ((command .bool mh fun _ _ d s =>
      debugRequest v (decide (leNat d = 1)) s).ownedBy (.vat v)) 0 [x] = resOk := by
    rw [decide_eq_false idx.2]
    rcases hpr with rfl | rfl <;> rcases hx with rfl | rfl <;> rfl
  refine (direct_accepted hs (by simp) (by decide) (objAt_vat v (by decide)) idx.1 check).trans ?_
  rcases hx with rfl | rfl <;> rfl

/-! ## What ends before debug entry -/

/-- A load that a running swap engraves, which debug entry lets stand (assumption 52). -/
def VatRec.keepsLoad (r : VatRec) : Bool := r.swap.active && r.swap.fromPending

/-- The state in which a vat enters debug, its load ended (R358 steps 1 and 2). -/
def debugEntering (v : Nat) (s : State) : State :=
  let s := s.updVat v fun r => { r with debug := .entering }
  if (s.vat v).keepsLoad then s else abortLoad v s

theorem debugRequest_state (h : (s.vat v).state ≠ .serving) : debugRequest v true s = (resState, s) := if_pos h

theorem debugRequest_serving (h : (s.vat v).state = .serving) : debugRequest v true s =
    (resOk, if holdsProtected ((debugEntering v s).vat v) then beginPulp v true false (debugEntering v s)
      else enterDebug v (debugEntering v s)) :=
  if_neg (not_not.mpr h)

/-- Between s and t vat v began to enter debug. -/
structure DebugEntering (v : Nat) (s t : State) : Prop where
  device : t = { s with vats := t.vats, hubs := { s.hubs with mem := t.hubs.mem, poison := t.hubs.poison } }
  vat : t.vat v = { s.vat v with debug := .entering, pendingReam := (t.vat v).pendingReam, load := (t.vat v).load }
  others : ∀ w, w ≠ v → t.vat w = s.vat w
  stays : (s.vat v).keepsLoad = true →
    (t.vat v).load = (s.vat v).load ∧ (t.vat v).pendingReam = (s.vat v).pendingReam ∧ t.hubs = s.hubs
  ends : (s.vat v).keepsLoad = false →
    (t.vat v).pendingReam = none ∧ (t.vat v).load.state ≠ .fetching ∧ (t.vat v).load.state ≠ .staged
  zeros : (s.vat v).keepsLoad = false → ∀ f ∈ pendingFrames s v, t.frameRead f 0 2048 = List.replicate 2048 0
  kept : ∀ f i, f ∉ pendingFrames s v → i < 2048 → t.frameRead f i 1 = s.frameRead f i 1

/-- The frames of a pending ream do not depend on the debug state of its vat. -/
theorem pendingFrames_debug (v : Nat) (d : DebugSt) (s : State) :
    pendingFrames (s.updVat v fun r => { r with debug := d }) v = pendingFrames s v := by
  simp only [pendingFrames, stagingFrames, State.pageFrame, State.vat_updVat, if_true]
  rfl

theorem debugEntering_entering (v : Nat) (s : State) : DebugEntering v s (debugEntering v s) := by
  have keeps : ((s.updVat v fun r => { r with debug := .entering }).vat v).keepsLoad = (s.vat v).keepsLoad := by
    rw [State.vat_updVat, if_pos rfl]
    rfl
  simp only [debugEntering, keeps]
  split
  case isTrue hk =>
    have no : ¬(s.vat v).keepsLoad = false := by rw [hk]; exact Bool.noConfusion
    refine ⟨rfl, ?_, fun w hw => ?_, fun _ => ?_, fun h => absurd h no, fun h => absurd h no, fun _ _ _ _ => rfl⟩
    · rw [State.vat_updVat, if_pos rfl]
    · rw [State.vat_updVat, if_neg hw]
    · rw [State.vat_updVat, if_pos rfl]
      exact ⟨rfl, rfl, rfl⟩
  case isFalse hk =>
    obtain ⟨device, vat, load, others, zeros, kept⟩ := abortLoad_ended v (s.updVat v fun r => { r with debug := .entering })
    rw [pendingFrames_debug] at zeros kept
    rw [State.vat_updVat, if_pos rfl] at vat
    generalize abortLoad v (s.updVat v fun r => { r with debug := .entering }) = t at device vat load others zeros kept ⊢
    have pending : (t.vat v).pendingReam = none := congrArg VatRec.pendingReam vat
    refine ⟨device, ?_, fun w hw => ?_, fun h => absurd h hk, fun _ => ⟨pending, load⟩, fun _ => zeros, kept⟩
    · rw [pending]
      exact vat
    · rw [others w hw, State.vat_updVat, if_neg hw]

theorem DebugEntering.parts (h : DebugEntering v s t) :
    t.press = s.press ∧ t.settings = s.settings ∧ t.events = s.events :=
  ⟨(congrArg State.press h.device :), (congrArg State.settings h.device :), (congrArg State.events h.device :)⟩

/-- A vat that enters debug holds a protected ream where its active ream is one, or the ream that a swap engraves (R308). -/
theorem DebugEntering.holdsProtected (h : DebugEntering v s t) : holdsProtected (t.vat v) =
    (((s.vat v).active.any fun x => x.isProtected) ||
      ((s.vat v).keepsLoad && (s.vat v).pendingReam.any fun x => x.isProtected)) := by
  have active : (t.vat v).active = (s.vat v).active := (congrArg VatRec.active h.vat :)
  rw [Machine.holdsProtected, active]
  cases hk : (s.vat v).keepsLoad
  case false => rw [(h.ends hk).1]; rfl
  case true => rw [(h.stays hk).2.1]; rfl

/-! ## Debug entered and left -/

/-- Between s and t vat v left or entered debug: its record became r, the statistics units of its ACTIVE presses went to
MAXABS mode or to MSE mode, and the event was raised (R358). -/
structure DebugChanged (v : Vat) (r : VatRec) (maxAbs : Bool) (code : BitVec 16) (s t : State) : Prop where
  device : t = { s with vats := t.vats, presses := t.presses, events := t.events }
  vat : t.vat v = r
  others : ∀ w : Nat, w ≠ v → t.vat w = s.vat w
  stats : ∀ (p : Press) (b : Plate), (s.press p).state = .active → (s.press p).vat = some v →
    ((t.press p).bank b).maxAbsMode = maxAbs
  press : ∀ p : Nat, t.press p = { s.press p with banks := (t.press p).banks }
  logged : Safety.Logged s t code none none (some v) (leBytes 2 r.debugCount.toNat)

/-- A change of a vat's debug state, its presses' statistics units and the event log. -/
def changeDebug (v : Nat) (f : VatRec → VatRec) (code : BitVec 16) (s : State) : State :=
  raise code none none (some v) (leBytes 2 (f (s.vat v)).debugCount.toNat) (debugStats (s.updVat v f))

theorem changeDebug_changed (v : Vat) (f : VatRec → VatRec) (code : BitVec 16) (s : State) :
    DebugChanged v (f (s.vat v)) (decide ((f (s.vat v)).debug = .active ∧ s.settings.statsDebugMaxAbs = 1)) code s
      (changeDebug v f code s) := by
  have banks := debugStats_banksOnly (s.updVat v f)
  have here : (s.updVat v f).vat v = f (s.vat v) := by rw [State.vat_updVat, if_pos rfl]
  have mode : ∀ (p : Press) (b : Plate), (s.press p).state = .active → (s.press p).vat = some v →
      (((debugStats (s.updVat v f)).press p).bank b).maxAbsMode =
        decide ((f (s.vat v)).debug = .active ∧ s.settings.statsDebugMaxAbs = 1) := by
    intro p b ha hv
    rw [debugStats_mode (s := s.updVat v f) ha hv, here]
    rfl
  unfold changeDebug
  generalize debugStats (s.updVat v f) = t at banks mode ⊢
  have vats : t.vat = (s.updVat v f).vat := (congrArg State.vat banks.device :)
  have events : t.events = s.events := (congrArg State.events banks.device :)
  refine ⟨?_, ?_, fun w hw => ?_, mode, banks.press, (raise_logged ..).of_events events.symm⟩
  · rw [raise_frame, banks.device]
    rfl
  · exact (congrFun vats v).trans here
  · refine (congrFun vats w).trans ?_
    rw [State.vat_updVat, if_neg hw]

/-- A vat in debug, one entry more counted (R358 step 5). -/
def VatRec.inDebug (r : VatRec) : VatRec := { r with debug := .active, debugCount := satInc r.debugCount }

theorem enterDebug_eq (v : Nat) (s : State) : enterDebug v s = changeDebug v VatRec.inDebug evDebugEntered s := by
  have count : ((debugStats (s.updVat v VatRec.inDebug)).vat v) = (s.vat v).inDebug := by
    have vats : (debugStats (s.updVat v VatRec.inDebug)).vat = (s.updVat v VatRec.inDebug).vat :=
      (congrArg State.vat (debugStats_banksOnly (s.updVat v VatRec.inDebug)).device :)
    rw [vats, State.vat_updVat, if_pos rfl]
  show raise evDebugEntered none none (some v) (leBytes 2 ((debugStats (s.updVat v VatRec.inDebug)).vat v).debugCount.toNat)
    (debugStats (s.updVat v VatRec.inDebug)) = _
  rw [count]
  rfl

theorem debugRequest_false (v : Nat) (s : State) : debugRequest v false s =
    (resOk, changeDebug v (fun r => { r with debug := .off }) evDebugLeft s) := rfl

end Sys2Proof.Machine

namespace Sys2Proof.Settled

open Sys2Proof.Machine

/-- Settles O22: a load that no swap engraves ends first, so the vat then holds a protected ream exactly where the statement
says; without one debug is entered at once, and with one the vat is pulped. -/
theorem debugRequests : Obligations.DebugRequests := by
  refine ⟨fun pr v s kept held hs hpr hkept hheld => ?_, fun pr v s hs hpr => ?_⟩
  swap
  · have changed := changeDebug_changed v (fun r => { r with debug := .off }) evDebugLeft s
    exact ⟨_, direct_debugRequest v 0 hs hpr (.inl rfl), changed.vat, fun w hw => changed.others w (Fin.val_ne_of_ne hw),
      changed.stats, fun p => changed.press p, changed.logged, changed.device⟩
  have write : exec (.debugRequestTrue pr v) s = _ := direct_debugRequest v 1 hs hpr (.inr rfl)
  rw [write, decide_eq_true rfl]
  replace hkept : (s.vat v).keepsLoad = kept := hkept.symm
  subst hkept
  have entering := debugEntering_entering v s
  have protects := entering.holdsProtected.trans hheld.symm
  refine ⟨fun h => by rw [debugRequest_state h], fun h unheld => ?_, fun h holds => ?_⟩
  · rw [debugRequest_serving h, protects, unheld, if_neg Bool.false_ne_true, enterDebug_eq]
    have changed := changeDebug_changed v VatRec.inDebug evDebugEntered (debugEntering v s)
    generalize debugEntering v s = u at entering changed ⊢
    generalize changeDebug v VatRec.inDebug evDebugEntered u = t at changed ⊢
    have inDebug := changed.vat
    rw [entering.vat] at inDebug
    have load : (t.vat v).load = (u.vat v).load := (congrArg VatRec.load inDebug :)
    have pending : (t.vat v).pendingReam = (u.vat v).pendingReam := (congrArg VatRec.pendingReam inDebug :)
    have hubs : t.hubs = u.hubs := (congrArg State.hubs changed.device :)
    obtain ⟨press, settings, events⟩ := entering.parts
    refine ⟨t, rfl, congrArg VatRec.debug inDebug, (congrArg VatRec.state inDebug).trans h,
      congrArg VatRec.debugCount inDebug, (congrArg VatRec.active inDebug :), fun kept => ?_, fun ends => ?_, fun w hw => ?_,
      fun p b ha hv => ?_, fun p => ?_, ?_, fun kept => ?_, fun f hf ends => ?_, fun f i hf hi => ?_, ?_⟩
    · rw [load, pending]
      exact ⟨(entering.stays kept).1, (entering.stays kept).2.1⟩
    · rw [load, pending]
      exact entering.ends ends
    · rw [changed.others w (Fin.val_ne_of_ne hw), entering.others w (Fin.val_ne_of_ne hw)]
    · rw [← press] at ha hv
      rw [changed.stats p b ha hv, settings]
      exact decide_eq_decide.mpr (and_iff_right rfl)
    · rw [← press]
      exact changed.press p
    · rw [changed.vat]
      exact changed.logged.of_events events.symm
    · exact hubs.trans (entering.stays kept).2.2
    · rw [frameRead_congr hubs]
      exact entering.zeros ends f hf
    · rw [frameRead_congr hubs]
      exact entering.kept f i hf hi
    · rw [changed.device, entering.device]
  · rw [debugRequest_serving h, protects, holds, if_pos rfl]
    obtain ⟨_, _, dev, ⟨active, pending⟩, ⟨state, forDebug⟩, ⟨debug, count⟩, others⟩ :=
      beginPulp_dropped v true (debugEntering v s)
    rw [entering.vat] at debug count
    refine ⟨_, rfl, debug, state, forDebug, active, pending, count, fun w hw => ?_, dev.trans ?_⟩
    · rw [others w (Fin.val_ne_of_ne hw), entering.others w (Fin.val_ne_of_ne hw)]
    · rw [entering.device]

end Sys2Proof.Settled

end

section
/-! SUPPORT. How a vector job starts (R193, R232, R234): what its command does while it waits, and what it does to a job that
runs. -/

namespace Sys2Proof.Machine

variable {p k op : Nat} {s : State} {j j' : Job} {v : VectorParams}

/-! ## The jobs of a press when one of its slots is written -/

/-- A job written over another changes no list of jobs in which neither stands. -/
theorem PressRec.filter_jobs_setSlot {r : PressRec} {P : Nat × Job → Bool} (hj : r.slot k = some j)
    (old : P (k, j) = false) (new : P (k, j') = false) :
    (r.setSlot k (some j')).jobs.filter P = r.jobs.filter P := by
  have listed : ∀ l : Tab (Option Job), tget none l k = some j →
      ((tput none l k (some j')).filterMap fun (i, o) => o.map (i, ·)).filter P =
        (l.filterMap fun (i, o) => o.map (i, ·)).filter P := by
    intro l
    induction l with
    | nil => simp [tget]
    | cons e l ih =>
      obtain ⟨i, o⟩ := e
      intro hl
      simp only [tget] at hl
      simp only [tput, reduceCtorEq, if_false]
      split
      · simp [new]
      · split
        · rename_i hi
          rw [if_pos hi] at hl
          simp [hi, hl, old, new]
        · rename_i hi
          rw [if_neg hi] at hl
          cases o <;> simp [List.filter_cons, ih hl]
  exact listed _ hj

/-- No job is placed before itself: the jobs before one that is written over in its slot stay as they are (R234). -/
theorem earlier_setSlot {r : PressRec} (hj : r.slot k = some j) (same : j'.order = j.order) :
    earlier (r.setSlot k (some j')) j' = earlier r j := by
  unfold earlier
  rw [PressRec.filter_jobs_setSlot hj (by simp [same]) (by simp), same]

theorem State.slot_setSlot (s : State) (p k : Nat) (o : Option Job) : ((s.setSlot p k o).press p).slot k = o := by
  simp [State.setSlot]

/-- A job that is there is changed by writing its slot. -/
theorem State.updJob_eq_setSlot (hj : (s.press p).slot k = some j) (f : Job → Job) :
    s.updJob p k f = s.setSlot p k (some (f j)) := by
  simp only [State.updJob, State.setSlot, State.updPress, hj, Option.map_some]

/-! ## Starting -/

/-- An earlier vector job of the press has not ended (R193, R234). -/
def vectorBefore (s : State) (p : Nat) (j : Job) : Bool :=
  (earlier (s.press p) j).any fun e => decide (e.2.desc.opcode = opVector)

theorem vectorBefore_setSlot (hj : (s.press p).slot k = some j) (same : j'.order = j.order) :
    vectorBefore (s.setSlot p k (some j')) p j' = vectorBefore s p j := by
  rw [vectorBefore, State.setSlot, State.press_updPress, if_pos rfl, earlier_setSlot hj same, vectorBefore]

/-- A vector job at no epoch barrier starts when its waits are over and its press issues work, and else stays (R232, R234). -/
theorem startJob_vector (hj : (s.press p).slot k = some j) (ho : j.desc.opcode = opVector) (hb : j.barrier = false) :
    startJob opVector (fun _ _ _ => true) p k s =
      if startReady s p j = true ∧ pressIssues s p = true then s.setSlot p k (some { j with state := .running }) else s := by
  have release : releaseBarrier p k s = s := by simp [releaseBarrier, hj, hb]
  simp only [startJob, hj, ho, release, Option.map_some, ne_eq, not_true, if_false, and_true, s.updJob_eq_setSlot hj]

/-- The job that a vector command works on, once the job in the slot has been given its start (R193, R196). -/
def fundRunning (op p k : Nat) (s : State) : State × Option (Job × VectorParams) :=
  match runningJob s p k opVector with
  | none => (s, none)
  | some j =>
    match j.vp with
    | none => (s, none)
    | some v => fundVector op p k j v s

/-- A vector command passes over a job of another VectorOp, and one behind another vector job (R193). -/
theorem startVector_passes (hj : (s.press p).slot k = some j) (hv : j.vp = some v)
    (h : v.op.toNat ≠ op ∨ vectorBefore s p j = true) : startVector op p k s = (s, none) := by
  simp only [startVector, hj, hv]
  refine if_pos ?_
  rcases h with h | h
  · exact .inr (.inl (by simpa using h))
  · exact .inr (.inr h)

/-- A vector command gives a job of its VectorOp with no vector job before it its start (R193). -/
theorem startVector_turn (hj : (s.press p).slot k = some j) (ho : j.desc.opcode = opVector) (hv : j.vp = some v)
    (hop : v.op.toNat = op) (hb : vectorBefore s p j = false) :
    startVector op p k s = fundRunning op p k (startJob opVector (fun _ _ _ => true) p k s) := by
  unfold vectorBefore at hb
  simp only [startVector, hj, hv, ho, hop, hb]
  rfl

/-- A vector command leaves a waiting job of its VectorOp that cannot start as it is (R232, R234). -/
theorem startVector_waits (hj : (s.press p).slot k = some j) (ho : j.desc.opcode = opVector) (hv : j.vp = some v)
    (hw : j.state = .waiting) (hb : j.barrier = false) (h : startReady s p j = false ∨ pressIssues s p = false) :
    startVector op p k s = (s, none) := by
  by_cases turn : v.op.toNat ≠ op ∨ vectorBefore s p j = true
  · exact startVector_passes hj hv turn
  · obtain ⟨hop, first⟩ := not_or.mp turn
    have held : ¬(startReady s p j = true ∧ pressIssues s p = true) := by
      rintro ⟨ready, issues⟩
      rcases h with h | h
      · exact Bool.false_ne_true (h.symm.trans ready)
      · exact Bool.false_ne_true (h.symm.trans issues)
    rw [startVector_turn hj ho hv (not_not.mp hop) (Bool.eq_false_of_not_eq_true first), startJob_vector hj ho hb,
      if_neg held]
    simp [fundRunning, runningJob, hj, hw]

/-- A job whose waits are over stands at no epoch barrier (R232). -/
theorem barrier_of_startReady (h : startReady s p j = true) : j.barrier = false := by
  simp only [startReady, Bool.and_eq_true, Bool.not_eq_true'] at h
  obtain ⟨⟨-, barrier⟩, -⟩ := h
  exact barrier

/-- A running job is not started again (R232). -/
theorem startReady_running (h : j.state = .running) : startReady s p j = false := by
  simp [startReady, h]

/-- A vector command runs a job that it starts as one that runs already (R193, R232). -/
theorem startVector_runs (hj : (s.press p).slot k = some j) (ho : j.desc.opcode = opVector) (hv : j.vp = some v)
    (hop : v.op.toNat = op) (first : vectorBefore s p j = false) (ready : startReady s p j = true)
    (issues : pressIssues s p = true) :
    startVector op p k s = startVector op p k (s.setSlot p k (some { j with state := .running })) := by
  have hb := barrier_of_startReady ready
  rw [startVector_turn hj ho hv hop first, startJob_vector hj ho hb, if_pos ⟨ready, issues⟩]
  have slot := s.slot_setSlot p k (some { j with state := .running })
  have before := (vectorBefore_setSlot (j' := { j with state := .running }) hj rfl).trans first
  rw [startVector_turn slot ho hv hop before, startJob_vector slot ho hb, startReady_running rfl]
  rfl

/-! ## The commands of the VectorOps -/

/-- A command does its work, if it does any, on the vector job that it starts (R196). -/
structure WorksOnStarted (op p k : Nat) (c : Instr) : Prop where
  same : ∀ {s t : State}, startVector op p k s = startVector op p k t → exec c s = exec c t
  idle : ∀ {s : State}, startVector op p k s = (s, none) → exec c s = .next s

theorem WorksOnStarted.of_runVector {c : Instr} {ins : VectorParams → List Range}
    {f : VecCtx → VectorParams → List (List Byte) → VecResult}
    (h : ∀ s, exec c s = .next (runVector op p k ins f s)) : WorksOnStarted op p k c where
  same e := by simp only [h, runVector, e]
  idle e := by simp only [h, runVector, e]

/-- ATTENTION reads its page list before the pages, and works on the job that it starts as well (R204). -/
theorem worksOnStarted_attention (p : Press) (k : Slot) : WorksOnStarted vopAttention p k (.attention p k) where
  same e := by simp only [exec, execAttention, e]
  idle e := by simp only [exec, execAttention, e]

/-- Every vector command works on the job that it starts (R193, R196). -/
theorem worksOnStarted_of_mem {p : Press} {k : Slot} {e : Nat × Instr} (he : e ∈ Safety.vectorCommands p k) :
    WorksOnStarted e.1 p k e.2 := by
  simp only [Safety.vectorCommands, List.mem_cons, List.not_mem_nil, or_false] at he
  rcases he with rfl | rfl | rfl | rfl | rfl | rfl | rfl | rfl | rfl | attention | rfl | rfl | rfl | rfl
  case inr.inr.inr.inr.inr.inr.inr.inr.inr.inl => exact attention ▸ worksOnStarted_attention p k
  all_goals exact .of_runVector fun _ => rfl

end Sys2Proof.Machine

namespace Sys2Proof.Settled

open Sys2Proof.Machine

/-- Settles O40: a vector command does nothing but through the job that it starts. -/
theorem vectorJobsWait : Obligations.VectorJobsWait := by
  intro p k s j v e he hj ho hv
  have works := worksOnStarted_of_mem he
  exact ⟨fun other => works.idle (startVector_passes hj hv (.inl other)),
    fun behind => works.idle (startVector_passes hj hv (.inr behind)),
    fun waiting barrier held => works.idle (startVector_waits hj ho hv waiting barrier held),
    fun op first ready issues => works.same (startVector_runs hj ho hv op first ready issues)⟩

end Sys2Proof.Settled

end

section
/-! SUPPORT. A job that ends with nothing undefined and no output in host memory (R222, R235): what that changes. -/

namespace Sys2Proof.Machine

variable {p k : Nat} {s t : State} {j : Job}

/-! ## The signal -/

/-- The signal of a job changes of the presses whether it is due, and no other counter than the one that the job names
(R235). -/
theorem signalSlot_eq (hj : (s.press p).slot k = some j) :
    ∃ due counters, signalSlot p k s = { s.updJob p k fun j => { j with signalDue := due } with counters := counters } ∧
      ∀ c, c ≠ counterNo j.desc.vat.toNat j.desc.syncCounter.toNat → tget {} counters c = s.counter c := by
  simp only [signalSlot, hj, signalDone]
  split
  · exact ⟨true, s.counters, rfl, fun _ _ => rfl⟩
  · split
    · exact ⟨false, _, rfl, fun c hc => tget_tput_ne _ _ _ _ hc⟩
    · exact ⟨false, s.counters, rfl, fun _ _ => rfl⟩

/-! ## The end of the job -/

/-- No outcome of a job keeps it from ending with all that it wrote, and it holds no chunk. -/
structure EndsWhole (j : Job) : Prop where
  internal : j.internal = false
  pulping : j.vatPulping = false
  authentic : j.sealFail = false
  chunk : j.chunk = none

/-- Nothing may be written. -/
def Outputs.nothing : Outputs := ⟨fun _ _ => False, fun _ => False, False⟩

/-- Between s and t a job ended in slot k of press p with the status of j, and wrote nothing more. -/
structure JobCloses (p k : Nat) (j : Job) (s t : State) : Prop where
  ended : Safety.JobEnded s t p k j (jobStatus j)
  own : OwnWork (s.press p) (t.press p)
  scratch : (t.press p).scratch = (s.press p).scratch
  others : ∀ r, r ≠ p → t.press r = s.press r
  counters : ∀ c, c ≠ counterNo j.desc.vat.toNat j.desc.syncCounter.toNat → t.counter c = s.counter c
  frame : t = { s with presses := t.presses, counters := t.counters }

/-- A job that waits to be posted (R222). -/
def Job.posted (j : Job) : Job :=
  { j with
    state := .posting, hostOut := [], hostDone := [], draining := false, loading := false, joins := [], fed := []
    operandRuns := [], operands := [], lateOut := [] }

/-- The job in slot k leaves its press: its passes go, it waits to be posted, and macros that it used are IDLE (R187, R222). -/
def leavePress (p k : Nat) (s : State) : State :=
  ((s.updPress p (dropPasses k)).updJob p k Job.posted).updPress p settleMacros

theorem leavePress_frame (p k : Nat) (s : State) : ∃ presses, leavePress p k s = { s with presses := presses } := ⟨_, rfl⟩

/-- A job with nothing undefined and no output in host memory ends by leaving its press and its signal (R222, R235). -/
theorem finishJob_whole (hj : (s.press p).slot k = some j) (h : EndsWhole j) (host : hostRanges s p j = []) :
    finishJob p k s = signalSlot p k (leavePress p k s) := by
  have flush : ∀ mode, flushAll p k mode s = s := fun mode => by simp [flushAll, hj, host, forL]
  have claim : returnClaim p k s = s := by simp [returnClaim, hj, h.chunk]
  simp only [finishJob, hj, h.internal, h.pulping, h.authentic, Bool.false_and, Bool.false_eq_true, if_false, flush, ite_self,
    claim]
  rfl

/-- So it closes: the passes, the macros and the signal change nothing else. -/
theorem JobCloses.finishJob (hj : (s.press p).slot k = some j) (h : EndsWhole j) (host : hostRanges s p j = []) :
    JobCloses p k j s (finishJob p k s) := by
  rw [finishJob_whole hj h host]
  have drop : JobWrites p k .nothing s (s.updPress p (dropPasses k)) := .keepPasses _
  have post : JobEnds p k .nothing s ((s.updPress p (dropPasses k)).updJob p k Job.posted) := drop.toJobEnds.trans (.updJob _)
  have slot : (((s.updPress p (dropPasses k)).updJob p k Job.posted).press p).slot k = some j.posted := by
    rw [State.slot_updJob, if_pos ⟨rfl, rfl⟩, State.press_updPress, if_pos rfl]
    show ((s.press p).slot k).map Job.posted = _
    rw [hj]
    rfl
  have settle : JobWrites p k .nothing _ (leavePress p k s) := .settleMacros
  have signal : JobWrites p k .nothing _ (signalSlot p k (leavePress p k s)) := .signalSlot
  have ends : JobEnds p k .nothing s (signalSlot p k (leavePress p k s)) := post.trans (settle.trans signal).toJobEnds
  obtain ⟨j', hj', same⟩ := (settle.trans signal).slot slot
  obtain ⟨j₁, hj₁, same₁⟩ := settle.slot slot
  obtain ⟨due, counters, e, kept⟩ := signalSlot_eq hj₁
  have desc₁ : j₁.desc = j.desc := (congrArg Job.desc same₁ :)
  constructor
  case ended =>
    exact ⟨⟨j', hj', (congrArg Job.state same :), (congrArg Job.desc same :), (congrArg Job.sqIndex same :),
      (congrArg jobStatus same :)⟩, ends.slots⟩
  case own => exact ends.own
  case scratch =>
    rw [e]
    show (((leavePress p k s).updJob p k _).press p).scratch = _
    simp [leavePress, State.updJob, PressRec.setSlot, settleMacros, dropPasses, keepPasses]
  case others =>
    intro r hr
    rw [e]
    show ((leavePress p k s).updJob p k _).press r = _
    simp [leavePress, State.updJob, hr]
  case counters =>
    intro c hc
    rw [e]
    exact kept c (desc₁ ▸ hc)
  case frame =>
    obtain ⟨presses, left⟩ := leavePress_frame p k s
    rw [e, left]
    rfl

/-- What is noted in a job before it ends is part of its end. -/
theorem JobCloses.of_updJob {f : Job → Job} (h : JobCloses p k j (s.updJob p k f) t) : JobCloses p k j s t where
  ended := h.ended.imp_right fun slots i hi => by rw [slots i hi, State.slot_updJob, if_neg fun e => hi e.2]
  own := (JobEnds.updJob (k := k) (w := .nothing) f).own.trans h.own
  scratch := by rw [h.scratch]; simp [State.updJob, PressRec.setSlot]
  others r hr := by rw [h.others r hr]; simp [State.updJob, hr]
  counters := h.counters
  frame := by rw [h.frame]; rfl

/-- The scratch of every press stays when a job closes. -/
theorem JobCloses.scratch_eq (h : JobCloses p k j s t) (r : Nat) : (t.press r).scratch = (s.press r).scratch := by
  by_cases hr : r = p
  · exact hr ▸ h.scratch
  · rw [h.others r hr]

/-- A press keeps its data when its jobs end. -/
theorem OwnWork.kept {r r' : PressRec} (h : OwnWork r r') : Safety.PressKept r r' := by
  have record : ∀ {α : Type} (g : PressRec → α), g r'.apartWork = g r.apartWork := fun g => congrArg g h.record
  have plate : ∀ {α : Type} (g : PlateRec → α) (q : Nat), g (r'.plate q).apartPasses = g (r.plate q).apartPasses :=
    fun g q => congrArg g (h.plate q)
  have bank : ∀ {α : Type} (g : Bank → α) (b : Nat), g (r'.bank b).apartPasses = g (r.bank b).apartPasses :=
    fun g b => congrArg g (h.bank b)
  have stipple : ∀ {α : Type} (g : MacroRec → α) (m : Nat), g (r'.macro' m).apartUse = g (r.macro' m).apartUse :=
    fun g m => congrArg g (h.stipple m)
  exact ⟨record PressRec.state, record PressRec.felt, record PressRec.thermal, record PressRec.engraving,
    record PressRec.placed, fun q => ⟨plate PlateRec.state q, plate PlateRec.codes q, plate PlateRec.epoch q⟩,
    fun b => ⟨bank Bank.outputAcc b, bank Bank.regs b, bank Bank.sliceTrim b⟩,
    fun m => ⟨stipple MacroRec.weights m, stipple MacroRec.acc m, stipple MacroRec.valid m, stipple MacroRec.scale m⟩⟩

/-- A press of the device keeps its data when a job closes. -/
theorem JobCloses.kept (h : JobCloses p k j s t) (r : Nat) : Safety.PressKept (s.press r) (t.press r) := by
  by_cases hr : r = p
  · exact hr ▸ h.own.kept
  · rw [h.others r hr]
    exact (OwnWork.refl _).kept

end Sys2Proof.Machine

end

section
/-! SUPPORT. The results of a vector job (R193, R194, R226): the counts and draws of its operation, and a result in scratch. -/

namespace Sys2Proof.Machine

variable {p k : Nat} {s t : State} {j : Job} {v : VectorParams} {rs : List Range} {x : VecResult}

/-! ## A result in scratch -/

/-- Bytes read back where they were written. -/
theorem tgetN_tputL {α : Type} [DecidableEq α] (d : α) (l : List α) (m : Tab α) (o : Nat) :
    tgetN d (tputL d m o l) o l.length = l := by
  induction l generalizing m o with
  | nil => rfl
  | cons a l ih =>
    have first : tget d (tputL d (tput d m o a) (o + 1) l) o = a := by
      rw [tget_tputL_out _ _ _ _ (.inl (Nat.lt_succ_self o)), tget_tput_self]
    rw [List.length_cons, tgetN, tputL, first, ih]

/-- Only an optimiser step leaves bytes open where its arrays overlap (R210). -/
theorem overlapped_vector (ho : j.desc.opcode = opVector) (hv : j.vp = some v) (hw : v.op.toNat ≠ vopAdamw)
    (hm : v.op.toNat ≠ vopSgdm) (a : Addr) (i : Nat) : overlapped s p j a i = false := by
  have plate : ¬(j.desc.opcode = opPlate ∨ j.desc.opcode = opStipple) := by rw [ho]; decide
  simp only [overlapped, if_neg plate, hv]
  simp [hw, hm]

/-- Bytes put in the scratch of a press. -/
def putScratch (q o : Nat) (bytes : List Byte) (s : State) : State :=
  s.updPress q fun r => { r with scratch := tputL 0 r.scratch o bytes }

theorem putScratch_press (q o : Nat) (bytes : List Byte) (s : State) (r : Nat) :
    (putScratch q o bytes s).press r =
      if r = q then { s.press q with scratch := tputL 0 (s.press q).scratch o bytes } else s.press r :=
  tget_tput _ _ _ _

/-- A result of an operation that is no optimiser step lands at its scratch address, on a press that is not RETIRING (R19,
R226). -/
theorem writeOut_scratch {e o q : Nat} {bytes : List Byte} (hj : (s.press p).slot k = some j)
    (apart : ∀ a i, overlapped s p j a i = false) (hq : s.physPress j.desc.vat.toNat e = some q)
    (hr : (s.press q).state ≠ .retiring) : writeOut p k (.scratch e o) bytes s = putScratch q o bytes s := by
  simp [writeOut, hj, apart, writeAddr, hq, hr, putScratch]

/-! ## The counts and draws of an operation -/

/-- The state in which an operation writes its results: what it read and its lane operations are counted, and its draws taken
(R197, R360). -/
def countVector (p : Nat) (j : Job) (v : VectorParams) (rs : List Range) (x : VecResult) (s : State) : State :=
  let vat := j.desc.vat.toNat
  let s := countExact vat 3 ((rs.map fun r => pkgBytes r.addr r.len).foldl (· + ·) 0) s
  let s := countExact vat 2 (laneOps v) s
  let s := s.updPress p fun r => { r with draws := r.draws + (if v.stochasticRound then vecDraws x.results else 0) }
  { s with free := s.free + 8 * vecDraws x.results + 8 * 64 }

/-- What the completion of a job takes from its operation (R220, R222). -/
def Job.withResult (x : VecResult) (j : Job) : Job := { j with rescaled := x.rescaled, committed := x.committed }

theorem endVector_eq (p k : Nat) (j : Job) (v : VectorParams) (rs : List Range) (x : VecResult) (s : State) :
    endVector p k j v rs x s =
      finishJob p k ((forL x.outs (fun o t => writeOut p k o.1 o.2 t) (countVector p j v rs x s)).updJob p k
        (Job.withResult x)) := rfl

/-- An operation draws from the generator of its own press alone (R197). -/
theorem countVector_press (p : Nat) (j : Job) (v : VectorParams) (rs : List Range) (x : VecResult) (s : State) (r : Nat) :
    (∃ draws, (countVector p j v rs x s).press r = { s.press r with draws := draws }) ∧
      (r ≠ p → (countVector p j v rs x s).press r = s.press r) := by
  have e : (countVector p j v rs x s).press r = if r = p then _ else s.press r := tget_tput _ _ _ _
  by_cases hr : r = p
  · subst hr
    exact ⟨⟨_, e.trans (if_pos rfl)⟩, absurd rfl⟩
  · rw [if_neg hr] at e
    exact ⟨⟨_, e⟩, fun _ => e⟩

/-- An operation counts for its own vat alone (R360). -/
theorem countVector_vat (p : Nat) (j : Job) (v : VectorParams) (rs : List Range) (x : VecResult) (s : State) (w : Nat) :
    let u := countVector p j v rs x s
    u.vat w = { s.vat w with exact := (u.vat w).exact } ∧ (w ≠ j.desc.vat.toNat → u.vat w = s.vat w) := by
  generalize hn : (rs.map fun r => pkgBytes r.addr r.len).foldl (· + ·) 0 = n
  have e : (countVector p j v rs x s).vat w =
      (countExact j.desc.vat.toNat 2 (laneOps v) (countExact j.desc.vat.toNat 3 n s)).vat w := by rw [← hn]; rfl
  simp only [e, countExact, State.vat_updVat]
  by_cases hw : w = j.desc.vat.toNat
  · simp [hw]
  · simp [hw]

theorem countVector_physPress (p : Nat) (j : Job) (v : VectorParams) (rs : List Range) (x : VecResult) (s : State) :
    (countVector p j v rs x s).physPress = s.physPress := by
  funext w e
  rw [State.physPress, (countVector_vat p j v rs x s w).1, State.physPress]

/-! ## An operation with one result, in scratch -/

/-- Between s and u an operation of vat w on press p was counted, and its result written at offset o of the scratch of
press q. -/
structure ResultWritten (p w q o : Nat) (bytes : List Byte) (s u : State) : Prop where
  press : ∀ r, ∃ draws scratch, u.press r = { s.press r with draws := draws, scratch := scratch }
  written : (u.press q).scratch = tputL 0 (s.press q).scratch o bytes
  scratch : ∀ r, r ≠ q → (u.press r).scratch = (s.press r).scratch
  others : ∀ r, r ≠ p → r ≠ q → u.press r = s.press r
  vat : ∀ i, u.vat i = { s.vat i with exact := (u.vat i).exact } ∧ (i ≠ w → u.vat i = s.vat i)
  frame : u = { s with free := u.free, presses := u.presses, vats := u.vats }

theorem ResultWritten.slot {w q o : Nat} {bytes : List Byte} {u : State} (h : ResultWritten p w q o bytes s u) (i : Nat) :
    (u.press p).slot i = (s.press p).slot i := by
  obtain ⟨draws, scratch, press⟩ := h.press p
  rw [press]
  rfl

/-- Draws and scratch are no part of what a press keeps. -/
theorem ResultWritten.kept {w q o : Nat} {bytes : List Byte} {u : State} {r' : PressRec} {r : Nat}
    (h : ResultWritten p w q o bytes s u) (kept : Safety.PressKept (u.press r) r') : Safety.PressKept (s.press r) r' := by
  obtain ⟨draws, scratch, press⟩ := h.press r
  rw [press] at kept
  exact kept

/-- What is counted and drawn before the result is put in scratch stays apart from it. -/
theorem resultWritten_putScratch (p : Nat) (j : Job) (v : VectorParams) (rs : List Range) (x : VecResult) (s : State)
    (q o : Nat) (bytes : List Byte) :
    ResultWritten p j.desc.vat.toNat q o bytes s (putScratch q o bytes (countVector p j v rs x s)) := by
  have put := putScratch_press q o bytes (countVector p j v rs x s)
  have drawn := fun r => (countVector_press p j v rs x s r).1
  constructor
  case press =>
    intro r
    obtain ⟨draws, drawn⟩ := drawn r
    by_cases hr : r = q
    · subst hr
      exact ⟨draws, _, by rw [put, if_pos rfl, drawn]⟩
    · exact ⟨draws, _, by rw [put, if_neg hr, drawn]⟩
  case written =>
    obtain ⟨draws, drawn⟩ := drawn q
    rw [put, if_pos rfl, drawn]
  case scratch =>
    intro r hr
    obtain ⟨draws, drawn⟩ := drawn r
    rw [put, if_neg hr, drawn]
  case others =>
    intro r hp hq
    rw [put, if_neg hq, (countVector_press p j v rs x s r).2 hp]
  case vat => exact countVector_vat p j v rs x s
  case frame => rfl

/-- The state in which the job of an operation with one result, in scratch, ends. -/
theorem endVector_scratch {e o q : Nat} {bytes : List Byte} (hj : (s.press p).slot k = some j)
    (apart : ∀ t a i, overlapped t p j a i = false) (outs : x.outs = [(.scratch e o, bytes)])
    (hq : s.physPress j.desc.vat.toNat e = some q) (hr : (s.press q).state ≠ .retiring) :
    endVector p k j v rs x s =
      finishJob p k ((putScratch q o bytes (countVector p j v rs x s)).updJob p k (Job.withResult x)) := by
  have slot : ((countVector p j v rs x s).press p).slot k = some j := by
    obtain ⟨draws, drawn⟩ := (countVector_press p j v rs x s p).1
    rw [drawn]
    exact hj
  have state : ((countVector p j v rs x s).press q).state ≠ .retiring := by
    obtain ⟨draws, drawn⟩ := (countVector_press p j v rs x s q).1
    rw [drawn]
    exact hr
  have write := writeOut_scratch (o := o) (bytes := bytes) slot (apart _)
    ((congrArg (· j.desc.vat.toNat e) (countVector_physPress p j v rs x s)).trans hq) state
  rw [endVector_eq, outs, ← write]
  rfl

end Sys2Proof.Machine

namespace Sys2Proof.Settled

open Sys2Proof.Machine Sys2Proof.Safety

/-- Settles O41: the operation is counted, its result put in scratch, and its job closes. -/
theorem vectorResultsLand : Obligations.VectorResultsLand := by
  intro p k s t j v rs x e o q bytes hj clean ho hv hw hm host outs hq hr ht
  obtain ⟨internal, -, pulping, authentic, -, -, -, -, chunk⟩ := clean
  rw [endVector_scratch hj (fun _ => overlapped_vector ho hv hw hm) outs hq hr] at ht
  have result := resultWritten_putScratch p j v rs x s q o bytes
  generalize putScratch q o bytes (countVector p j v rs x s) = u at ht result
  have closes : JobCloses p k (j.withResult x) u t := by
    have slot : ((u.updJob p k (Job.withResult x)).press p).slot k = some (j.withResult x) := by
      rw [State.slot_updJob, if_pos ⟨rfl, rfl⟩, result.slot, hj]
      rfl
    have whole : EndsWhole (j.withResult x) := ⟨internal, pulping, authentic, chunk⟩
    exact ht ▸ (JobCloses.finishJob slot whole ((hostRanges_congr s ..).trans host)).of_updJob
  have vat : t.vat = u.vat := by rw [closes.frame]; rfl
  have counter : u.counter = s.counter := by rw [result.frame]; rfl
  have scratch : (t.press q).scratch = tputL 0 (s.press q).scratch o bytes := (closes.scratch_eq q).trans result.written
  obtain ⟨ended, slots⟩ := closes.ended
  refine ⟨⟨ended, fun i hi => (slots i hi).trans (result.slot i)⟩, ⟨?_, fun a ha => ?_⟩,
    fun r hr => (closes.scratch_eq r).trans (result.scratch r hr),
    fun r hp hq => (closes.others r hp).trans (result.others r hp hq), fun r => result.kept (closes.kept r),
    fun w => ?_, fun w hw => ?_, fun c hc => ?_, ?_⟩
  · rw [scratch, tgetN_tputL]
  · rw [scratch, tget_tputL_out _ _ _ _ ha]
  · rw [vat]
    exact (result.vat w).1
  · rw [vat]
    exact (result.vat w).2 hw
  · rw [closes.counters c hc, counter]
  · rw [closes.frame, result.frame]

end Sys2Proof.Settled

end

section
/-! SUPPORT. How plate, stipple, load and drain jobs start (R232, R234, R241): what their commands do through the start alone,
the epoch barrier, and a job that a check ends. -/

namespace Sys2Proof.Machine

variable {p k : Nat} {op : BitVec 8} {free : State → Nat → Job → Bool} {s t : State} {j j' : Job}

/-! ## A job that a check ends -/

/-- Between s and t a check ended the job j in slot k of press p with a status. -/
structure JobFails (p k : Nat) (j : Job) (status : BitVec 8) (s t : State) : Prop where
  ended : Safety.JobEnded s t p k j status
  kept : Safety.PressKept (s.press p) (t.press p)
  others : ∀ q, q ≠ p → t.press q = s.press q
  silent : j.desc.signalOnDone = false → t.counters = s.counters
  frame : t = { s with presses := t.presses, counters := t.counters }

theorem failJob_fails (hj : (s.press p).slot k = some j) (status cause : BitVec 8) :
    JobFails p k j status s (failJob p k status cause s) := by
  obtain ⟨slot, slots⟩ := failJob_slot (status := status) (cause := cause) hj
  have frame := failJob_frame p k status cause s
  have press : (failJob p k status cause s).press = (s.updJob p k fun j =>
      { j with state := .posting, barrier := false, checkStatus := some status, cause := cause }).press := by
    simp only [failJob, hj]
    rw [signalDone_frame]
    rfl
  constructor
  case ended => exact ⟨⟨_, slot, rfl, rfl, rfl, rfl⟩, fun i hi => slots p i fun e => hi e.2⟩
  case kept =>
    rw [press, State.updJob, State.press_updPress, if_pos rfl]
    exact (OwnWork.refl (s.press p)).kept
  case others =>
    intro q hq
    rw [press, State.updJob, State.press_updPress, if_neg hq]
  case silent =>
    intro quiet
    simp only [failJob, hj, signalDone, quiet]
    rfl
  case frame => exact frame

/-! ## The epoch barrier -/

/-- A job at no epoch barrier has none to be released. -/
theorem releaseBarrier_open (hj : (s.press p).slot k = some j) (h : j.barrier = false) : releaseBarrier p k s = s := by
  simp [releaseBarrier, hj, h]

/-- A job waits at its barrier while a plate of its set holds another epoch (R241). -/
theorem releaseBarrier_waits (hj : (s.press p).slot k = some j) (h : epochCheck s p j.desc = .wait) :
    releaseBarrier p k s = s := by
  simp only [releaseBarrier, hj, h, ite_self]

/-- The barrier of a waiting job is released when its plates hold its epoch and pass their checks (R218, R241). -/
theorem releaseBarrier_releases (hj : (s.press p).slot k = some j) (hw : j.state = .waiting) (hb : j.barrier = true)
    (he : epochCheck s p j.desc = .run) (hc : plateCause s p j false = none) :
    releaseBarrier p k s = s.setSlot p k (some { j with barrier := false }) := by
  refine Eq.trans ?_ (State.updJob_eq_setSlot hj fun j => { j with barrier := false })
  simp only [releaseBarrier, hj, hw, hb, he, hc, and_self, if_true]

/-- A waiting job at its barrier ends with EPOCH or SHAPE (R218, R241). -/
theorem releaseBarrier_fails {status cause : BitVec 8} (hj : (s.press p).slot k = some j) (hw : j.state = .waiting)
    (hb : j.barrier = true) (h : (epochCheck s p j.desc = .mismatch ∧ status = stEpoch ∧ cause = 0) ∨
      (epochCheck s p j.desc = .run ∧ plateCause s p j false = some cause ∧ status = stShape)) :
    releaseBarrier p k s = failJob p k status cause s := by
  rcases h with ⟨he, rfl, rfl⟩ | ⟨he, hc, rfl⟩
  · simp only [releaseBarrier, hj, hw, hb, he, and_self, if_true]
  · simp only [releaseBarrier, hj, hw, hb, he, hc, and_self, if_true]

/-! ## Starting -/

/-- A command for jobs of another opcode starts nothing (R212). -/
theorem startJob_other (hj : (s.press p).slot k = some j) (ho : j.desc.opcode ≠ op) : startJob op free p k s = s := by
  simp only [startJob, hj, Option.map_some, ne_eq, Option.some.injEq, ho, not_false_eq_true, if_true]

/-- A job starts when, its barrier released, its waits are over, its press issues work and no earlier job keeps all of its work
from it (R232, R234). -/
theorem startJob_eq (hj : (s.press p).slot k = some j) (ho : j.desc.opcode = op) (hr : releaseBarrier p k s = t)
    (hj' : (t.press p).slot k = some j') :
    startJob op free p k s =
      if startReady t p j' = true ∧ pressIssues t p = true ∧ free t p j' = true
      then t.setSlot p k (some { j' with state := .running }) else t := by
  simp only [startJob, hj, ho, hr, hj', Option.map_some, ne_eq, not_true_eq_false, if_false, State.updJob_eq_setSlot hj']

/-- A job that is not ready stays. -/
theorem startJob_stays (hj : (s.press p).slot k = some j) (ho : j.desc.opcode = op) (hr : releaseBarrier p k s = t)
    (hj' : (t.press p).slot k = some j')
    (h : startReady t p j' = false ∨ pressIssues t p = false ∨ free t p j' = false) : startJob op free p k s = t := by
  rw [startJob_eq hj ho hr hj']
  refine if_neg fun ⟨ready, issues, clear⟩ => ?_
  rcases h with h | h | h
  · exact Bool.false_ne_true (h.symm.trans ready)
  · exact Bool.false_ne_true (h.symm.trans issues)
  · exact Bool.false_ne_true (h.symm.trans clear)

/-- A job at an epoch barrier does not start (R232). -/
theorem startReady_barrier (h : j.barrier = true) : startReady s p j = false := by
  simp [startReady, h]

theorem startReady_posting (h : j.state = .posting) : startReady s p j = false := by
  simp [startReady, h]

/-- A job that has been started is not started again (R232). -/
theorem startJob_running (hj : (s.press p).slot k = some j) (ho : j.desc.opcode = op) (hs : j.state = .running) :
    startJob op free p k s = s := by
  have released : releaseBarrier p k s = s := by simp [releaseBarrier, hj, hs]
  exact startJob_stays hj ho released hj (.inl (startReady_running hs))

/-- No job runs an opcode in a slot whose job is of another one, or does not run. -/
theorem runningJob_none (hj : (s.press p).slot k = some j) (h : j.desc.opcode ≠ op ∨ j.state ≠ .running) :
    runningJob s p k op = none := by
  simp only [runningJob, hj]
  refine if_neg fun ⟨running, same, _⟩ => ?_
  exact h.elim (absurd same) (absurd running)

/-! ## The commands of jobs that start by their opcode -/

/-- A command gives the job of a slot its start, and works on from there, if the job runs (R232, R234). -/
structure StartsAndRuns (op : BitVec 8) (free : State → Nat → Job → Bool) (p k : Nat) (c : Instr) : Prop where
  same : ∀ {s t : State}, startJob op free p k s = startJob op free p k t → exec c s = exec c t
  idle : ∀ {s : State}, runningJob (startJob op free p k s) p k op = none → exec c s = .next (startJob op free p k s)

theorem startsAndRuns_plate (p : Press) (k : Slot) : StartsAndRuns opPlate platesFree p k (.plate p k) where
  same e := by simp only [exec, execPlate, e]
  idle e := by simp only [exec, execPlate, e]

theorem startsAndRuns_stipple (p : Press) (k : Slot) :
    StartsAndRuns opStipple (fun s p j => !(jobMacros j.desc).any (macroWaits s p j)) p k (.stipple p k) where
  same e := by simp only [exec, execStipple, e]
  idle e := by simp only [exec, execStipple, e]

theorem startsAndRuns_macroLoad (p : Press) (k : Slot) : StartsAndRuns opMacroLoad loadMayStart p k (.macroLoad p k) where
  same e := by simp only [exec, execMacroLoad, e]
  idle e := by simp only [exec, execMacroLoad, e]

theorem startsAndRuns_drainRead (p : Press) (k : Slot) (since : Nat) :
    StartsAndRuns opDrainRead (fun _ _ _ => true) p k (.drainRead p k since) where
  same e := by simp only [exec, execDrainRead, acceptDrain, e]
  idle e := by simp only [exec, execDrainRead, acceptDrain, e]

theorem startsAndRuns_drainClear (p : Press) (k : Slot) (since : Nat) :
    StartsAndRuns opDrainClear (fun _ _ _ => true) p k (.drainClear p k since) where
  same e := by simp only [exec, execDrainClear, acceptDrain, e]
  idle e := by simp only [exec, execDrainClear, acceptDrain, e]

namespace StartsAndRuns

variable {c : Instr} (starts : StartsAndRuns op free p k c)
include starts

theorem other (hj : (s.press p).slot k = some j) (ho : j.desc.opcode ≠ op) : exec c s = .next s := by
  have stays : startJob op free p k s = s := startJob_other hj ho
  rw [starts.idle (stays.symm ▸ runningJob_none hj (.inl ho)), stays]

/-- The command does nothing but release the barrier where the job then does not run. -/
theorem released (hj : (s.press p).slot k = some j) (ho : j.desc.opcode = op) (hr : releaseBarrier p k s = t)
    (hj' : (t.press p).slot k = some j') (hs : j'.state ≠ .running)
    (h : startReady t p j' = false ∨ pressIssues t p = false ∨ free t p j' = false) : exec c s = .next t := by
  have stays : startJob op free p k s = t := startJob_stays hj ho hr hj' h
  rw [starts.idle (stays.symm ▸ runningJob_none hj' (.inr hs)), stays]

/-- A waiting job at no barrier that cannot start stays, of whatever opcode it is. -/
theorem waits (hj : (s.press p).slot k = some j) (hw : j.state = .waiting) (hb : j.barrier = false)
    (h : startReady s p j = false ∨ pressIssues s p = false ∨ free s p j = false) : exec c s = .next s := by
  by_cases ho : j.desc.opcode = op
  · exact starts.released hj ho (releaseBarrier_open hj hb) hj (by rw [hw]; exact SlotSt.noConfusion) h
  · exact starts.other hj ho

/-- A job that can start is run as one that runs already. -/
theorem runs (hj : (s.press p).slot k = some j) (ho : j.desc.opcode = op) (ready : startReady s p j = true)
    (issues : pressIssues s p = true) (clear : free s p j = true) :
    exec c s = exec c (s.setSlot p k (some { j with state := .running })) := by
  refine starts.same ?_
  rw [startJob_eq hj ho (releaseBarrier_open hj (barrier_of_startReady ready)) hj, if_pos ⟨ready, issues, clear⟩]
  exact (startJob_running (j := { j with state := .running }) (s.slot_setSlot p k _) ho rfl).symm

/-- A job whose barrier is released is taken as one that has none. -/
theorem passes (hj : (s.press p).slot k = some j) (ho : j.desc.opcode = op) (hw : j.state = .waiting) (hb : j.barrier = true)
    (he : epochCheck s p j.desc = .run) (hc : plateCause s p j false = none) :
    exec c s = exec c (s.setSlot p k (some { j with barrier := false })) := by
  have slot := s.slot_setSlot p k (some { j with barrier := false })
  refine starts.same ?_
  rw [startJob_eq hj ho (releaseBarrier_releases hj hw hb he hc) slot,
    startJob_eq slot ho (releaseBarrier_open slot rfl) slot]

/-- A job that ends at its barrier is not run. -/
theorem fails {status cause : BitVec 8} (hj : (s.press p).slot k = some j) (ho : j.desc.opcode = op)
    (hw : j.state = .waiting) (hb : j.barrier = true)
    (h : (epochCheck s p j.desc = .mismatch ∧ status = stEpoch ∧ cause = 0) ∨
      (epochCheck s p j.desc = .run ∧ plateCause s p j false = some cause ∧ status = stShape)) :
    exec c s = .next (failJob p k status cause s) :=
  starts.released hj ho (releaseBarrier_fails hj hw hb h) (failJob_slot hj).1 SlotSt.noConfusion
    (.inl (startReady_posting rfl))

end StartsAndRuns

end Sys2Proof.Machine

namespace Sys2Proof.Settled

open Sys2Proof.Machine

/-- Settles O44: each command works through the start of its job alone, and the start through the barrier. -/
theorem jobsStart : Obligations.JobsStart := by
  refine ⟨fun p k since s j e hj he => ?_, fun p k s j hj ho hw hb => ?_⟩
  · have command : ∃ free, StartsAndRuns e.2.1 free p k e.1 ∧ free s p j = e.2.2 := by
      simp only [List.mem_cons, List.not_mem_nil, or_false] at he
      rcases he with rfl | rfl | rfl | rfl | rfl
      · exact ⟨_, startsAndRuns_plate p k, rfl⟩
      · exact ⟨_, startsAndRuns_stipple p k, rfl⟩
      · exact ⟨_, startsAndRuns_macroLoad p k, rfl⟩
      · exact ⟨_, startsAndRuns_drainRead p k since, rfl⟩
      · exact ⟨_, startsAndRuns_drainClear p k since, rfl⟩
    obtain ⟨free, starts, clear⟩ := command
    rw [← clear]
    exact ⟨starts.other hj, starts.waits hj, starts.runs hj⟩
  · have starts := startsAndRuns_plate p k
    refine ⟨fun he => ?_, starts.passes hj ho hw hb, fun st c h => ?_⟩
    · exact starts.released hj ho (releaseBarrier_waits hj he) hj (by rw [hw]; exact SlotSt.noConfusion)
        (.inl (startReady_barrier hb))
    · obtain ⟨ended, kept, others, silent, frame⟩ := failJob_fails hj st c
      exact ⟨_, starts.fails hj ho hw hb h, ended, fun q hq => others q (Fin.val_ne_of_ne hq), kept, silent, frame⟩

end Sys2Proof.Settled

end

section
/-! SUPPORT. COUNTER_SET, polling and claims (R235 to R239): how the counter bank answers a claim, and what a job that ends does
to the work counters. -/

namespace Sys2Proof.Machine

variable {p k c i : Nat} {s t : State} {j : Job}

/-! ## The work counters when a job ends -/

/-- A signal keeps every claim ledger, and a job without SignalOnDone gives none (R235). -/
theorem signalSlot_counters (hj : (s.press p).slot k = some j) :
    (∀ c, ((signalSlot p k s).counter c).ledger = (s.counter c).ledger) ∧
      (j.desc.signalOnDone = false → (signalSlot p k s).counters = s.counters) := by
  simp only [signalSlot, hj, signalDone]
  split
  · exact ⟨fun _ => rfl, fun _ => rfl⟩
  · split
    case isTrue signals =>
      refine ⟨fun c => ?_, fun quiet => absurd signals (by rw [quiet]; exact Bool.false_ne_true)⟩
      simp only [counterSignal, State.counter_updCounter]
      split
      · rename_i e
        subst e
        rfl
      · rfl
    case isFalse => exact ⟨fun _ => rfl, fun _ => rfl⟩

theorem leavePress_slot (hj : (s.press p).slot k = some j) : ((leavePress p k s).press p).slot k = some j.posted := by
  rw [leavePress, State.press_updPress, if_pos rfl]
  change (((s.updPress p (dropPasses k)).updJob p k Job.posted).press p).slot k = _
  rw [State.slot_updJob, if_pos ⟨rfl, rfl⟩, State.press_updPress, if_pos rfl]
  change ((s.press p).slot k).map Job.posted = _
  rw [hj]
  rfl

/-- A job that ends whole keeps the claim ledgers, and without SignalOnDone the work counters. -/
theorem finishJob_counters (hj : (s.press p).slot k = some j) (h : EndsWhole j) (host : hostRanges s p j = []) :
    (∀ c, ((finishJob p k s).counter c).ledger = (s.counter c).ledger) ∧
      (j.desc.signalOnDone = false → (finishJob p k s).counters = s.counters) := by
  rw [finishJob_whole hj h host]
  have signal := signalSlot_counters (leavePress_slot hj)
  exact signal

theorem EndsWhole.of_clean (h : Safety.CleanJob j) : EndsWhole j := by
  obtain ⟨internal, -, pulping, authentic, -, -, -, -, chunk⟩ := h
  exact ⟨internal, pulping, authentic, chunk⟩

/-- A job for which no outcome was noted ends DONE, where it was not issued again (R222). -/
theorem jobStatus_clean (h : Safety.CleanJob j) (first : j.reissued = false) : jobStatus j = stDone := by
  obtain ⟨internal, resetting, pulping, authentic, skew, rescaled, saturated, check, -⟩ := h
  simp [jobStatus, internal, resetting, pulping, authentic, skew, rescaled, saturated, check, first]

/-! ## A slot written -/

theorem setSlot_kept (p k : Nat) (o : Option Job) (s : State) :
    Safety.PressKept (s.press p) ((s.setSlot p k o).press p) := by
  rw [State.setSlot, State.press_updPress, if_pos rfl]
  exact (OwnWork.refl (s.press p)).kept

theorem setSlot_others {q : Nat} (hq : q ≠ p) (k : Nat) (o : Option Job) (s : State) :
    (s.setSlot p k o).press q = s.press q := by
  rw [State.setSlot, State.press_updPress, if_neg hq]

theorem setSlot_slots {i : Nat} (hi : i ≠ k) (p : Nat) (o : Option Job) (s : State) :
    ((s.setSlot p k o).press p).slot i = (s.press p).slot i := by
  rw [State.setSlot, State.press_updPress, if_pos rfl, PressRec.slot_setSlot, if_neg hi]

/-! ## COUNTER_SET -/

/-- A COUNTER_SET job with its unused flags clear gives no signal, and no COUNTER_SET job has output (R212, R237). -/
theorem counterSet_silent (ho : j.desc.opcode = opCounterSet) (hd : usedFields j.desc = j.desc) :
    j.desc.signalOnDone = false := by
  have unused : (usedFields j.desc).signalOnDone = false := by
    simp only [usedFields, ho]
    exact Bool.and_eq_false_iff.mpr (.inr (by decide))
  rwa [hd] at unused

theorem counterSet_ranges (s : State) (p : Nat) (ho : j.desc.opcode = opCounterSet) : hostRanges s p j = [] := by
  have none : jobRanges s p j = [] := by
    simp [jobRanges, ho, opCounterSet, opPlate, opStipple, opMacroLoad, opDrainRead, opDrainClear, opVector]
  simp [hostRanges, none]

theorem exec_counterSet (p : Press) (k : Slot) (hj : (s.press p).slot k = some j) (ho : j.desc.opcode = opCounterSet)
    (ready : startReady s p j = true) (issues : pressIssues s p = true) :
    exec (.counterSet p k) s =
      if (s.counter (counterNo j.desc.vat.toNat j.desc.claimCounter.toNat)).ledger = []
      then .next (finishJob p k (s.setCounter (counterNo j.desc.vat.toNat j.desc.claimCounter.toNat)
        { limit := BitVec.ofNat 64 j.m }))
      else .next s := by
  simp only [exec, execCounterSet, hj, ho, ready, issues, true_and]

/-! ## Polling -/

theorem exec_counterPoll (p : Press) (k : Slot) (hj : (s.press p).slot k = some j) :
    exec (.counterPoll p k) s =
      if j.state = .waiting ∧ (!j.counterMet) = true ∧ counterReached s j.desc = true
      then .next (s.setSlot p k (some { j with counterMet := true })) else .next s := by
  simp only [exec, execCounterPoll, hj, State.updJob_eq_setSlot hj]

/-! ## Claims -/

/-- The counter after a claim was answered with an index (R239). -/
def Counter.claimed (p : Press) (i : Nat) (r : Counter) : Counter :=
  { r with
    ledger := r.ledger ++ [(p, i)], returns := r.returns.tail, value := if r.returns = [] then r.value + 1 else r.value }

theorem claimFetchAdd_full {p : Press} (h : 256 ≤ (s.counter c).ledger.length) : claimFetchAdd c p s = (.ledgerFull, s) := by
  simp only [claimFetchAdd, if_pos h]

/-- The oldest returned index is taken first, then the Value (R239). -/
theorem claimFetchAdd_takes {p : Press} (room : (s.counter c).ledger.length < 256)
    (h : (s.counter c).returns.head? = some i ∨
      ((s.counter c).returns = [] ∧ (s.counter c).value < (s.counter c).limit ∧ i = (s.counter c).value.toNat)) :
    claimFetchAdd c p s = (.index i, s.setCounter c ((s.counter c).claimed p i)) := by
  rcases h with h | ⟨none, below, rfl⟩
  · obtain ⟨rest, hr⟩ := List.head?_eq_some_iff.mp h
    simp [claimFetchAdd, Counter.claimed, hr, Nat.not_le.mpr room]
  · simp [claimFetchAdd, Counter.claimed, none, below, Nat.not_le.mpr room]

theorem claimFetchAdd_exhausted {p : Press} (room : (s.counter c).ledger.length < 256) (none : (s.counter c).returns = [])
    (spent : (s.counter c).limit ≤ (s.counter c).value) : claimFetchAdd c p s = (.exhausted, s) := by
  simp [claimFetchAdd, none, Nat.not_le.mpr room, BitVec.not_lt.mpr spent]

/-- The first command for a claim and the retry after LEDGER_FULL ask alike (R238, R239). -/
theorem exec_claim {p : Press} {k : Slot} {cmd : Instr} (hj : (s.press p).slot k = some j) (hs : j.state = .running)
    (hc : j.desc.claimed = true) (none : j.chunk = none) (issues : pressIssues s p = true)
    (h : (cmd = .claimFetchAdd p k ∧ j.ledgerFull = false) ∨ (cmd = .ledgerFullRetry p k ∧ j.ledgerFull = true)) :
    exec cmd s = .next (askClaim p k j s) := by
  have asks : claims s p k = some j := by
    simp only [claims, hj]
    exact if_pos ⟨hs, hc, none, issues⟩
  rcases h with ⟨rfl, full⟩ | ⟨rfl, full⟩
  · simp [exec, execClaimFetchAdd, asks, full]
  · simp [exec, execLedgerFullRetry, asks, full]

/-- The job with the chunk that it was given in hand (R238). -/
def Job.withChunk (i : Nat) (j : Job) : Job :=
  { j with
    chunk := some i, next := 0, doneTokens := 0, tokensDone := [], arrived := [], stale := [], hostDone := [], fed := []
    ledgerFull := false }

/-- The job told that no chunk is left (R239). -/
def Job.unclaimed (j : Job) : Job := { j with exhausted := true, ledgerFull := false }

section
variable {p : Press} {k : Slot} (hj : (s.press p).slot k = some j)
  (hc : c = counterNo j.desc.vat.toNat j.desc.claimCounter.toNat)
include hj hc

theorem askClaim_full (h : 256 ≤ (s.counter c).ledger.length) :
    askClaim p k j s = s.setSlot p k (some { j with ledgerFull := true }) := by
  subst hc
  simp only [askClaim, claimFetchAdd_full h, State.updJob_eq_setSlot hj]

theorem askClaim_takes (room : (s.counter c).ledger.length < 256)
    (h : (s.counter c).returns.head? = some i ∨
      ((s.counter c).returns = [] ∧ (s.counter c).value < (s.counter c).limit ∧ i = (s.counter c).value.toNat))
    (within : i < j.limit) :
    askClaim p k j s = (s.setCounter c ((s.counter c).claimed p i)).setSlot p k (some (j.withChunk i)) := by
  subst hc
  have slot : ∀ c r, ((s.setCounter c r).press p).slot k = some j := fun _ _ => hj
  simp only [askClaim, claimFetchAdd_takes room h, if_pos within]
  exact State.updJob_eq_setSlot (slot ..) _

omit hj in
theorem askClaim_exhausted (room : (s.counter c).ledger.length < 256) (none : (s.counter c).returns = [])
    (spent : (s.counter c).limit ≤ (s.counter c).value) :
    askClaim p k j s = finishJob p k (s.updJob p k Job.unclaimed) := by
  subst hc
  simp only [askClaim, claimFetchAdd_exhausted room none spent]
  rfl

end

end Sys2Proof.Machine

namespace Sys2Proof.Settled

open Sys2Proof.Machine

/-- Settles O38: each command by the counter bank's answer, and the jobs that end by what ends whole. -/
theorem countersAndClaims : Obligations.CountersAndClaims := by
  refine ⟨fun p k s j hj ho ready issues => ?_, fun p k s j hj => ?_,
    fun p k s j c r cmd hj hs claimed none issues hc hr hcmd => ?_⟩
  · rw [exec_counterSet p k hj ho ready issues]
    refine ⟨fun busy => if_neg busy, fun idle hd clean => ⟨_, if_pos idle, ?_⟩⟩
    generalize counterNo j.desc.vat.toNat j.desc.claimCounter.toNat = c at idle ⊢
    have hj' : ((s.setCounter c { limit := BitVec.ofNat 64 j.m }).press p).slot k = some j := hj
    have whole := EndsWhole.of_clean clean
    have closes := JobCloses.finishJob hj' whole (counterSet_ranges _ _ ho)
    have counters := (finishJob_counters hj' whole (counterSet_ranges _ _ ho)).2 (counterSet_silent ho hd)
    have counter : ∀ i, (finishJob p k (s.setCounter c { limit := BitVec.ofNat 64 j.m })).counter i =
        if i = c then { limit := BitVec.ofNat 64 j.m } else s.counter i := by
      intro i
      rw [State.counter, counters]
      exact s.counter_setCounter c i _
    refine ⟨(counter c).trans (if_pos rfl), fun i hi => (counter i).trans (if_neg hi), closes.ended, jobStatus_clean clean,
      fun q hq => closes.others q (Fin.val_ne_of_ne hq), closes.kept p, ?_⟩
    exact closes.frame
  · rw [exec_counterPoll p k hj]
    refine ⟨fun waiting unmet reached => ⟨_, if_pos ⟨waiting, by rw [unmet]; rfl, decide_eq_true reached⟩,
      s.slot_setSlot p k _, fun i hi => setSlot_slots hi p _ s,
      fun q hq => setSlot_others (Fin.val_ne_of_ne hq) k _ s, setSlot_kept p k _ s, rfl⟩, fun h => if_neg ?_⟩
    rintro ⟨-, unmet, reached⟩
    rcases h with met | below
    · rw [met] at unmet
      exact absurd unmet Bool.false_ne_true
    · exact absurd (of_decide_eq_true reached) (Nat.not_le.mpr below)
  · subst hr
    rw [exec_claim hj hs claimed none issues hcmd]
    refine ⟨fun full => ?_, fun i room h within => ?_, fun room empty spent clean host => ?_⟩
    · rw [askClaim_full hj hc full]
      exact ⟨_, rfl, s.slot_setSlot p k _, rfl, fun q hq => setSlot_others (Fin.val_ne_of_ne hq) k _ s⟩
    · rw [askClaim_takes hj hc room h within]
      refine ⟨_, rfl, State.slot_setSlot _ p k _, (s.counter_setCounter c c _).trans (if_pos rfl),
        fun n hn => (s.counter_setCounter c n _).trans (if_neg hn), fun n hn => setSlot_slots hn p _ _,
        fun q hq => setSlot_others (Fin.val_ne_of_ne hq) k _ _, rfl⟩
    · rw [askClaim_exhausted hc room empty spent]
      have slot : ((s.updJob p k Job.unclaimed).press p).slot k = some j.unclaimed := by
        rw [State.slot_updJob, if_pos ⟨rfl, rfl⟩, hj]
        rfl
      have whole : EndsWhole j.unclaimed := by
        obtain ⟨internal, pulping, authentic, chunk⟩ := EndsWhole.of_clean clean
        exact ⟨internal, pulping, authentic, chunk⟩
      have host' : hostRanges (s.updJob p k Job.unclaimed) p j.unclaimed = [] := (hostRanges_congr s _ p j).trans host
      have closes := (JobCloses.finishJob slot whole host').of_updJob
      obtain ⟨ledger, silent⟩ := finishJob_counters slot whole host'
      exact ⟨_, rfl, closes.ended, ledger c, fun q hq => closes.others q (Fin.val_ne_of_ne hq), closes.kept p, silent,
        closes.frame⟩

end Sys2Proof.Settled

end

section
/-! SUPPORT. JOB_PLACEMENT (R216, R218, R232, R233, R273): what the checks of a job read and keep, the bridge's queues, and a job
that enters a slot. -/

namespace Sys2Proof.Machine

variable {st : StreamId} {p k : Nat} {s t u : State} {j j' : Job} {rest : List Job}

/-! ## What the checks of a job change -/

/-- The device apart from what the reads of a check change: package memory, exact counts and events. -/
def State.apartReads (s : State) : State := { s with vats := [], hubs := {}, events := {}, free := 0 }

/-- What stays of a job through its checks: its descriptor, its place in the ring and its placement number. -/
def Job.identity (j : Job) : Descriptor × BitVec 16 × Nat := (j.desc, j.sqIndex, j.order)

theorem uncorrectableError_apartReads (f : Nat) (s : State) : (uncorrectableError f s).apartReads = s.apartReads :=
  (congrArg State.apartReads (uncorrectableError_apartStore f s) :)

theorem readBound_apartReads (p : Nat) (j : Job) (w : Nat) (s : State) : (readBound p j w s).2.apartReads = s.apartReads := by
  unfold readBound
  dsimp only
  split
  · split <;> rfl
  · split
    · split
      · rfl
      · split
        · exact uncorrectableError_apartReads ..
        · rfl
    · rfl

theorem readExtent_apartReads (p : Nat) (j : Job) (indirect : Bool) (x : Nat) (s : State) :
    (readExtent p j indirect x s).2.apartReads = s.apartReads := by
  unfold readExtent
  split
  · exact readBound_apartReads ..
  · rfl

theorem readVectorParams_apartReads (p : Nat) (j : Job) (s : State) :
    (readVectorParams p j s).2.apartReads = s.apartReads := by
  unfold readVectorParams
  dsimp only
  split
  · split
    case h_3 => exact uncorrectableError_apartReads ..
    all_goals rfl
  · rfl

theorem readExtents_apartReads (p : Nat) (j : Job) (s : State) : (readExtents p j s).2.apartReads = s.apartReads := by
  have next : ∀ (b i : Bool) (x : Nat) (t : State), t.apartReads = s.apartReads →
      (if b = true then readExtent p j i x t else (none, t)).2.apartReads = s.apartReads := by
    intro b i x t ht
    split
    · exact (readExtent_apartReads ..).trans ht
    · exact ht
  unfold readExtents
  dsimp only
  split <;> exact next _ _ _ _ (next _ _ _ _ (readExtent_apartReads ..))

theorem readExtents_identity (h : (readExtents p j s).1 = some j') : j'.identity = j.identity := by
  unfold readExtents at h
  dsimp only at h
  split at h
  · cases h
    rfl
  · cases h

theorem checkRest_identity (h : checkRest p j s = .ok j') : j'.identity = j.identity := by
  unfold checkRest at h
  dsimp only at h
  generalize (if j.desc.opcode = opPlate then epochCheck s p j.desc else .run) = e at h
  split at h
  · cases h
  · split at h
    · cases h
    · cases h
      rfl

/-- The checks of R218 change no more than their reads do, and the job that they pass is the one that was placed. -/
theorem deckle_checks (p : Nat) (j : Job) (s : State) :
    (deckle p j s).2.apartReads = s.apartReads ∧ ∀ j', (deckle p j s).1 = .ok j' → j'.identity = j.identity := by
  unfold deckle
  dsimp only
  split
  · exact ⟨rfl, fun _ h => nomatch h⟩
  split
  · have reads := readVectorParams_apartReads p j s
    split
    · rename_i e
      rw [e] at reads
      exact ⟨reads, fun _ h => nomatch h⟩
    · rename_i e
      rw [e] at reads
      split
      · exact ⟨reads, fun _ h => nomatch h⟩
      · split
        · exact ⟨reads, fun _ h => nomatch h⟩
        · exact ⟨reads, fun _ h => (checkRest_identity h).trans rfl⟩
  split
  · have reads := readExtents_apartReads p j s
    split
    · rename_i e
      rw [e] at reads
      exact ⟨reads, fun _ h => nomatch h⟩
    · rename_i e
      have same := readExtents_identity (congrArg Prod.fst e)
      rw [e] at reads
      split
      · exact ⟨reads, fun _ h => nomatch h⟩
      · exact ⟨reads, fun _ h => (checkRest_identity h).trans same⟩
  split
  · have reads := readExtent_apartReads p j (nbit j.desc.extentIndirect.toNat 0) j.desc.m.toNat s
    split
    · rename_i e
      rw [e] at reads
      exact ⟨reads, fun _ h => nomatch h⟩
    · rename_i e
      rw [e] at reads
      exact ⟨reads, fun _ h => (checkRest_identity h).trans rfl⟩
  · exact ⟨rfl, fun _ h => checkRest_identity h⟩

/-! ## The bridge's queues -/

/-- Reserving changes of the jobs that wait their mailbox entries alone (R273). -/
theorem reserveJobs_desc (l : List Job) (m : Tab Mailbox) :
    ((reserveJobs l m).1.map fun x => x.desc) = l.map fun x => x.desc := by
  induction l generalizing m with
  | nil => rfl
  | cons j l ih =>
    unfold reserveJobs
    dsimp only
    split
    · exact congrArg (j.desc :: ·) (ih m)
    · split
      · exact congrArg (j.desc :: ·) (ih _)
      · rfl

theorem reserveWaiting_stream (st : StreamId) (s : State) (i : Nat) : (reserveWaiting st s).stream i =
    if i = st.val then { s.stream st with
      bridge := (reserveJobs (s.stream st).bridge (s.stream st).mailboxes).1
      mailboxes := (reserveJobs (s.stream st).bridge (s.stream st).mailboxes).2 }
    else s.stream i := s.stream_updStream st i _

/-- A job that the bridge ends waits in its stream to be posted, and gives its signal (R216, R235). -/
theorem endInBridge_stream (st : StreamId) (j : Job) (status cause : BitVec 8) (s : State) (i : Nat) :
    (endInBridge st j status cause s).stream i = if i = st.val then { s.stream st with
      ended := (s.stream st).ended ++ [{ j with checkStatus := some status, cause := cause, state := .posting }] }
    else s.stream i := by
  have silent : (if status = stSealFail then s else signalDone j.desc s).stream = s.stream := by
    split
    · rfl
    · rw [signalDone_frame]
      rfl
  rw [endInBridge, State.stream_updStream, silent]

theorem endInBridge_frame (st : StreamId) (j : Job) (status cause : BitVec 8) (s : State) :
    endInBridge st j status cause s = { s with
      streams := (endInBridge st j status cause s).streams, counters := (endInBridge st j status cause s).counters } := by
  unfold endInBridge
  dsimp only
  split
  · rfl
  · rw [signalDone_frame]
    rfl

/-- Between s and t the bridge served stream st, and the same jobs wait there. -/
structure BridgeKeeps (st : StreamId) (s t : State) : Prop where
  jobs : ((t.stream st).bridge.map fun x => x.desc) = (s.stream st).bridge.map fun x => x.desc
  others : ∀ i, i ≠ st.val → t.stream i = s.stream i
  frame : t = { s with streams := t.streams }

namespace BridgeKeeps

theorem refl (st : StreamId) (s : State) : BridgeKeeps st s s := ⟨rfl, fun _ _ => rfl, rfl⟩

theorem trans (h : BridgeKeeps st s t) (h' : BridgeKeeps st t u) : BridgeKeeps st s u where
  jobs := h'.jobs.trans h.jobs
  others i hi := (h'.others i hi).trans (h.others i hi)
  frame := by rw [h'.frame, h.frame]

theorem updStream {f : Stream → Stream}
    (h : ((f (s.stream st)).bridge.map fun x => x.desc) = (s.stream st).bridge.map fun x => x.desc) :
    BridgeKeeps st s (s.updStream st f) where
  jobs := by rw [State.stream_updStream, if_pos rfl, h]
  others i hi := by rw [State.stream_updStream, if_neg hi]
  frame := rfl

theorem reserveWaiting : BridgeKeeps st s (reserveWaiting st s) := updStream (reserveJobs_desc ..)

theorem reserveMailbox (e : Nat) : BridgeKeeps st s (reserveMailbox st e s) := updStream rfl

theorem releaseMailbox (e : Nat) : BridgeKeeps st s (releaseMailbox st e s) := trans (updStream rfl) reserveWaiting

end BridgeKeeps

/-! ## Entering a slot -/

/-- Between s and t a job of the same identity as j entered slot k of press p, which holds it waiting or ready to post. -/
structure TakesSlot (p k : Nat) (j : Job) (s t : State) : Prop where
  job : ∃ j', (t.press p).slot k = some j' ∧ (j'.state = .waiting ∨ j'.state = .posting) ∧ j'.identity = j.identity
  slots : ∀ i, i ≠ k → (t.press p).slot i = (s.press p).slot i
  placed : (t.press p).placed = (s.press p).placed
  others : ∀ q, q ≠ p → t.press q = s.press q
  frame : t = { s with presses := t.presses, counters := t.counters }

theorem TakesSlot.setSlot (h : j'.identity = j.identity) (hw : j'.state = .waiting) :
    TakesSlot p k j s (s.setSlot p k (some j')) where
  job := ⟨j', s.slot_setSlot p k _, .inl hw, h⟩
  slots i hi := by rw [State.setSlot, State.press_updPress, if_pos rfl, PressRec.slot_setSlot, if_neg hi]
  placed := by rw [State.setSlot, State.press_updPress, if_pos rfl]; rfl
  others q hq := by rw [State.setSlot, State.press_updPress, if_neg hq]
  frame := rfl

/-- A job that fails a check at its placement is ready to post in its slot (R218). -/
theorem TakesSlot.failJob (h : j'.identity = j.identity) (status cause : BitVec 8) :
    TakesSlot p k j s (failJob p k status cause (s.setSlot p k (some j'))) := by
  have slot := s.slot_setSlot p k (some j')
  have enters : TakesSlot p k j s (s.setSlot p k (some { j' with state := .waiting })) := .setSlot h rfl
  have same : ∀ i, i ≠ k → ((s.setSlot p k (some j')).press p).slot i = (s.press p).slot i := fun i hi => by
    rw [State.setSlot, State.press_updPress, if_pos rfl, PressRec.slot_setSlot, if_neg hi]
  obtain ⟨⟨-, slots⟩, ⟨-, -, -, -, placed, -⟩, others, -, frame⟩ := failJob_fails slot status cause
  constructor
  case job => exact ⟨_, (failJob_slot slot).1, .inr rfl, h⟩
  case slots => exact fun i hi => (slots i hi).trans (same i hi)
  case placed =>
    refine placed.trans ?_
    rw [State.setSlot, State.press_updPress, if_pos rfl]
    rfl
  case others =>
    intro q hq
    rw [others q hq, State.setSlot, State.press_updPress, if_neg hq]
  case frame =>
    rw [frame]
    rfl

/-- The mailbox entry of a job is reserved as it is placed, unless it has it (R273). -/
def reserveFor (st : StreamId) (m : Option (Fin 4)) (j : Job) (s : State) : State :=
  match m with
  | some e => if j.mailbox.isSome then s else reserveMailbox st e.val s
  | none => s

/-- The mailbox entry of a job that posts in the ring is given back (R270). -/
def releaseFor (st : StreamId) (ring : Bool) (m : Option (Fin 4)) (s : State) : State :=
  match ring, m with
  | true, some e => releaseMailbox st e.val s
  | _, _ => s

/-- A job enters its slot as its checks answer (R218). -/
def enterSlot (st : StreamId) (p k : Nat) (m : Option (Fin 4)) (j : Job) : Checked × State → State
  | (.ok j, s) => s.setSlot p k (some { j with
      state := .waiting, counterMet := !j.desc.waitOnCounter || counterReached s j.desc })
  | (.fails status cause ring, s) => failJob p k status cause
      ((releaseFor st ring m s).setSlot p k (some (if ring then { j with mailbox := none } else j)))

/-- The state in which the checks of a job that enters a slot run. -/
def checkedIn (st : StreamId) (p : Nat) (m : Option (Fin 4)) (j : Job) (s : State) : State :=
  (reserveWaiting st (reserveFor st m j s)).updPress p fun r => { r with placed := r.placed + 1 }

/-- A job with its mailbox entry and its placement number (R233, R273). -/
def Job.numbered (m : Option (Fin 4)) (n : Nat) (j : Job) : Job := { j with mailbox := m, order := n }

theorem BridgeKeeps.reserveFor (m : Option (Fin 4)) (j : Job) : BridgeKeeps st s (reserveFor st m j s) := by
  unfold Machine.reserveFor
  split
  · split
    · exact refl ..
    · exact reserveMailbox _
  · exact refl ..

theorem BridgeKeeps.releaseFor (ring : Bool) (m : Option (Fin 4)) : BridgeKeeps st s (releaseFor st ring m s) := by
  unfold Machine.releaseFor
  split
  · exact releaseMailbox _
  · exact refl ..

theorem BridgeKeeps.press (h : BridgeKeeps st s t) : t.press = s.press := (congrArg State.press h.frame :)

theorem placeJob_eq (st : StreamId) (p k : Nat) (m : Option (Fin 4)) (j : Job) (s : State) :
    placeJob st p k m j s =
      enterSlot st p k m (j.numbered m (s.press p).placed)
        (deckle p (j.numbered m (s.press p).placed) (checkedIn st p m j s)) := by
  have press : (reserveWaiting st (reserveFor st m j s)).press = s.press :=
    ((BridgeKeeps.reserveFor m j).trans .reserveWaiting).press
  rw [← press]
  rfl

/-- Whatever its checks answer, a job enters its slot, and at most its reservation is given back. -/
theorem enterSlot_takes (st : StreamId) (p k : Nat) (m : Option (Fin 4)) (x : Checked × State)
    (h : ∀ j', x.1 = .ok j' → j'.identity = j.identity) :
    ∃ u, BridgeKeeps st x.2 u ∧ TakesSlot p k j u (enterSlot st p k m j x) := by
  obtain ⟨answer, s⟩ := x
  cases answer with
  | ok j' => exact ⟨s, .refl .., .setSlot (h j' rfl) rfl⟩
  | fails status cause ring =>
    refine ⟨_, .releaseFor ring m, .failJob ?_ status cause⟩
    split <;> rfl

/-- Between s and t a job of stream st was placed in slot k of press p under the press's next placement number. -/
structure JobPlaced (st : StreamId) (p k : Nat) (j : Job) (s t : State) : Prop where
  job : ∃ j', (t.press p).slot k = some j' ∧ (j'.state = .waiting ∨ j'.state = .posting) ∧
    j'.identity = (j.desc, j.sqIndex, (s.press p).placed)
  slots : ∀ i, i ≠ k → (t.press p).slot i = (s.press p).slot i
  placed : (t.press p).placed = (s.press p).placed + 1
  presses : ∀ q, q ≠ p → t.press q = s.press q
  bridge : ((t.stream st).bridge.map fun x => x.desc) = (s.stream st).bridge.map fun x => x.desc
  streams : ∀ i, i ≠ st.val → t.stream i = s.stream i
  device : t.dev = s.dev ∧ t.mgmt = s.mgmt ∧ t.hostMem = s.hostMem

theorem placeJob_placed (st : StreamId) (p k : Nat) (m : Option (Fin 4)) (j : Job) (s : State) :
    JobPlaced st p k j s (placeJob st p k m j s) := by
  have begun : BridgeKeeps st s (reserveWaiting st (reserveFor st m j s)) := (BridgeKeeps.reserveFor m j).trans .reserveWaiting
  obtain ⟨reads, same⟩ := deckle_checks p (j.numbered m (s.press p).placed) (checkedIn st p m j s)
  obtain ⟨u, kept, takes⟩ := enterSlot_takes st p k m (deckle p (j.numbered m (s.press p).placed) (checkedIn st p m j s)) same
  rw [placeJob_eq]
  generalize enterSlot st p k m _ _ = t at takes ⊢
  generalize (deckle p (j.numbered m (s.press p).placed) (checkedIn st p m j s)).2 = c at reads kept
  have press : ∀ q, u.press q = if q = p then { s.press p with placed := (s.press p).placed + 1 } else s.press q := by
    intro q
    have same : c.press = (checkedIn st p m j s).press := (congrArg State.press reads :)
    rw [kept.press, same, checkedIn, State.press_updPress, begun.press]
  have stream : ∀ i, t.stream i = u.stream i := fun i => (congrArg (fun x => x.stream i) takes.frame :)
  have stream' : ∀ i, c.stream i = (reserveWaiting st (reserveFor st m j s)).stream i := fun i =>
    (congrArg (fun x => x.stream i) reads :)
  constructor
  case job => exact takes.job
  case slots =>
    intro i hi
    rw [takes.slots i hi, press, if_pos rfl]
    rfl
  case placed => rw [takes.placed, press, if_pos rfl]
  case presses =>
    intro q hq
    rw [takes.others q hq, press, if_neg hq]
  case bridge => rw [stream, kept.jobs, stream', begun.jobs]
  case streams =>
    intro i hi
    rw [stream, kept.others i hi, stream', begun.others i hi]
  case device =>
    have checked : c.dev = (checkedIn st p m j s).dev ∧ c.mgmt = (checkedIn st p m j s).mgmt ∧
        c.hostMem = (checkedIn st p m j s).hostMem :=
      ⟨(congrArg State.dev reads :), (congrArg State.mgmt reads :), (congrArg State.hostMem reads :)⟩
    rw [checkedIn, begun.frame] at checked
    rw [takes.frame, kept.frame]
    exact checked

/-! ## JOB_PLACEMENT -/

/-- The state without the first waiting job of a stream, the entries that the others can have reserved. -/
def nextWaiting (st : StreamId) (rest : List Job) (s : State) : State :=
  reserveWaiting st (s.updStream st fun r => { r with bridge := rest })

/-- A job that the bridge ends at its placement. -/
theorem endInBridge_nextWaiting (st : StreamId) (rest : List Job) (j : Job) (status cause : BitVec 8) (s : State) :
    let t := endInBridge st j status cause (nextWaiting st rest s)
    ((t.stream st).bridge, (t.stream st).mailboxes) = reserveJobs rest (s.stream st).mailboxes ∧ t.presses = s.presses ∧
      (t.stream st).ended =
        (s.stream st).ended ++ [{ j with checkStatus := some status, cause := cause, state := .posting }] := by
  intro t
  have stream : t.stream st = _ := (endInBridge_stream ..).trans (if_pos rfl)
  have waiting : (nextWaiting st rest s).stream st = _ := (reserveWaiting_stream ..).trans (if_pos rfl)
  rw [State.stream_updStream, if_pos rfl] at waiting
  rw [stream, waiting]
  refine ⟨rfl, ?_, rfl⟩
  rw [show t.presses = (nextWaiting st rest s).presses from (congrArg State.presses (endInBridge_frame ..) :)]
  rfl

section
variable (hb : (s.stream st).bridge = j :: rest)
include hb

theorem execJobPlacement_pulping (h : j.vatPulping = true ∨ (s.vat j.desc.vat.toNat).state = .pulping) :
    execJobPlacement st s = .next (endInBridge st j stVatPulping 0 (nextWaiting st rest s)) := by
  simp only [execJobPlacement, hb, if_pos h]
  rfl

theorem execJobPlacement_resetting (hp : j.vatPulping = false) (hv : (s.vat j.desc.vat.toNat).state ≠ .pulping)
    (h : j.vatResetting = true ∨ (s.vat j.desc.vat.toNat).state = .resetting) :
    execJobPlacement st s = .next (endInBridge st j stVatResetting 0 (nextWaiting st rest s)) := by
  simp only [execJobPlacement, hb, hp, hv, Bool.false_eq_true, or_self, if_false, if_pos h]
  rfl

variable (hp : j.vatPulping = false) (hr : j.vatResetting = false) (hv : (s.vat j.desc.vat.toNat).state ≠ .pulping)
  (hw : (s.vat j.desc.vat.toNat).state ≠ .resetting)
  (hq : s.physPress j.desc.vat.toNat j.desc.pressIndex.toNat = some p)
include hp hr hv hw hq

theorem execJobPlacement_waits (h : (s.press p).state ≠ .active ∨ freeSlot (s.press p) = none) :
    execJobPlacement st s = .next s := by
  simp only [execJobPlacement, hb, hp, hr, hv, hw, hq, Bool.false_eq_true, or_self, if_false]
  rcases h with h | h
  · exact if_pos (.inl h)
  · simp only [h, ite_self]

theorem execJobPlacement_places (ha : (s.press p).state = .active) (hk : freeSlot (s.press p) = some k)
    (mine : ∀ e, namedMailbox s p j = some e → j.mailbox.isSome = true ∨ (tget {} (s.stream st).mailboxes e.val).state = .free)
    (reads : placementHeld s j = false) :
    execJobPlacement st s =
      .next (placeJob st p k (namedMailbox s p j) j (s.updStream st fun r => { r with bridge := rest })) := by
  simp only [execJobPlacement, hb, hp, hr, hv, hw, hq, Bool.false_eq_true, or_self, if_false, hk]
  refine if_neg ?_
  rintro (h | h | h)
  · exact h ha
  · split at h
    · rename_i e he
      simp only [Bool.and_eq_true, decide_eq_true_eq] at h
      obtain ⟨unreserved, taken⟩ := h
      rcases mine e he with has | free
      · rw [Option.isNone_iff_eq_none.mp unreserved] at has
        exact absurd has Bool.false_ne_true
      · exact taken free
    · exact absurd h Bool.false_ne_true
  · exact Bool.false_ne_true (reads.symm.trans h)

end

end Sys2Proof.Machine

namespace Sys2Proof.Settled

open Sys2Proof.Machine

/-- Settles O31: the bridge ends a job whose vat is pulped or reset, and else places it, whatever its checks answer. -/
theorem jobPlaced : Obligations.JobPlaced := by
  intro st s j rest hb
  refine ⟨fun h => ?_, fun hp hv h => ?_, fun p hp hr hv hw hq => ⟨fun h => ?_, fun k ha hk mine reads => ?_⟩⟩
  · exact ⟨_, execJobPlacement_pulping hb h, endInBridge_nextWaiting ..⟩
  · exact ⟨_, execJobPlacement_resetting hb hp hv h, endInBridge_nextWaiting ..⟩
  · exact execJobPlacement_waits hb hp hr hv hw hq h
  · obtain ⟨⟨j', slot, state, same⟩, slots, placed, presses, bridge, streams, dev, mgmt, hostMem⟩ :=
      placeJob_placed st p k (namedMailbox s p j) j (s.updStream st fun r => { r with bridge := rest })
    rw [State.stream_updStream, if_pos rfl] at bridge
    obtain ⟨desc, place, order⟩ := Prod.mk.inj same |>.imp_right Prod.mk.inj
    refine ⟨_, execJobPlacement_places hb hp hr hv hw hq ha hk mine reads, bridge, ⟨j', slot, state, desc, place, order⟩,
      placed, slots, fun q hq => presses q (Fin.val_ne_of_ne hq), fun i hi => ?_, dev, mgmt, hostMem⟩
    rw [streams i hi, State.stream_updStream, if_neg hi]

end Sys2Proof.Settled

end

section
/-! SUPPORT. COMPLETION_POST (R222, R232, R265, R269 to R274): a record in the ring, a mailbox entry filled, what else a post
counts, and the swaps that go on when a job has left its slot. -/

namespace Sys2Proof.Machine

variable {st : StreamId} {p k : Nat} {s t u : State} {j : Job} {key : BitVec 128}

/-! ## What a post counts -/

/-- A stream apart from what posts note in it beside the post: its rekey, its SEAL_FAIL count and its posts since the last
message. -/
def Stream.apartNotes (r : Stream) : Stream :=
  { r with state := .free, counterWarn := false, sealFailures := 0, unsignalled := 0 }

/-- Between s and t a post of stream st was noted: counted, signalled, and its sealing counters checked. -/
structure PostNoted (st : StreamId) (s t : State) : Prop where
  stream : (t.stream st).apartNotes = (s.stream st).apartNotes
  others : ∀ i, i ≠ st.val → t.stream i = s.stream i
  swaps : ∀ v, (t.vat v).swap = (s.vat v).swap
  frame : t = { s with streams := t.streams, vats := t.vats, bridge := t.bridge, events := t.events }

namespace PostNoted

theorem refl (st : StreamId) (s : State) : PostNoted st s s := ⟨rfl, fun _ _ => rfl, fun _ => rfl, rfl⟩

theorem trans (h : PostNoted st s t) (h' : PostNoted st t u) : PostNoted st s u where
  stream := h'.stream.trans h.stream
  others i hi := (h'.others i hi).trans (h.others i hi)
  swaps v := (h'.swaps v).trans (h.swaps v)
  frame := by rw [h'.frame, h.frame]

theorem updStream {f : Stream → Stream} (h : (f (s.stream st)).apartNotes = (s.stream st).apartNotes) :
    PostNoted st s (s.updStream st f) where
  stream := by rw [State.stream_updStream, if_pos rfl, h]
  others i hi := by rw [State.stream_updStream, if_neg hi]
  swaps _ := rfl
  frame := rfl

/-- A change of the bridge's own record. -/
theorem bridge (h : t = { s with bridge := t.bridge }) : PostNoted st s t := by
  rw [h]
  exact ⟨rfl, fun _ _ => rfl, fun _ => rfl, rfl⟩

theorem events (h : t = { s with events := t.events }) : PostNoted st s t := by
  rw [h]
  exact ⟨rfl, fun _ _ => rfl, fun _ => rfl, rfl⟩

theorem checkRekey (st : StreamId) (s : State) : PostNoted st s (checkRekey st s) := by
  simp only [Machine.checkRekey]
  split
  · exact refl ..
  · split
    · exact (updStream (f := fun r => { r with state := .rekey, counterWarn := true }) rfl).trans (events rfl)
    · exact updStream (f := fun r => { r with counterWarn := true }) rfl

theorem countSealFailure (st : StreamId) (status : BitVec 8) (s : State) : PostNoted st s (countSealFailure st status s) := by
  unfold Machine.countSealFailure
  split
  · exact (updStream (f := fun r => { r with sealFailures := satInc r.sealFailures }) rfl).trans (bridge rfl)
  · exact refl ..

theorem countPost (st : StreamId) (s : State) : PostNoted st s (countPost st s) := by
  unfold Machine.countPost
  split
  · refine ⟨rfl, fun _ _ => rfl, fun v => ?_, rfl⟩
    rw [countExact, State.vat_updVat]
    split
    · rename_i e
      subst e
      rfl
    · rfl
  · exact refl ..

theorem afterPost (st : StreamId) (s : State) : PostNoted st s (afterPost st s) := by
  have counted : PostNoted st s (s.updStream st fun r => { r with unsignalled := r.unsignalled + 1 }) := updStream rfl
  simp only [Machine.afterPost]
  split
  · exact (counted.trans (updStream (f := fun r => { r with unsignalled := 0 }) rfl)).trans (bridge rfl)
  · exact counted

/-- What a post does not note in its stream is as before. -/
theorem stream_eq (h : PostNoted st s t) {α : Type} (g : Stream → α)
    (hg : ∀ r, g r.apartNotes = g r := by intro; rfl) : g (t.stream st) = g (s.stream st) := by
  rw [← hg, h.stream, hg]

end PostNoted

/-! ## A completion record -/

theorem xorBytes_length (a b : List Byte) : (xorBytes a b).length = a.length := by
  induction a generalizing b with
  | nil => rfl
  | cons x a ih => cases b <;> simp [xorBytes, ih]

theorem gcmSeal_length (key : BitVec 128) (nonce : BitVec 96) (aad plain : List Byte) :
    (gcmSeal key nonce aad plain).1.length = plain.length := xorBytes_length ..

theorem tagBytes_length (x : BitVec 128) : (tagBytes x).length = 16 := by
  simp [tagBytes, beBytes, leBytes_length]

/-- The header of a record (R269). -/
def recordHeader (st : StreamId) (r : Stream) (status : BitVec 8) (epoch sqIndex : BitVec 16) : Nat :=
  bitOf r.phase * 2 ^ 63 + status.toNat * 2 ^ 48 + epoch.toNat * 2 ^ 32 + sqIndex.toNat * 2 ^ 16 + st.val

/-- The part of a record that is authenticated and not encrypted (R265, R269). -/
def recordAad (st : StreamId) (r : Stream) (status : BitVec 8) (epoch sqIndex : BitVec 16) (dropped : Nat) : List Byte :=
  leBytes 8 (recordHeader st r status epoch sqIndex) ++ leBytes 4 dropped ++ List.replicate 12 0

/-- The encrypted part of a record and its tag (R265). -/
def recordSealed (st : StreamId) (r : Stream) (key : BitVec 128) (aad : List Byte) (hostTag detail : BitVec 64) :
    List Byte × BitVec 128 :=
  gcmSeal key (sealNonce true st r.outbound) aad (leBytes 8 hostTag.toNat ++ leBytes 8 detail.toNat)

/-- The 64 bytes of a record (R269). -/
def recordBytes (r : Stream) (aad : List Byte) (sealed : List Byte × BitVec 128) : List Byte :=
  leBytes 8 r.outbound.toNat ++ aad ++ sealed.1 ++ tagBytes sealed.2

theorem recordBytes_length (st : StreamId) (r : Stream) (status : BitVec 8) (epoch sqIndex : BitVec 16) (dropped : Nat)
    (hostTag detail : BitVec 64) (key : BitVec 128) :
    let aad := recordAad st r status epoch sqIndex dropped
    (recordBytes r aad (recordSealed st r key aad hostTag detail)).length = 64 := by
  simp [recordBytes, recordAad, recordSealed, gcmSeal_length, tagBytes_length, leBytes_length]

/-- The host address of CqTail (R269). -/
def Stream.recordPlace (r : Stream) : Nat := r.cfg.cqBase.toNat + 64 * (r.cqTail.toNat % cfgCqEntries r.cfg)

/-- A stream once a record has been written (R265, R269). -/
def Stream.withRecord (violation : Bool) (r : Stream) : Stream :=
  { r with
    outbound := r.outbound + 1, cqTail := r.cqTail + 1, records := r.records ++ [violation]
    phase := if (r.cqTail + 1).toNat % cfgCqEntries r.cfg = 0 then !r.phase else r.phase }

section
variable (status : BitVec 8) (epoch sqIndex : BitVec 16) (dropped : Nat) (hostTag detail : BitVec 64) (violation : Bool)

/-- Between s and t a record was written at CqTail, and what its post notes followed. -/
structure RecordWritten (st : StreamId) (key : BitVec 128) (s t : State) : Prop where
  noted : PostNoted st ((s.hostWrite (s.stream st).recordPlace (recordBytes (s.stream st)
    (recordAad st (s.stream st) status epoch sqIndex dropped) (recordSealed st (s.stream st) key
      (recordAad st (s.stream st) status epoch sqIndex dropped) hostTag detail))).setStream st
    ((s.stream st).withRecord violation)) t

theorem writeRecord_written (hk : (s.stream st).key = some key) :
    RecordWritten status epoch sqIndex dropped hostTag detail violation st key s
      (writeRecord st status epoch sqIndex dropped hostTag detail violation s) := by
  constructor
  rw [show (s.stream st).withRecord violation = { (s.stream st).withRecord violation with key := some key } from hk ▸ rfl]
  simp only [writeRecord, hk]
  exact PostNoted.checkRekey ..

variable {status epoch sqIndex dropped hostTag detail violation}

theorem RecordWritten.posted (h : RecordWritten status epoch sqIndex dropped hostTag detail violation st key s t)
    (hk : (s.stream st).key = some key) :
    Safety.RecordPosted s t st status epoch sqIndex dropped hostTag detail violation := by
  obtain ⟨noted⟩ := h
  have length := recordBytes_length st (s.stream st) status epoch sqIndex dropped hostTag detail key
  dsimp only at length
  generalize hb : recordBytes .. = bytes at noted length
  have mem : t.hostMem = tputL 0 s.hostMem (s.stream st).recordPlace bytes := (congrArg State.hostMem noted.frame :)
  have stream : ∀ {α : Type} (g : Stream → α) (hg : ∀ r, g r.apartNotes = g r),
      g (t.stream st) = g ((s.stream st).withRecord violation) := fun g hg =>
    (noted.stream_eq g hg).trans (congrArg g ((State.stream_setStream ..).trans (if_pos rfl)))
  refine ⟨key, _, _, _, _, _, hk, rfl, rfl, rfl, rfl, ?_, fun a ha => ?_, stream Stream.outbound fun _ => rfl,
    stream Stream.cqTail fun _ => rfl, stream Stream.records fun _ => rfl, ?_⟩
  · rw [State.hostRead, mem]
    exact (length ▸ tgetN_tputL 0 bytes s.hostMem _).trans hb.symm
  · rw [mem]
    exact tget_tputL_out _ _ _ _ (length.symm ▸ ha)
  · rw [stream Stream.phase fun _ => rfl, Stream.withRecord]
    split
    case isTrue h => rw [decide_eq_true h, Bool.xor_true]
    case isFalse h => rw [decide_eq_false h, Bool.xor_false]

end

/-! ## A post -/

theorem PostNoted.post (st : StreamId) (status : BitVec 8) (s : State) :
    PostNoted st s (Machine.afterPost st (Machine.countPost st (Machine.countSealFailure st status s))) :=
  ((PostNoted.countSealFailure ..).trans (PostNoted.countPost ..)).trans (PostNoted.afterPost ..)

/-- Between s and t stream st sealed one post: its counter went on, and only host memory, the record of the stream and the
counts of posts changed. -/
structure StreamPosts (st : StreamId) (s t : State) : Prop where
  outbound : (t.stream st).outbound = (s.stream st).outbound + 1
  ended : (t.stream st).ended = (s.stream st).ended
  others : ∀ i, i ≠ st.val → t.stream i = s.stream i
  swaps : ∀ v, (t.vat v).swap = (s.vat v).swap
  frame : t = { s with streams := t.streams, vats := t.vats, bridge := t.bridge, events := t.events, hostMem := t.hostMem }

theorem PostNoted.posts {mem : List (Nat × Byte)} {r : Stream} (h : PostNoted st (({ s with hostMem := mem } : State).setStream st r) t)
    (ho : r.outbound = (s.stream st).outbound + 1) (he : r.ended = (s.stream st).ended) : StreamPosts st s t where
  outbound := (h.stream_eq Stream.outbound fun _ => rfl).trans (by rw [State.stream_setStream, if_pos rfl, ho])
  ended := (h.stream_eq Stream.ended fun _ => rfl).trans (by rw [State.stream_setStream, if_pos rfl, he])
  others i hi := (h.others i hi).trans (by rw [State.stream_setStream, if_neg hi]; rfl)
  swaps := h.swaps
  frame := by rw [h.frame]; rfl

/-- Between s and t job j, without a mailbox entry, posted its record, or with entry e filled it (R269, R273, R274). -/
structure JobPosted (st : StreamId) (j : Job) (s t : State) : Prop extends StreamPosts st s t where
  record : j.mailbox = none →
    Safety.RecordPosted s t st (jobStatus j) j.desc.epoch j.sqIndex 0 j.desc.hostTag (completionDetail j) false
  memory : j.mailbox.isSome = true → t.hostMem = s.hostMem ∧ (t.stream st).cqTail = (s.stream st).cqTail
  mailbox : ∀ e, j.mailbox = some e → (tget {} (t.stream st).mailboxes e.val).state = .valid ∧
    (tget {} (t.stream st).mailboxes e.val).status = jobStatus j ∧
    (tget {} (t.stream st).mailboxes e.val).generation = (tget {} (s.stream st).mailboxes e.val).generation + 1

/-- A stream once a job has filled a mailbox entry (R273). -/
def Stream.withMailbox (e : Nat) (m : Mailbox) (r : Stream) : Stream :=
  { r with outbound := r.outbound + 1, mailboxes := tput {} r.mailboxes e m }

/-- A job fills its entry: VALID, with its status and the next Generation. -/
theorem fillMailbox_noted (e : Nat) (j : Job) (hk : (s.stream st).key = some key) : ∃ m : Mailbox, m.state = .valid ∧
    m.status = jobStatus j ∧ m.generation = (tget {} (s.stream st).mailboxes e).generation + 1 ∧
    PostNoted st (s.setStream st ((s.stream st).withMailbox e m)) (fillMailbox st e j s) := by
  have keyed (m : Mailbox) : (s.stream st).withMailbox e m = { (s.stream st).withMailbox e m with key := some key } := hk ▸ rfl
  simp only [fillMailbox, hk]
  refine ⟨_, ?valid, ?status, ?generation,
    (congrArg (fun r => PostNoted st (s.setStream st r) _) (keyed _)).mpr (PostNoted.checkRekey ..)⟩
  all_goals rfl

theorem postJob_posted (hk : (s.stream st).key = some key) (j : Job) : JobPosted st j s (postJob st j s) := by
  unfold postJob
  cases hm : j.mailbox with
  | none =>
    have written := (writeRecord_written (jobStatus j) j.desc.epoch j.sqIndex 0 j.desc.hostTag (completionDetail j) false hk).noted
      |>.trans (.post st (jobStatus j) _)
    refine ⟨written.posts rfl rfl, fun _ => RecordWritten.posted ⟨written⟩ hk, fun h => ?_, fun e he => ?_⟩
    · simp [hm] at h
    · simp [hm] at he
  | some e =>
    obtain ⟨m, valid, status, generation, noted⟩ := fillMailbox_noted e.val j hk
    have filled := noted.trans (.post st (jobStatus j) _)
    have set := State.stream_setStream s st st ((s.stream st).withMailbox e.val m)
    rw [if_pos rfl] at set
    have mailboxes := filled.stream_eq Stream.mailboxes fun _ => rfl
    rw [set, Stream.withMailbox] at mailboxes
    refine ⟨filled.posts (mem := s.hostMem) rfl rfl, fun h => ?_, fun _ => ⟨(congrArg State.hostMem filled.frame :), ?_⟩, fun e' he => ?_⟩
    · simp [hm] at h
    · exact (filled.stream_eq Stream.cqTail fun _ => rfl).trans (congrArg Stream.cqTail set :)
    · obtain rfl : e = e' := by simpa [hm] using he
      rw [mailboxes, tget_tput, if_pos rfl]
      exact ⟨valid, status, generation⟩

/-! ## The swaps that go on afterwards -/

theorem goLive_slots (p q : Nat) (c : Content) (s : State) (i : Nat) :
    ((goLive p q c s).press i).slots = (s.press i).slots := by
  by_cases h : i = p
  · subst h
    simp only [goLive]
    split <;> (simp only [State.updPlate, State.updBank, State.press_updPress, if_pos]; rfl)
  · rw [goLive_press_ne h]

theorem readyPlates_slots (p v : Nat) (s : State) (i : Nat) : ((readyPlates p v s).press i).slots = (s.press i).slots := by
  simp only [readyPlates]
  split
  · refine forN_keep (fun t => (t.press i).slots) _ _ (fun q _ t => ?_) s
    split
    · rw [plateDone_press, goLive_slots]
    · rfl
  · rfl

theorem checkSwap_slots (v : Nat) (s : State) (i : Nat) : ((checkSwap v s).press i).slots = (s.press i).slots := by
  simp only [checkSwap]
  split
  · rw [completeSwap_press]
  · rfl

theorem advanceSwap_slots (v : Nat) (s : State) (i : Nat) : ((advanceSwap v s).press i).slots = (s.press i).slots := by
  have begun : ((requestMacros v s).press i).slots = (s.press i).slots :=
    (congrArg PressRec.slots ((SwapLoads.requestMacros (ps := fun _ => True) fun _ _ => trivial).press i).record :)
  simp only [advanceSwap]
  split
  · refine (checkSwap_slots ..).trans ((forL_keep (fun t => (t.press i).slots) _ _ (fun p _ t => ?_) _).trans begun)
    rw [readyPlates_slots]
    exact (congrArg PressRec.slots ((SwapLoads.requestPlates (ps := fun _ => True)).press i).record :)
  · exact begun

/-- The swaps that go on keep the slots of every press. -/
theorem advanceSwaps_slots (s : State) (i : Nat) : ((advanceSwaps s).press i).slots = (s.press i).slots :=
  forN_keep (fun t => (t.press i).slots) _ _ (fun v _ t => advanceSwap_slots v t i) s

/-- Streams, host memory and the management port have no part in swaps. -/
theorem kept_of_apartSwap (h : t.apartSwap = s.apartSwap) :
    t.stream = s.stream ∧ t.hostMem = s.hostMem ∧ t.mgmt = s.mgmt :=
  ⟨(congrArg State.stream h :), (congrArg State.hostMem h :), (congrArg State.mgmt h :)⟩

/-- A record lies in host memory and in its stream, whatever else differs. -/
theorem recordPosted_congr {s' t' : State} {status : BitVec 8} {epoch sqIndex : BitVec 16} {dropped : Nat}
    {hostTag detail : BitVec 64} {violation : Bool} (hs : s'.stream st = s.stream st) (hsm : s'.hostMem = s.hostMem)
    (ht : t'.stream st = t.stream st) (htm : t'.hostMem = t.hostMem)
    (h : Safety.RecordPosted s t st status epoch sqIndex dropped hostTag detail violation) :
    Safety.RecordPosted s' t' st status epoch sqIndex dropped hostTag detail violation := by
  simp only [Safety.RecordPosted, State.hostRead, hs, hsm, ht, htm] at h ⊢
  exact h

theorem execCompletionPost_slot {p : Press} {k : Slot} (hj : (s.press p).slot k = some j) : execCompletionPost (.slot p k) s =
    if j.state ≠ .posting ∨ j.signalDue ∨ postsHeld s j.stream.val then .next s
    else .next (advanceSwaps (postJob j.stream j (s.setSlot p k none))) := by
  simp only [execCompletionPost, hj]

theorem execCompletionPost_bridge {rest : List Job} (he : (s.stream st).ended = j :: rest) :
    execCompletionPost (.bridge st) s = if postsHeld s st.val then .next s
      else .next (postJob st j (s.updStream st fun r => { r with ended := rest })) := by
  simp only [execCompletionPost, he]

end Sys2Proof.Machine

namespace Sys2Proof.Settled
open Sys2Proof.Machine

/-- Settles O32: what a post notes beside itself leaves the record, the entry and the slots as the post made them, and the
swaps that go on have no part in them. -/
theorem completionsPost : Obligations.CompletionsPost := by
  refine ⟨fun p k s j hj held => ?held, fun p k s j key hj hp hd hh hk => ?slot, fun st s j rest key he hh hk => ?bridge⟩
  case held => exact (execCompletionPost_slot hj).trans (if_pos held)
  case slot =>
    have posted : JobPosted j.stream j (s.setSlot p k none) (postJob j.stream j (s.setSlot p k none)) :=
      postJob_posted (s := s.setSlot p k none) hk j
    have run := (execCompletionPost_slot hj).trans (if_neg (by simp [hp, hd, hh]))
    generalize postJob j.stream j (s.setSlot p k none) = u at posted run
    obtain ⟨stream, memory, mgmt⟩ := kept_of_apartSwap (advanceSwaps_apartSwap u)
    refine ⟨advanceSwaps u, run, ?left, ?outbound, fun hm => ?record, fun e hm => ?mailbox, fun i hi => ?others, ?mgmt,
      fun hn => ?quiet⟩
    case left =>
      rw [PressRec.slot, advanceSwaps_slots, posted.frame]
      exact State.slot_setSlot ..
    case outbound =>
      rw [stream]
      exact posted.outbound
    case record => exact recordPosted_congr rfl rfl (by rw [stream]) memory (posted.record hm)
    case mailbox =>
      obtain ⟨unwritten, tail⟩ := posted.memory (by rw [hm]; rfl)
      rw [stream, memory]
      exact ⟨unwritten, tail, posted.mailbox e hm⟩
    case others =>
      rw [stream]
      exact posted.others i hi
    case mgmt =>
      rw [mgmt, posted.frame]
      rfl
    case quiet =>
      have idle : Safety.NoSwap u := fun v => by rw [posted.swaps]; exact hn v
      rw [advanceSwaps_noSwap idle, posted.frame]
      exact ⟨rfl, rfl⟩
  case bridge =>
    have set : ((s.updStream st fun r => { r with ended := rest }).stream st) = { s.stream st with ended := rest } := by
      rw [State.stream_updStream, if_pos rfl]
    have posted := postJob_posted (s := s.updStream st fun r => { r with ended := rest }) (st := st) (key := key)
      (by rw [set]; exact hk) j
    have run := (execCompletionPost_bridge he).trans (if_neg (by simp [hh]))
    generalize postJob st j (s.updStream st fun r => { r with ended := rest }) = u at posted run
    refine ⟨u, run, ?ended, ?outbound, fun hm => ?record, fun hm => ?memory, ?presses, fun i hi => ?others, ?kept⟩
    case ended => rw [posted.ended, set]
    case outbound => rw [posted.outbound, set]
    case record =>
      have record := posted.record hm
      rw [Safety.RecordPosted, set] at record
      exact record
    case memory =>
      have memory := posted.memory hm
      rw [set] at memory
      exact memory
    case presses => rw [posted.frame]; rfl
    case others => rw [posted.others i hi, State.stream_updStream, if_neg hi]
    case kept =>
      rw [posted.frame]
      exact ⟨rfl, rfl, rfl⟩

end Sys2Proof.Settled
end

section
/-! SUPPORT. DESCRIPTOR_FETCH (R264) where the table of streams names one stream twice: the round-robin goes through the
entries of the table, and every reading of a stream takes the first of them. -/

namespace Sys2Proof.Machine

variable {st : StreamId} {s : State}

theorem writeRecord_condemned (status : BitVec 8) (epoch sqIndex : BitVec 16) (dropped : Nat) (hostTag detail : BitVec 64)
    (violation : Bool) :
    ((writeRecord st status epoch sqIndex dropped hostTag detail violation s).stream st).condemned = (s.stream st).condemned := by
  cases hk : (s.stream st).key with
  | none => simp only [writeRecord, hk]
  | some key =>
    refine ((writeRecord_written status epoch sqIndex dropped hostTag detail violation hk).noted.stream_eq Stream.condemned
      fun _ => rfl).trans ?_
    rw [State.stream_setStream, if_pos rfl]
    rfl

/-- Condemned descriptors are dropped together or not at all. -/
theorem dropCondemned_cases (st : StreamId) (s : State) :
    dropCondemned st s = s ∨ ((dropCondemned st s).stream st).condemned = 0 := by
  unfold dropCondemned
  dsimp only
  split
  · exact .inl rfl
  · right
    split
    · exact (congrArg Stream.condemned ((State.stream_setStream ..).trans (if_pos rfl)) :)
    · rw [((PostNoted.countPost ..).trans (PostNoted.afterPost ..)).stream_eq Stream.condemned fun _ => rfl, writeRecord_condemned]
      exact (congrArg Stream.condemned ((State.stream_setStream ..).trans (if_pos rfl)) :)

/-- The handling of a doorbell does nothing, or leaves an OPEN stream or one without condemned descriptors. -/
theorem beginHandling_cases (st : StreamId) (s : State) : beginHandling st s = s ∨
    ((beginHandling st s).stream st).state = .opened ∨ ((beginHandling st s).stream st).condemned = 0 := by
  unfold beginHandling
  dsimp only
  split
  case isFalse => exact .inl rfl
  case isTrue h =>
    right
    split
    case isTrue =>
      refine (dropCondemned_cases ..).imp (fun kept => ?_) id
      rw [kept, State.stream_setStream, if_pos rfl]
      exact h.1
    case isFalse =>
      left
      rw [State.stream_setStream, if_pos rfl]
      exact h.1

/-- Stream 0 twice in the table of streams: FREE with a condemned descriptor, and OPEN with one granted. Its function is in
D3hot. -/
def twiceListed : State :=
  { dev := { state := .service }
    vats := [(0, { streamCount := 1 })]
    bridge := { fns := [(0, { d3hot := true })] }
    streams := [(0, { condemned := 1 }), (0, { state := .opened, grant := 1 })] }

/-- The entry that is OPEN brings the turn to stream 0, whose first entry has nothing granted and waits out D3hot. -/
theorem execDescriptorFetch_twiceListed :
    execDescriptorFetch twiceListed = .next (twiceListed.updBridge fun b => { b with rr := 1 }) := rfl

end Sys2Proof.Machine

namespace Sys2Proof.Settled
open Sys2Proof.Machine

/-- Refutes O29 by its clause on a turn without a granted descriptor, which takes every state whose round-robin reaches the
stream: in a table that lists stream 0 twice the OPEN entry brings the turn, and the condemned descriptor of the entry that
is read stays while the function is in D3hot, where the clause has it dropped. No table in canonical form is such a one. -/
theorem not_descriptorsFetched : ¬ Obligations.DescriptorsFetched := by
  rintro ⟨-, turn, -⟩
  obtain ⟨t, u, run, handled, ⟨-, -, -, -, dropped, -⟩, -⟩ := turn 0 twiceListed (by decide) rfl rfl
  obtain rfl : twiceListed.updBridge (fun b => { b with rr := 1 }) = t :=
    Host.Outcome.next.inj (execDescriptorFetch_twiceListed.symm.trans run)
  have first : ((beginHandling 0 u).stream (0 : StreamId)) = { condemned := 1 } := by rw [← handled]; rfl
  obtain kept | opened | undone := beginHandling_cases 0 u
  · rw [← kept, first] at dropped
    cases dropped
  · rw [first] at opened
    cases opened
  · rw [first] at undone
    cases undone

end Sys2Proof.Settled
end

section
/-! SUPPORT. How the jobs of a vat stop when it is pulped or reset (R352 step 2, R356): each ends with the mark of the outcome,
and where it has nothing to write, nothing is written. -/

namespace Sys2Proof.Machine

variable {p q k i : Nat} {w : Outputs} {s t u : State} {j : Job} {f : Job → Job} {mark : Job → Bool}

/-! ## The end of one job -/

/-- Any output may be written. -/
def Outputs.anything : Outputs := ⟨fun _ _ => True, fun _ => True, True⟩

theorem Outputs.covers_anything (s : State) (v : Nat) (a : Addr) (n : Nat) : Outputs.anything.covers s v a n := by
  cases a with
  | scratch => exact fun _ _ _ _ => trivial
  | package => exact fun _ _ _ _ => trivial
  | host => exact trivial
  | mailbox => exact trivial

/-- The state with the job in slot k of press p ended: its claim returned, its press left and its signal given (R222, R235,
R238). -/
def jobClosed (p k : Nat) (s : State) : State := signalSlot p k (leavePress p k (returnClaim p k s))

theorem jobClosed_ends : JobEnds p k w s (jobClosed p k s) := by
  have drop : JobWrites p k w _ ((returnClaim p k s).updPress p (dropPasses k)) := .keepPasses _
  have settle : JobWrites p k w _ (leavePress p k (returnClaim p k s)) := .settleMacros
  exact ((JobEnds.returnClaim.trans drop.toJobEnds).trans (.updJob Job.posted)).trans (settle.trans .signalSlot).toJobEnds

theorem jobClosed_slot (hj : (s.press p).slot k = some j) : ∃ j', ((jobClosed p k s).press p).slot k = some j' ∧
    j'.apartOutput = (Job.posted { j with chunk := none }).apartOutput := by
  have unclaimed : ((returnClaim p k s).press p).slot k = some { j with chunk := none } := by rw [returnClaim_slot, hj]; rfl
  exact (JobWrites.signalSlot (w := .nothing)).slot (leavePress_slot unclaimed)

/-- The end of a job changes presses and work counters alone. -/
theorem jobClosed_frame (p k : Nat) (s : State) :
    jobClosed p k s = { s with presses := (jobClosed p k s).presses, counters := (jobClosed p k s).counters } := by
  have unclaimed : ∃ presses counters, returnClaim p k s = { s with presses := presses, counters := counters } := by
    simp only [returnClaim]
    split
    · exact ⟨_, _, rfl⟩
    · split <;> exact ⟨_, _, rfl⟩
  obtain ⟨presses, counters, unclaimed⟩ := unclaimed
  obtain ⟨presses', left⟩ := leavePress_frame p k (returnClaim p k s)
  have signalled : ∃ presses counters,
      jobClosed p k s = { leavePress p k (returnClaim p k s) with presses := presses, counters := counters } := by
    simp only [jobClosed, signalSlot]
    split
    · exact ⟨_, _, rfl⟩
    · split
      · exact ⟨_, _, rfl⟩
      · exact ⟨_, _, by rw [signalDone_frame]; rfl⟩
  obtain ⟨presses'', counters'', signalled⟩ := signalled
  rw [signalled, left, unclaimed]

/-! ## A job that a pulp or a reset of its vat stops -/

/-- What a job stopped with its vat leaves undefined: nothing under a pulp (R352 step 2), its outputs where it is INTERNAL. -/
def undefinedAtStop (p k : Nat) (j : Job) (s : State) : State :=
  if j.vatPulping then s else if j.internal then undefineFrom p k 0 s else s

/-- The state with everything written that a job writes when it is stopped with its vat. -/
def writtenAtStop (p k : Nat) (j : Job) (s : State) : State :=
  if j.state = .running ∧ !j.vatPulping then flushAll p k .all (undefinedAtStop p k j s) else undefinedAtStop p k j s

theorem finishJob_held (hj : (s.press p).slot k = some j) (held : j.vatPulping = true ∨ j.vatResetting = true) :
    finishJob p k s = jobClosed p k (writtenAtStop p k j s) := by
  have whole : (j.sealFail && !j.internal && !(j.vatPulping || j.vatResetting)) = false := by
    rcases held with h | h <;> simp [h]
  simp only [finishJob, hj, whole]
  rfl

theorem undefinedAtStop_writes (hj : (s.press p).slot k = some j) : JobWrites p k .anything s (undefinedAtStop p k j s) := by
  unfold undefinedAtStop
  split
  · exact .refl ..
  · split
    · exact .undefineFrom hj fun x _ => Outputs.covers_anything ..
    · exact .refl ..

theorem writtenAtStop_writes (hj : (s.press p).slot k = some j) : JobWrites p k .anything s (writtenAtStop p k j s) := by
  have undefined := undefinedAtStop_writes hj
  unfold writtenAtStop
  split
  · exact undefined.trans (.flushAll fun h => absurd trivial h)
  · exact undefined

/-- A job that pulping stops, and one without INTERNAL and without output in host memory, writes nothing. -/
theorem writtenAtStop_nothing (hj : (s.press p).slot k = some j)
    (h : j.vatPulping = true ∨ j.internal = false ∧ hostRanges s p j = []) : writtenAtStop p k j s = s := by
  rcases h with pulping | ⟨internal, host⟩
  · simp [writtenAtStop, undefinedAtStop, pulping]
  · simp [writtenAtStop, undefinedAtStop, internal, flushAll, hj, host, forL]

/-- An outcome f with which the jobs of a vat stop, and the mark by which one knows it. -/
structure VatOutcome (f : Job → Job) (mark : Job → Bool) : Prop where
  held : ∀ j, (f j).vatPulping = true ∨ (f j).vatResetting = true
  marks : ∀ j, mark (f j) = true
  internal : ∀ j, (f j).internal = j.internal
  ranges : ∀ s p j, hostRanges s p (f j) = hostRanges s p j
  closed : ∀ j, mark (Job.posted { j with chunk := none }) = mark j
  output : ∀ j, mark j.apartOutput = mark j

theorem vatOutcome_pulping : VatOutcome (fun j => { j with vatPulping := true }) Job.vatPulping :=
  ⟨fun _ => .inl rfl, fun _ => rfl, fun _ => rfl, fun _ _ _ => rfl, fun _ => rfl, fun _ => rfl⟩

theorem vatOutcome_resetting : VatOutcome (fun j => { j with vatResetting := true }) Job.vatResetting :=
  ⟨fun _ => .inr rfl, fun _ => rfl, fun _ => rfl, fun _ _ _ => rfl, fun _ => rfl, fun _ => rfl⟩

/-- The job of a slot has ended with a mark. -/
def EndedMarked (mark : Job → Bool) (o : Option Job) : Prop := ∃ j, o = some j ∧ j.state = .posting ∧ mark j = true

/-- A job writes nothing when outcome f stops it. -/
def SilentStop (f : Job → Job) (s : State) (p : Nat) (j : Job) : Prop :=
  (f j).vatPulping = true ∨ j.internal = false ∧ hostRanges s p j = []

/-- Between s and t outcome f stopped the job in slot k of press p, unless it had ended. -/
structure JobStopped (f : Job → Job) (mark : Job → Bool) (p k : Nat) (s t : State) : Prop where
  ends : JobEnds p k .anything s t
  slot : EndedMarked mark ((t.press p).slot k) ∨
    (t.press p).slot k = (s.press p).slot k ∧ ∀ j, (s.press p).slot k = some j → j.state = .posting
  silent : (∀ j, (s.press p).slot k = some j → j.state ≠ .posting → SilentStop f s p j) →
    t = { s with presses := t.presses, counters := t.counters }

theorem stopJob_stopped (hf : VatOutcome f mark) (p k : Nat) (s : State) : JobStopped f mark p k s (stopJob p k f s) := by
  have stays (h : ∀ j, (s.press p).slot k = some j → j.state = .posting) : JobStopped f mark p k s s :=
    ⟨(JobWrites.refl ..).toJobEnds, .inr ⟨rfl, h⟩, fun _ => rfl⟩
  simp only [stopJob]
  split
  case h_1 none => exact stays (by simp [none])
  case h_2 j hj =>
    split
    case isTrue posting => exact stays fun j' hj' => Option.some.inj (hj.symm.trans hj') ▸ posting
    case isFalse hs =>
      have slot : ((s.updJob p k f).press p).slot k = some (f j) := by
        rw [State.slot_updJob, if_pos ⟨rfl, rfl⟩, hj]
        rfl
      rw [finishJob_held slot (hf.held j)]
      have writes := writtenAtStop_writes slot
      refine ⟨(JobEnds.updJob f).trans (writes.toJobEnds.trans jobClosed_ends), .inl ?_, fun silent => ?_⟩
      · obtain ⟨j₁, hj₁, same₁⟩ := writes.slot slot
        obtain ⟨j₂, hj₂, same₂⟩ := jobClosed_slot hj₁
        refine ⟨j₂, hj₂, (congrArg Job.state same₂ :), ?_⟩
        calc mark j₂ = mark j₂.apartOutput := (hf.output j₂).symm
          _ = mark (Job.posted { j₁ with chunk := none }) := by rw [same₂, hf.output]
          _ = mark j₁.apartOutput := by rw [hf.closed, hf.output]
          _ = true := by rw [same₁, hf.output, hf.marks]
      · have nothing : writtenAtStop p k (f j) (s.updJob p k f) = s.updJob p k f := by
          refine writtenAtStop_nothing slot ((silent j hj hs).imp_right fun ⟨internal, host⟩ => ?_)
          rw [hf.internal, hostRanges_congr s, hf.ranges]
          exact ⟨internal, host⟩
        rw [nothing, jobClosed_frame]
        rfl

/-! ## The jobs of several presses -/

/-- Between s and t outcome f stopped jobs of presses of a list. -/
structure JobsStopped (f : Job → Job) (mark : Job → Bool) (l : List Nat) (s t : State) : Prop where
  device : t.apartJobs = s.apartJobs
  own : ∀ q, OwnWork (s.press q) (t.press q)
  slots : ∀ q i, (t.press q).slot i = (s.press q).slot i ∨ EndedMarked mark ((t.press q).slot i)
  silent : (∀ q ∈ l, ∀ k j, (s.press q).slot k = some j → j.state ≠ .posting → SilentStop f s q j) →
    t = { s with presses := t.presses, counters := t.counters }

theorem JobsStopped.refl (f : Job → Job) (mark : Job → Bool) (l : List Nat) (s : State) : JobsStopped f mark l s s :=
  ⟨rfl, fun _ => .refl _, fun _ _ => .inl rfl, fun _ => rfl⟩

/-- What stopping a job leaves of another slot. -/
theorem JobStopped.slot_ne (h : JobStopped f mark p k s t) (hne : ¬(q = p ∧ i = k)) :
    (t.press q).slot i = (s.press q).slot i := by
  by_cases hq : q = p
  · subst hq
    exact h.ends.slots i fun hi => hne ⟨rfl, hi⟩
  · rw [h.ends.press_ne hq]
    rfl

/-- A slot whose job has ended keeps it. -/
theorem JobStopped.keepsEnded (h : JobStopped f mark p k s t) (q i : Nat) (ended : EndedMarked mark ((s.press q).slot i)) :
    EndedMarked mark ((t.press q).slot i) := by
  by_cases here : q = p ∧ i = k
  · obtain ⟨rfl, rfl⟩ := here
    exact h.slot.elim id fun ⟨same, _⟩ => same ▸ ended
  · rwa [h.slot_ne here]

theorem JobStopped.own (h : JobStopped f mark p k s t) (q : Nat) : OwnWork (s.press q) (t.press q) := by
  by_cases hq : q = p
  · exact hq ▸ h.ends.own
  · exact .of_apartScratch (h.ends.others q hq)

/-- One more job of the presses is stopped. -/
theorem JobsStopped.stopJob {l : List Nat} (h : JobsStopped f mark l s t) (hp : p ∈ l) (hu : JobStopped f mark p k t u) :
    JobsStopped f mark l s u where
  device := hu.ends.device.trans h.device
  own q := (h.own q).trans (hu.own q)
  slots q i := by
    by_cases here : q = p ∧ i = k
    · obtain ⟨rfl, rfl⟩ := here
      exact hu.slot.elim .inr fun ⟨same, _⟩ => same ▸ h.slots q i
    · rw [hu.slot_ne here]
      exact h.slots q i
  silent hs := by
    have before := h.silent hs
    have now := hu.silent fun j hj posting => by
      rcases h.slots p k with same | ⟨j', hj', ended, -⟩
      · exact (hs p hp k j (same ▸ hj) posting).imp_right (And.imp_right (hostRanges_congr s t p j).trans)
      · exact absurd (Option.some.inj (hj.symm.trans hj') ▸ ended) posting
    rw [now, before]

/-- A job that had not ended when the stopping began has ended once it was stopped. -/
theorem JobsStopped.ended {l : List Nat} (h : JobsStopped f mark l s t) (hu : JobStopped f mark p k t u)
    (hj : (s.press p).slot k = some j) (hs : j.state ≠ .posting) : EndedMarked mark ((u.press p).slot k) := by
  rcases h.slots p k with same | ended
  · exact hu.slot.elim id fun ⟨_, posting⟩ => absurd (posting j (same.trans hj)) hs
  · exact hu.keepsEnded p k ended

variable {l : List Nat}

theorem JobsStopped.stopJobs (hf : VatOutcome f mark) (h : JobsStopped f mark l s t) (hp : p ∈ l) :
    JobsStopped f mark l s (stopJobs p (fun _ => true) f t) :=
  forL_inv (JobsStopped f mark l s) _ _ (fun e _ _ hu => hu.stopJob hp (stopJob_stopped hf p e.1 _)) t h

theorem stopJobs_keepsEnded (hf : VatOutcome f mark) {q i : Nat} (ended : EndedMarked mark ((t.press q).slot i)) :
    EndedMarked mark (((stopJobs p (fun _ => true) f t).press q).slot i) :=
  forL_inv (fun u => EndedMarked mark ((u.press q).slot i)) _ _
    (fun e _ u hu => (stopJob_stopped hf p e.1 u).keepsEnded q i hu) t ended

theorem JobsStopped.stopJobs_ended (hf : VatOutcome f mark) (h : JobsStopped f mark l s t) (hp : p ∈ l)
    (hj : (s.press p).slot k = some j) (hs : j.state ≠ .posting) :
    EndedMarked mark (((Machine.stopJobs p (fun _ => true) f t).press p).slot k) := by
  rcases h.slots p k with same | ended
  · have listed : (k, j) ∈ (t.press p).jobs.filter fun _ => true := by simpa using PressRec.mem_jobs (same.trans hj)
    exact forL_reaches (JobsStopped f mark l s) (fun u => EndedMarked mark ((u.press p).slot k))
      (fun e _ u hu => hu.stopJob hp (stopJob_stopped hf p e.1 u))
      (fun e _ u _ ended => (stopJob_stopped hf p e.1 u).keepsEnded p k ended) listed
      (fun u hu => hu.ended (stopJob_stopped hf p k u) hj hs) t h
  · exact stopJobs_keepsEnded hf ended

/-- The jobs of a list of presses are stopped, and each that had not ended ends with the mark (R352 step 2, R356). -/
theorem stopPresses_stopped (hf : VatOutcome f mark) (l : List Nat) (s : State) :
    let t := forL l (fun p t => stopJobs p (fun _ => true) f t) s
    JobsStopped f mark l s t ∧ ∀ p ∈ l, ∀ k j, (s.press p).slot k = some j → j.state ≠ .posting →
      EndedMarked mark ((t.press p).slot k) :=
  ⟨forL_inv (JobsStopped f mark l s) _ _ (fun _ hp _ ht => ht.stopJobs hf hp) s (.refl ..), fun p hp k _ hj hs =>
    forL_reaches (JobsStopped f mark l s) (fun u => EndedMarked mark ((u.press p).slot k))
      (fun _ hq _ ht => ht.stopJobs hf hq) (fun _ _ _ _ ended => stopJobs_keepsEnded hf ended) hp
      (fun _ ht => ht.stopJobs_ended hf hp hj hs) s (.refl ..)⟩

end Sys2Proof.Machine

end

section
/-! SUPPORT. How the presses of a vat are scrubbed when it is pulped or reset (R352 steps 4 and 6, R356): its jobs stop, its
arrays are cleared, its plates wait to be pulped, and its work counters are cleared. -/

namespace Sys2Proof.Machine

variable {v : Nat} {s t u : State} {f : Job → Job} {mark : Job → Bool} {scrub : PressRec → PressRec} {l : List Nat}

/-! ## One press -/

/-- A press whose plates wait to be pulped (R352 step 4). -/
def PressRec.pulping (r : PressRec) : PressRec :=
  { r with
    engraving := none, handover := false, returning := none, engageTodo := [], rotation := .suspended
    plates := tmap {} (fun _ y => { y with ready := none, limitTripped := false, inPlace := false }) r.plates }

/-- The plates of a press leave the queue for engraving power, and enter it to be pulped (R323, R352 step 4). -/
def queuePulps (p : Nat) (purpose : Purpose) (s : State) : State :=
  forN 17 (fun q t => askPower { cls := 2, press := Fin.ofNat 68 p, plate := Fin.ofNat 17 q, purpose := purpose } t)
    { s with engQueue := s.engQueue.filter fun e => decide (e.press.val ≠ p) }

theorem queuePulps_frame (p : Nat) (purpose : Purpose) (s : State) :
    ∃ queue, queuePulps p purpose s = { s with engQueue := queue } :=
  forN_inv (fun t => ∃ queue, t = { s with engQueue := queue }) 17 _
    (fun _ _ t ⟨queue, ht⟩ => by subst ht; exact ⟨_, rfl⟩) _ ⟨_, rfl⟩

theorem pulpPlates_eq (p : Nat) (purpose : Purpose) (s : State) :
    pulpPlates p purpose s = queuePulps p purpose (s.updPress p PressRec.pulping) := by
  rfl

/-- What a scrubbing of a press leaves of it. -/
structure Scrubs (scrub : PressRec → PressRec) : Prop where
  state : ∀ r, (scrub r).state = r.state
  vat : ∀ r, (scrub r).vat = r.vat
  slots : ∀ r, (scrub r).slots = r.slots

theorem scrubs_resetPressData : Scrubs resetPressData := by
  constructor <;> intro r <;> simp only [resetPressData, clearTenantCounters, clearMacros, zeroData, clearPasses]

theorem scrubs_scrubPress : Scrubs scrubPress :=
  ⟨scrubs_resetPressData.state, scrubs_resetPressData.vat, scrubs_resetPressData.slots⟩

theorem clearTenantCounters_bank (r : PressRec) (b : Nat) :
    ((clearTenantCounters r).bank b).outputAcc = (r.bank b).outputAcc := by
  have e : (clearTenantCounters r).bank b = _ := tget_tmap _ _ b rfl
  rw [e]
  rfl

/-- A macro that is cleared holds no weights and no sums (R352 step 4). -/
theorem clearMacros_macro (r : PressRec) (m : Nat) :
    ((clearMacros r).macro' m).acc = [] ∧ ((clearMacros r).macro' m).weights = [] := by
  have e : (clearMacros r).macro' m = _ := tget_tmap _ _ m rfl
  rw [e]
  exact ⟨rfl, rfl⟩

theorem scrubPress_bank (r : PressRec) (b : Nat) : ((scrubPress r).bank b).outputAcc = [] := by
  have e : (scrubPress r).bank b = { (clearTenantCounters (clearMacros (zeroData r))).bank b with regs := {} } :=
    tget_tmap _ _ b rfl
  rw [e]
  show ((clearTenantCounters (clearMacros (zeroData r))).bank b).outputAcc = []
  rw [clearTenantCounters_bank]
  show ((zeroData r).bank b).outputAcc = []
  rw [zeroData_bank]

/-! ## The presses of a list -/

/-- Between s and t the presses of a list were scrubbed and their plates put up for pulping. -/
structure PressesScrubbed (scrub : PressRec → PressRec) (l : List Nat) (s t : State) : Prop where
  device : t = { s with presses := t.presses, engQueue := t.engQueue }
  state : ∀ q, (t.press q).state = (s.press q).state
  vat : ∀ q, (t.press q).vat = (s.press q).vat
  slots : ∀ q, (t.press q).slots = (s.press q).slots
  scrubbed : ∀ q ∈ l, ∃ r, t.press q = (scrub r).pulping

/-- A press is scrubbed and its plates put up for pulping. -/
def scrubAndPulp (scrub : PressRec → PressRec) (purpose : Purpose) (p : Nat) (s : State) : State :=
  pulpPlates p purpose (s.updPress p scrub)

theorem scrubAndPulp_frame (scrub : PressRec → PressRec) (purpose : Purpose) (p : Nat) (s : State) :
    ∃ presses queue, scrubAndPulp scrub purpose p s = { s with presses := presses, engQueue := queue } := by
  obtain ⟨queue, queued⟩ := queuePulps_frame p purpose ((s.updPress p scrub).updPress p PressRec.pulping)
  exact ⟨_, queue, queued⟩

theorem scrubAndPulp_press (purpose : Purpose) (p q : Nat) (s : State) :
    (scrubAndPulp scrub purpose p s).press q = if q = p then (scrub (s.press p)).pulping else s.press q := by
  obtain ⟨queue, queued⟩ := queuePulps_frame p purpose ((s.updPress p scrub).updPress p PressRec.pulping)
  rw [scrubAndPulp, pulpPlates_eq, queued]
  show ((s.updPress p scrub).updPress p PressRec.pulping).press q = _
  simp only [State.press_updPress, if_true]
  split <;> rfl

theorem presses_scrubbed (hs : Scrubs scrub) (purpose : Purpose) (l : List Nat) (s : State) :
    PressesScrubbed scrub l s (forL l (scrubAndPulp scrub purpose) s) := by
  have keep {α : Type} (g : PressRec → α) (hg : ∀ r, g (scrub r).pulping = g r) (q : Nat) :
      g ((forL l (scrubAndPulp scrub purpose) s).press q) = g (s.press q) := by
    refine forL_keep (fun t => g (t.press q)) _ _ (fun p _ t => ?_) s
    rw [scrubAndPulp_press]
    split
    case isTrue h => rw [hg, h]
    case isFalse => rfl
  refine ⟨?_, keep _ hs.state, keep _ hs.vat, keep _ hs.slots, fun q hq => ?_⟩
  · refine forL_inv (fun t => t = { s with presses := t.presses, engQueue := t.engQueue }) _ _ (fun p _ t ht => ?_) s rfl
    obtain ⟨presses, queue, frame⟩ := scrubAndPulp_frame scrub purpose p t
    rw [frame, ht]
  · refine forL_reaches (fun _ => True) (fun t => ∃ r, t.press q = (scrub r).pulping) (fun _ _ _ _ => trivial)
      (fun p _ t _ ⟨r, hr⟩ => ?_) hq (fun t _ => ⟨_, (scrubAndPulp_press ..).trans (if_pos rfl)⟩) s trivial
    rw [scrubAndPulp_press]
    split
    · exact ⟨_, rfl⟩
    · exact ⟨r, hr⟩

/-! ## The vat -/

/-- The presses that serve a vat are known by their states and vats. -/
theorem servingPresses_congr (hs : ∀ q, (t.press q).state = (s.press q).state) (hv : ∀ q, (t.press q).vat = (s.press q).vat)
    (v : Nat) : servingPresses t v = servingPresses s v := by
  have owned : t.vatPresses v = s.vatPresses v :=
    List.filter_congr fun q _ => by rw [State.pressVat, State.pressVat, hv]
  rw [servingPresses, servingPresses, swapPresses, swapPresses, owned]
  exact List.filter_congr fun q _ => by rw [hs]

/-- A vat's own work counters are cleared, and no others (R352 step 6). -/
theorem clearCounters_counter {c : Nat} (hc : c < 512) (v : Nat) (s : State) : (clearCounters v s).counter (512 * v + c) = {} :=
  (tget_tcut ..).trans (if_pos ⟨Nat.le_add_right .., Nat.add_lt_add_left hc _⟩)

/-- Between s and t the jobs of the presses that serve vat v stopped with an outcome, those presses were scrubbed and put up
for pulping, and the vat's work counters were cleared. -/
structure VatScrubbed (f : Job → Job) (mark : Job → Bool) (scrub : PressRec → PressRec) (v : Nat) (s t : State) : Prop where
  device : { t with engQueue := [] }.apartJobs = { s with engQueue := [] }.apartJobs
  state : ∀ q, (t.press q).state = (s.press q).state
  vat : ∀ q, (t.press q).vat = (s.press q).vat
  scrubbed : ∀ q ∈ servingPresses s v, ∃ r, t.press q = (scrub r).pulping
  ended : ∀ q ∈ servingPresses s v, ∀ k j, (s.press q).slot k = some j → j.state ≠ .posting →
    EndedMarked mark ((t.press q).slot k)
  counters : ∀ c, c < 512 → t.counter (512 * v + c) = {}
  silent : (∀ q ∈ servingPresses s v, ∀ k j, (s.press q).slot k = some j → j.state ≠ .posting → SilentStop f s q j) →
    t = { s with presses := t.presses, counters := t.counters, engQueue := t.engQueue }

theorem scrubVat_scrubbed (hf : VatOutcome f mark) (hs : Scrubs scrub) (v : Nat) (purpose : Purpose) (s : State) :
    VatScrubbed f mark scrub v s (scrubVat v purpose f scrub s) := by
  obtain ⟨stopped, ended⟩ := stopPresses_stopped hf (servingPresses s v) s
  have eq : scrubVat v purpose f scrub s = clearCounters v (forL (servingPresses s v) (scrubAndPulp scrub purpose)
    (forL (servingPresses s v) (fun p t => stopJobs p (fun _ => true) f t) s)) := rfl
  rw [eq]
  generalize forL (servingPresses s v) (fun p t => stopJobs p (fun _ => true) f t) s = t at stopped ended ⊢
  have scrubbed := presses_scrubbed hs purpose (servingPresses s v) t
  generalize forL (servingPresses s v) (scrubAndPulp scrub purpose) t = u at scrubbed ⊢
  have own {α : Type} (g : PressRec → α) (q : Nat) : g (t.press q).apartWork = g (s.press q).apartWork :=
    congrArg g (stopped.own q).record
  refine ⟨?_, fun q => (scrubbed.state q).trans (own PressRec.state q), fun q => (scrubbed.vat q).trans (own PressRec.vat q),
    scrubbed.scrubbed, fun q hq k j hj posting => ?_, fun c hc => clearCounters_counter hc v u, fun silent => ?_⟩
  · rw [scrubbed.device]
    exact (congrArg (fun x : State => { x with engQueue := [] }) stopped.device :)
  · show EndedMarked mark ((u.press q).slot k)
    rw [PressRec.slot, scrubbed.slots]
    exact ended q hq k j hj posting
  · rw [scrubbed.device, stopped.silent silent]
    rfl

end Sys2Proof.Machine

end

section
/-! SUPPORT. PULP (R352, R355): the write of the command, the reams that become void, the pages that wait to be pulped, and the
state in which the vat is then. -/

namespace Sys2Proof.Machine

variable {v : Nat} {s t u : State}

/-! ## VatCommand -/

/-- M and H may write PULP and RESET to VatCommand (R368). -/
theorem direct_vatCommand {pr : Principal} (v : Vat) (x : Byte) (hs : s.dev.started = true) (hpr : pr = .M ∨ pr = .H)
    (hx : x = 2 ∨ x = 3) : direct pr (0x2100 + v.val) 0x02 0 [x] s =
      .next ((vatCommand v pr 0 [x] s).2.answer (vatCommand v pr 0 [x] s).1) := by
  have idx : 0x2100 + v.val ≠ 0x2D10 ∧ 0x2100 + v.val ≠ 0x2920 := by omega
  have check : writeCheck s pr (decide (0x2100 + v.val = 0x2920))
      ((command (.num 1) mh (vatCommand v)).ownedBy (.vat v)) 0 [x] = resOk := by
    rw [decide_eq_false idx.2]
    rcases hpr with rfl | rfl <;> rcases hx with rfl | rfl <;> rfl
  exact direct_accepted hs (by simp) (by decide) (objAt_vat v (by decide)) idx.1 check

/-! ## The reams -/

/-- Between s and t everything that vat v holds of reams became void (R352 step 7, R356). -/
structure ReamsVoid (v : Nat) (s t : State) : Prop where
  device : t = { s with vats := t.vats, hubs := { s.hubs with mem := t.hubs.mem, poison := t.hubs.poison } }
  vat : t.vat v = { s.vat v with
    currentEpoch := 0, incomingEpoch := none, active := none, pendingReam := none, swap := {}, epochs := [], tableSet0 := {}
    tableSet1 := {}, tableNow := false, voidActive := (t.vat v).voidActive, voidPending := (t.vat v).voidPending
    load := (t.vat v).load }
  load : (t.vat v).load.state ≠ .fetching ∧ (t.vat v).load.state ≠ .staged
  others : ∀ w, w ≠ v → t.vat w = s.vat w
  kept : ∀ f i, f ∉ pendingFrames s v → i < 2048 → t.frameRead f i 1 = s.frameRead f i 1

theorem dropReams_void (v : Nat) (s : State) : ReamsVoid v s (dropReams v s) := by
  obtain ⟨device, vat, load, others, -, kept⟩ := abortLoad_ended v s
  unfold dropReams
  generalize abortLoad v s = u at device vat load others kept ⊢
  constructor
  case device => rw [device]; rfl
  case vat =>
    rw [State.vat_updVat, if_pos rfl, vat]
  case load =>
    rw [State.vat_updVat, if_pos rfl]
    exact load
  case others =>
    intro w hw
    rw [State.vat_updVat, if_neg hw, others w hw]
  case kept => exact kept

/-! ## The pages -/

/-- An entry of the page map once pulping of vat v has begun (R355). -/
def PageEntry.pulpedFor (v f : Nat) (e : PageEntry) : PageEntry :=
  if e.state = .owned ∧ e.vat = v ∧ 65536 ≤ f then { e with state := .pulping } else e

theorem startPagePulp_frame (v : Nat) (s : State) :
    ∃ map events, startPagePulp v s = { s with hubs := { s.hubs with map := map }, events := events } := by
  simp only [startPagePulp]
  refine forL_inv (fun t => ∃ map events, t = { s with hubs := { s.hubs with map := map }, events := events }) _ _
    (fun c _ t ⟨map, events, ht⟩ => ?_) _ ⟨_, _, rfl⟩
  subst ht
  exact ⟨_, _, rfl⟩

/-- With no page under copy, pulping of the pages marks their entries and does no more. -/
theorem startPagePulp_uncopied (v : Nat) (h : s.hubs.copies = []) : startPagePulp v s =
    s.updHubs fun h => { h with map := tmap {} (PageEntry.pulpedFor v) h.map } := by
  simp only [startPagePulp, h]
  rfl

/-- A page that the vat owns is PULPING then. -/
theorem pageEntry_pulped {f : Nat} (hm : t.hubs.map = tmap {} (PageEntry.pulpedFor v) s.hubs.map) (hf : 65536 ≤ f)
    (ho : (s.pageEntry f).state = .owned) (hv : (s.pageEntry f).vat = v) : (t.pageEntry f).state = .pulping := by
  have entry : ∀ x : State, x.pageEntry f = tget {} x.hubs.map f := fun x => if_neg (Nat.not_lt.mpr hf)
  rw [entry] at ho hv
  rw [entry, hm, tget_tmap _ (PageEntry.pulpedFor v) _ (if_neg fun h => PageSt.noConfusion h.1), PageEntry.pulpedFor, if_pos ⟨ho, hv, hf⟩]

/-! ## PULP -/

/-- The outcome of a job whose vat is pulped. -/
abbrev Job.pulped (j : Job) : Job := { j with vatPulping := true }

/-- The state of a vat that is SERVING no longer, before its presses are scrubbed (R352 steps 1 and 3). -/
def pulpEntered (v : Nat) (s : State) : State :=
  dropReams v (markWaiting v Job.pulped (raise evVatPulpStarted none none (some v) (leBytes 1 1)
    (s.updVat v (VatRec.pulpStarted false (17 * (servingPresses s v).length) (vatFrames s v .owned).length))))

theorem beginPulp_eq (v : Nat) (s : State) : beginPulp v false false s =
    (startPagePulp v (scrubVat v .vatPulp Job.pulped scrubPress (pulpEntered v s))).updVat v
      fun r => { r with publisherKey := 0 } := rfl

/-- Between s and t the jobs that wait in the bridge were marked, and the reams of the vat became void (R352). -/
structure PulpEntered (v : Nat) (s t : State) : Prop where
  device : t = { s with
    vats := t.vats, streams := (markWaiting v Job.pulped s).streams, events := t.events
    hubs := { s.hubs with mem := t.hubs.mem, poison := t.hubs.poison } }
  reams : (t.vat v).active = none ∧ (t.vat v).pendingReam = none ∧ (t.vat v).swap.active = false ∧
    (t.vat v).currentEpoch = 0 ∧ (t.vat v).incomingEpoch = none
  status : (t.vat v).state = .pulping ∧ (t.vat v).pulpForDebug = false ∧
    (t.vat v).padWatts = BitVec.ofNat 16 (vatPower (s.vat v))
  load : (t.vat v).load.state ≠ .fetching ∧ (t.vat v).load.state ≠ .staged
  others : ∀ w, w ≠ v → t.vat w = s.vat w
  logged : Safety.Logged s t evVatPulpStarted none none (some v) (leBytes 1 1)

theorem pulpEntered_entered (v : Nat) (s : State) : PulpEntered v s (pulpEntered v s) := by
  have logged := raise_logged evVatPulpStarted none none (some v) (leBytes 1 1)
    (s.updVat v (VatRec.pulpStarted false (17 * (servingPresses s v).length) (vatFrames s v .owned).length))
  unfold pulpEntered
  generalize hm : markWaiting v Job.pulped _ = m
  have here : m.vat v = (s.vat v).pulpStarted false (17 * (servingPresses s v).length) (vatFrames s v .owned).length := by
    rw [← hm]
    exact (State.vat_updVat ..).trans (if_pos rfl)
  have elsewhere : ∀ w, w ≠ v → m.vat w = s.vat w := fun w hw => by
    rw [← hm]
    exact (State.vat_updVat ..).trans (if_neg hw)
  obtain ⟨device, vat, load, others, -⟩ := dropReams_void v m
  rw [here] at vat
  generalize dropReams v m = t at device vat load others ⊢
  have events : t.events = m.events := (congrArg State.events device :)
  refine ⟨?_, ?_, ?_, load, fun w hw => (others w hw).trans (elsewhere w hw), ?_⟩
  · rw [device, ← hm]
    rfl
  · rw [vat]
    exact ⟨rfl, rfl, rfl, rfl, rfl⟩
  · rw [vat]
    exact ⟨rfl, rfl, rfl⟩
  · rw [← hm] at events
    exact (logged.to_events events).of_events rfl

end Sys2Proof.Machine

namespace Sys2Proof.Settled
open Sys2Proof.Machine

/-- Settles O19: no job that a pulp stops writes anything, so what is left to change are presses, work counters, the queue for
power and the pages. -/
theorem vatPulped : Obligations.VatPulped := by
  intro pr v s hs hpr
  have write : exec (.pulp pr v) s = .next ((pulpVat v s).2.answer (pulpVat v s).1) := direct_vatCommand v 2 hs hpr (.inl rfl)
  refine ⟨fun h => by rw [write, pulpVat, if_neg h], fun h => ?_⟩
  rw [write, pulpVat, if_pos h, beginPulp_eq]
  have entered := pulpEntered_entered v s
  generalize pulpEntered v s = m at entered ⊢
  have serving : servingPresses m v = servingPresses s v :=
    servingPresses_congr (fun q => by rw [entered.device]; rfl) (fun q => by rw [entered.device]; rfl) v
  have scrubbed : VatScrubbed Job.pulped Job.vatPulping scrubPress v m _ :=
    scrubVat_scrubbed vatOutcome_pulping scrubs_scrubPress v .vatPulp m
  generalize scrubVat v .vatPulp Job.pulped scrubPress m = u at scrubbed ⊢
  have silent := scrubbed.silent fun _ _ _ _ _ _ => .inl rfl
  obtain ⟨map, events, paged⟩ := startPagePulp_frame v u
  have press : (startPagePulp v u).press = u.press := by rw [paged]; rfl
  have vat : (startPagePulp v u).vat = m.vat := by rw [paged, silent]; rfl
  have key : ((startPagePulp v u).updVat v fun r => { r with publisherKey := 0 }).vat v =
      { m.vat v with publisherKey := 0 } := by
    rw [State.vat_updVat, if_pos rfl, vat]
  have copies : u.hubs.copies = s.hubs.copies := by rw [silent, entered.device]
  have uncopied (h : s.hubs.copies = []) := startPagePulp_uncopied (s := u) v (copies.trans h)
  refine ⟨_, rfl, ?_⟩
  rw [key]
  refine ⟨entered.status.1, entered.status.2.1, entered.reams.1, entered.reams.2.1, entered.reams.2.2.1, entered.reams.2.2.2.1,
    entered.reams.2.2.2.2, rfl, entered.status.2.2, entered.load.1, entered.load.2, ?counters, ?pages, ?presses, ?kept,
    ?others, ?streams, ?memory, ?alone, ?frame⟩
  case counters =>
    intro c hc
    show tget {} (startPagePulp v u).counters _ = {}
    rw [paged]
    exact scrubbed.counters c hc
  case pages =>
    intro f hf ho hv h
    refine pageEntry_pulped (s := s) ?_ hf ho hv
    show (startPagePulp v u).hubs.map = _
    rw [uncopied h, silent, entered.device]
    rfl
  case presses =>
    intro p hp
    have serves : p.val ∈ servingPresses m v := serving ▸ List.contains_iff_mem.mp hp
    show ((startPagePulp v u).press p).scratch = [] ∧ ((startPagePulp v u).press p).felt = [] ∧
      (∀ b, (((startPagePulp v u).press p).bank b).outputAcc = []) ∧
      (∀ n, (((startPagePulp v u).press p).macro' n).acc = [] ∧ (((startPagePulp v u).press p).macro' n).weights = []) ∧
      ∀ k j, (s.press p).slot k = some j → j.state ≠ .posting → EndedMarked Job.vatPulping (((startPagePulp v u).press p).slot k)
    rw [press]
    refine ⟨?_, ?_, ?_, ?_, fun k j hj => scrubbed.ended p serves k j (by rw [entered.device]; exact hj)⟩
    all_goals
      obtain ⟨r, hr⟩ := scrubbed.scrubbed p serves
      rw [hr]
    · rfl
    · rfl
    · exact scrubPress_bank r
    · exact clearMacros_macro (zeroData r)
  case kept =>
    intro p
    show ((startPagePulp v u).press p).state = _ ∧ ((startPagePulp v u).press p).vat = _
    rw [press, scrubbed.state, scrubbed.vat, entered.device]
    exact ⟨rfl, rfl⟩
  case others =>
    intro w hw
    rw [State.vat_updVat, if_neg (Fin.val_ne_of_ne hw), vat, entered.others w (Fin.val_ne_of_ne hw)]
  case streams =>
    show (startPagePulp v u).streams = _
    rw [paged, silent, entered.device]
  case memory =>
    show (startPagePulp v u).hostMem = _
    rw [paged, silent, entered.device]
  case alone =>
    intro h
    show (startPagePulp v u).heldOps = _ ∧ (startPagePulp v u).free = _ ∧ _
    rw [uncopied h, silent]
    exact ⟨by rw [entered.device]; rfl, by rw [entered.device]; rfl, entered.logged⟩
  case frame =>
    rw [paged, silent, entered.device]
    rfl

end Sys2Proof.Settled
end

section
/-! SUPPORT. VAT_RESET and its end (R356, R445, R463): the staging pages that are written with zeros, the generators that are
seeded, and the plates that are BLANK afterwards. -/

namespace Sys2Proof.Machine

variable {v : Nat} {s t u : State}

/-! ## Pages of a vat's staging area -/

/-- A page map entry that is not the default stands in the map. -/
theorem mem_of_tget_ne {α : Type} {d : α} {k : Nat} {m : Tab α} (h : tget d m k ≠ d) : (k, tget d m k) ∈ m := by
  induction m with
  | nil => exact absurd rfl h
  | cons x m ih =>
    obtain ⟨i, a⟩ := x
    simp only [tget] at h ⊢
    split
    case isTrue hi => exact hi ▸ List.mem_cons_self
    case isFalse hi =>
      rw [if_neg hi] at h
      exact List.mem_cons_of_mem _ (ih h)

/-- Only the frames of the page map itself read otherwise than their entries (R288), so a staging page is listed. -/
theorem listed_of_staging {f : Nat} (ho : (s.pageEntry f).state = .owned) (hu : (s.pageEntry f).use = .staging) :
    (f, s.pageEntry f) ∈ s.hubs.map := by
  have entry : s.pageEntry f = tget {} s.hubs.map f := by
    refine if_neg fun low => ?_
    rw [State.pageEntry, if_pos low] at hu
    cases hu
  rw [entry] at ho ⊢
  refine mem_of_tget_ne fun free => ?_
  rw [free] at ho
  cases ho

/-- A vat page that translates as a staging page is one (R294, R309). -/
theorem staging_of_pageFrame {n f : Nat} (h : s.pageFrame .staging v n = some f) :
    (s.pageEntry f).state = .owned ∧ (s.pageEntry f).use = .staging := by
  unfold State.pageFrame at h
  rw [Option.ite_none_right_eq_some, Option.ite_none_right_eq_some] at h
  obtain ⟨-, ⟨ho, -, -, hu⟩, found⟩ := h
  exact Option.some.inj found ▸ ⟨ho, hu⟩

/-- The frames that hold a pending ream are staging pages. -/
theorem listed_of_pendingFrames {f : Nat} (h : f ∈ pendingFrames s v) : ∃ e, (f, e) ∈ s.hubs.map ∧ e.use = .staging := by
  obtain ⟨i, -, found⟩ := List.mem_filterMap.mp h
  obtain ⟨ho, hu⟩ := staging_of_pageFrame found
  exact ⟨_, listed_of_staging ho hu, hu⟩

/-- The frames of the staging pages of a vat (R309). -/
def stagingOf (v : Nat) (s : State) : List Nat :=
  (s.hubs.map.filter fun e => decide (e.2.state = .owned ∧ e.2.vat = v ∧ e.2.use = .staging)).map Prod.fst

theorem mem_stagingOf {f : Nat} (ho : (s.pageEntry f).state = .owned) (hv : (s.pageEntry f).vat = v)
    (hu : (s.pageEntry f).use = .staging) : f ∈ stagingOf v s :=
  List.mem_map.mpr ⟨_, List.mem_filter.mpr ⟨listed_of_staging ho hu, decide_eq_true ⟨ho, hv, hu⟩⟩, rfl⟩

theorem listed_of_stagingOf {f : Nat} (h : f ∈ stagingOf v s) : ∃ e, (f, e) ∈ s.hubs.map ∧ e.use = .staging := by
  obtain ⟨⟨f', e⟩, listed, rfl⟩ := List.mem_map.mp h
  obtain ⟨mem, staging⟩ := List.mem_filter.mp listed
  exact ⟨e, mem, (of_decide_eq_true staging).2.2⟩

/-- The entry of a page depends on the page map alone. -/
theorem pageEntry_congr (h : t.hubs.map = s.hubs.map) (f : Nat) : t.pageEntry f = s.pageEntry f := by
  rw [State.pageEntry, State.pageEntry, h]

/-! ## Generators -/

/-- Between s and t the generators of the presses of a list were seeded anew (R197, R446). -/
structure Reseeded (l : List Nat) (s t : State) : Prop where
  device : t = { s with presses := t.presses, free := t.free }
  press : ∀ q, t.press q = { s.press q with generator := (t.press q).generator, draws := (t.press q).draws }
  draws : ∀ q ∈ l, (t.press q).draws = 0

theorem reseed_press (p q : Nat) (s : State) : (reseed p s).press q = if q = p
    then { s.press p with generator := (Config.randomBits s.free).setWidth 64, draws := 0 } else s.press q :=
  State.press_updPress ..

theorem reseeded (l : List Nat) (s : State) : Reseeded l s (forL l reseed s) where
  device := forL_inv (fun t => t = { s with presses := t.presses, free := t.free }) _ _
    (fun p _ t ht => by rw [ht]; rfl) s rfl
  press q := forL_inv (fun t => t.press q =
      { s.press q with generator := (t.press q).generator, draws := (t.press q).draws }) _ _
    (fun p _ t ht => by
      rw [reseed_press]
      split
      case isTrue hq => subst hq; rw [ht]
      case isFalse => exact ht) s rfl
  draws q hq := forL_reaches (fun _ => True) (fun t => (t.press q).draws = 0) (fun _ _ _ _ => trivial)
    (fun p _ t _ ht => by
      rw [reseed_press]
      split
      · rfl
      · exact ht) hq (fun t _ => by rw [reseed_press, if_pos rfl]) s trivial

/-! ## VAT_RESET -/

/-- The outcome of a job whose vat is reset. -/
abbrev Job.resetting (j : Job) : Job := { j with vatResetting := true }

/-- Device control with one more vat reset counted (R459). -/
def Dev.vatResetCounted (d : Dev) : Dev := { d with resetCounts := lset d.resetCounts 1 (satInc (lget 0 d.resetCounts 1)) }

/-- A vat whose reset begins (R356). -/
def VatRec.resetBegun (r : VatRec) : VatRec := { r with state := .resetting }

/-- The state of a vat under reset before its presses are scrubbed (R356). -/
def resetEntered (v : Nat) (s : State) : State :=
  dropReams v (countReset 1 ((markWaiting v Job.resetting s).updVat v VatRec.resetBegun))

/-- Between s and t the jobs that wait in the bridge were marked, the reset counted, and the reams of the vat became void. -/
structure ResetEntered (v : Nat) (s t : State) : Prop where
  device : t = { s with
    vats := t.vats, streams := (markWaiting v Job.resetting s).streams, dev := s.dev.vatResetCounted
    hubs := { s.hubs with mem := t.hubs.mem, poison := t.hubs.poison } }
  vat : (t.vat v).state = .resetting ∧ (t.vat v).active = none ∧ (t.vat v).pendingReam = none ∧
    (t.vat v).swap.active = false ∧ (t.vat v).publisherKey = (s.vat v).publisherKey
  others : ∀ w, w ≠ v → t.vat w = s.vat w
  kept : ∀ f i, i < 2048 → (∀ e ∈ s.hubs.map, e.1 = f → e.2.use ≠ .staging) → t.frameRead f i 1 = s.frameRead f i 1

theorem resetEntered_entered (v : Nat) (s : State) : ResetEntered v s (resetEntered v s) := by
  unfold resetEntered
  generalize hm : countReset 1 ((markWaiting v Job.resetting s).updVat v VatRec.resetBegun) = m
  have here : m.vat v = (s.vat v).resetBegun := by
    rw [← hm]
    exact (State.vat_updVat (markWaiting v Job.resetting s) v v VatRec.resetBegun).trans (if_pos rfl)
  have elsewhere : ∀ w, w ≠ v → m.vat w = s.vat w := fun w hw => by
    rw [← hm]
    exact (State.vat_updVat (markWaiting v Job.resetting s) v w VatRec.resetBegun).trans (if_neg hw)
  have hubs : m.hubs = s.hubs := by rw [← hm]; rfl
  obtain ⟨device, vat, -, others, kept⟩ := dropReams_void v m
  rw [here] at vat
  generalize dropReams v m = t at device vat others kept ⊢
  refine ⟨?_, ?_, fun w hw => (others w hw).trans (elsewhere w hw), fun f i hi unstaged => ?_⟩
  · rw [device, ← hm]
    rfl
  · rw [vat]
    exact ⟨rfl, rfl, rfl, rfl, rfl⟩
  · rw [← frameRead_congr hubs]
    refine kept f i (fun pending => ?_) hi
    obtain ⟨e, listed, staging⟩ := listed_of_pendingFrames pending
    exact unstaged (f, e) (hubs ▸ listed) rfl staging

/-- Between s and t vat v was reset (R356): jobs stopped, presses scrubbed and seeded, and staging pages written with zeros. -/
structure VatCleared (v : Nat) (s t : State) : Prop where
  device : { t with engQueue := [] }.apartJobs = { s with engQueue := [] }.apartJobs
  state : ∀ q, (t.press q).state = (s.press q).state
  vat : ∀ q, (t.press q).vat = (s.press q).vat
  cleared : ∀ q ∈ servingPresses s v, (t.press q).scratch = [] ∧ (t.press q).felt = [] ∧ (t.press q).draws = 0
  ended : ∀ q ∈ servingPresses s v, ∀ k j, (s.press q).slot k = some j → j.state ≠ .posting →
    EndedMarked Job.vatResetting ((t.press q).slot k)
  counters : ∀ c, c < 512 → t.counter (512 * v + c) = {}
  zeros : ∀ f ∈ stagingOf v s, t.frameRead f 0 2048 = List.replicate 2048 0
  silent : (∀ q ∈ servingPresses s v, ∀ k j, (s.press q).slot k = some j → j.state ≠ .posting → SilentStop Job.resetting s q j) →
    t.streams = s.streams ∧ t.hostMem = s.hostMem ∧ ∀ f i, f ∉ stagingOf v s → i < 2048 → t.frameRead f i 1 = s.frameRead f i 1

/-- The state with vat v reset, once its reams are void (R356). -/
def vatCleared (v : Nat) (s : State) : State :=
  let u := scrubVat v .resetPulp Job.resetting resetPressData s
  let w := forL (servingPresses u v) reseed u
  forL (stagingOf v w) zeroFrame w

theorem resetVat_serving (h : (s.vat v).state = .serving) : resetVat v s = (resOk, vatCleared v (resetEntered v s)) :=
  if_neg (not_not.mpr h)

theorem vatCleared_cleared (v : Nat) (s : State) : VatCleared v s (vatCleared v s) := by
  have scrubbed : VatScrubbed Job.resetting Job.vatResetting resetPressData v s _ :=
    scrubVat_scrubbed vatOutcome_resetting scrubs_resetPressData v .resetPulp s
  unfold vatCleared
  generalize scrubVat v .resetPulp Job.resetting resetPressData s = u at scrubbed ⊢
  have seeded := reseeded (servingPresses u v) u
  dsimp only
  generalize forL (servingPresses u v) reseed u = w at seeded ⊢
  have map : w.hubs.map = s.hubs.map := by
    rw [seeded.device]
    exact (congrArg (fun x => x.hubs.map) scrubbed.device :)
  have staging : stagingOf v w = stagingOf v s := by rw [stagingOf, map, stagingOf]
  have serving : servingPresses u v = servingPresses s v := servingPresses_congr scrubbed.state scrubbed.vat v
  have zeroed := framesZeroed (stagingOf v w) w
  rw [staging] at zeroed ⊢
  generalize forL (stagingOf v s) zeroFrame w = t at zeroed ⊢
  have press : t.press = w.press := by rw [zeroed.device]; rfl
  constructor
  case device =>
    rw [zeroed.device, seeded.device]
    exact scrubbed.device
  case state =>
    intro q
    rw [press, seeded.press, scrubbed.state]
  case vat =>
    intro q
    rw [press, seeded.press, scrubbed.vat]
  case cleared =>
    intro q hq
    obtain ⟨r, hr⟩ := scrubbed.scrubbed q hq
    rw [press]
    refine ⟨?_, ?_, seeded.draws q (serving ▸ hq)⟩
    · rw [seeded.press, hr]
      rfl
    · rw [seeded.press, hr]
      rfl
  case ended =>
    intro q hq k j hj posting
    rw [press, seeded.press]
    exact scrubbed.ended q hq k j hj posting
  case counters =>
    intro c hc
    rw [zeroed.device, seeded.device]
    exact scrubbed.counters c hc
  case zeros => exact fun f hf => tgetN_eq_replicate (zeroed.zeros f hf)
  case silent =>
    intro silent
    have frame := scrubbed.silent silent
    have hubs : w.hubs = s.hubs := by rw [seeded.device, frame]
    refine ⟨by rw [zeroed.device, seeded.device, frame], by rw [zeroed.device, seeded.device, frame], fun f i hf hi => ?_⟩
    rw [← frameRead_congr hubs]
    exact congrArg (fun x => [x]) (zeroed.kept f hf i hi)

/-! ## VAT_RESET_END -/

/-- A plate with the epoch 0x0000 (R356). -/
def PlateRec.blankEpoch (y : PlateRec) : PlateRec := { y with epoch := 0 }

/-- The first n plates of a press count as BLANK with the epoch 0x0000. -/
def blankPlates (n p : Nat) (s : State) : State := forN n (fun q u => u.updPlate p q PlateRec.blankEpoch) s

theorem blankEpochs_eq (v : Nat) (s : State) : blankEpochs v s = forL (s.vatPresses v) (blankPlates 17) s := rfl

/-- Between s and t only presses of a list changed, and each kept its vat. -/
structure PressesChanged (l : List Nat) (s t : State) : Prop where
  device : t = { s with presses := t.presses }
  vat : ∀ q, (t.press q).vat = (s.press q).vat
  others : ∀ q, q ∉ l → t.press q = s.press q

theorem PressesChanged.refl (l : List Nat) (s : State) : PressesChanged l s s := ⟨rfl, fun _ => rfl, fun _ _ => rfl⟩

theorem PressesChanged.updPress {l : List Nat} {p : Nat} {f : PressRec → PressRec} (h : PressesChanged l s t) (hp : p ∈ l)
    (hf : ∀ r, (f r).vat = r.vat) : PressesChanged l s (t.updPress p f) where
  device := by rw [h.device]; rfl
  vat q := by
    rw [State.press_updPress]
    split
    case isTrue e => rw [hf, h.vat, e]
    case isFalse => exact h.vat q
  others q hq := by rw [State.press_updPress, if_neg fun e : q = p => hq (e ▸ hp), h.others q hq]

theorem PressesChanged.blankPlates {l : List Nat} {p : Nat} (h : PressesChanged l s t) (hp : p ∈ l) (n : Nat) :
    PressesChanged l s (blankPlates n p t) :=
  forN_inv (PressesChanged l s) n _
    (fun q _ _ hu => hu.updPress (f := fun r => r.updPlate q PlateRec.blankEpoch) hp fun _ => rfl) t h

theorem blankPlates_epoch {n p q : Nat} (hq : q < n) (s : State) : (((blankPlates n p s).press p).plate q).epoch = 0 := by
  refine forL_reaches (fun _ => True) (fun t => ((t.press p).plate q).epoch = 0) (fun _ _ _ _ => trivial)
    (fun i _ t _ ht => ?_) (List.mem_range.mpr hq) (fun t _ => ?_) s trivial
  · rw [State.press_updPlate, if_pos rfl, PressRec.plate_updPlate]
    split
    · rfl
    · exact ht
  · rw [State.press_updPlate, if_pos rfl, PressRec.plate_updPlate, if_pos rfl]
    rfl

theorem blankPlates_press_ne {p i : Nat} (h : i ≠ p) (n : Nat) (s : State) : (blankPlates n p s).press i = s.press i :=
  forN_keep (fun t => t.press i) n _ (fun q _ t => by rw [State.press_updPlate, if_neg h]) s

theorem blankEpochs_changed (v : Nat) (s : State) : PressesChanged (s.vatPresses v) s (blankEpochs v s) ∧
    ∀ p ∈ s.vatPresses v, ∀ q : Plate, (((blankEpochs v s).press p).plate q).epoch = 0 := by
  rw [blankEpochs_eq]
  refine ⟨forL_inv (PressesChanged (s.vatPresses v) s) _ _ (fun p hp t ht => ht.blankPlates hp 17) s (.refl ..),
    fun p hp q => ?_⟩
  refine forL_reaches (fun _ => True) (fun t => ((t.press p).plate q).epoch = 0) (fun _ _ _ _ => trivial)
    (fun i _ t _ ht => ?_) hp (fun t _ => blankPlates_epoch q.isLt t) s trivial
  by_cases hi : p = i
  · exact hi ▸ blankPlates_epoch q.isLt t
  · rw [blankPlates_press_ne hi]
    exact ht

theorem resumeRotation_kept (r : PressRec) : resumeRotation r = { r with rotation := (resumeRotation r).rotation } := by
  unfold resumeRotation
  split <;> rfl

/-- Rotation goes on in the presses of a list, and their plates stay. -/
theorem resumed (l : List Nat) (s : State) : PressesChanged l s (forL l (fun p t => t.updPress p resumeRotation) s) ∧
    ∀ p, ((forL l (fun p t => t.updPress p resumeRotation) s).press p).plates = (s.press p).plates := by
  have vat (r : PressRec) : (resumeRotation r).vat = r.vat := by rw [resumeRotation_kept]
  refine ⟨forL_inv (PressesChanged l s) _ _ (fun p hp t ht => ht.updPress hp vat) s (.refl ..), fun p => ?_⟩
  refine forL_keep (fun t => (t.press p).plates) _ _ (fun i _ t => ?_) s
  rw [State.press_updPress]
  split
  case isTrue e => rw [resumeRotation_kept, e]
  case isFalse => rfl

/-- A vat that serves again after its reset (R356). -/
def VatRec.resetEnded (r : VatRec) : VatRec := { r with state := .serving, voidActive := 0, voidPending := 0 }

/-- The state in which the reset of a vat has ended, but for its event (R356). -/
def resetEnded (v : Nat) (s : State) : State :=
  let u := blankEpochs v (clearCounters v s)
  (forL (u.vatPresses v) (fun p t => t.updPress p resumeRotation) u).updVat v VatRec.resetEnded

theorem execVatResetEnd_waits {v : Vat} {ms : Nat} (h : (s.vat v).state ≠ .resetting ∨ platesPulped s v .resetPulp ≠ 0 ∨
    vatDrained s v = false) : execVatResetEnd v ms s = .next s :=
  if_pos (h.imp_right (Or.imp_right fun h => by rw [h]; rfl))

theorem execVatResetEnd_ends {v : Vat} {ms : Nat} (h : (s.vat v).state = .resetting) (hp : platesPulped s v .resetPulp = 0)
    (hd : vatDrained s v = true) : execVatResetEnd v ms s = .next (raiseResetDone none (some v.val) 2 ms (resetEnded v s)) :=
  if_neg (by simp [h, hp, hd])

/-- Between s and t the reset of vat v ended (R356). -/
structure VatResetEnded (v : Nat) (s t : State) : Prop where
  device : t = { s with presses := t.presses, vats := t.vats, counters := t.counters }
  vat : (t.vat v).state = .serving
  vats : ∀ w, w ≠ v → t.vat w = s.vat w
  blank : ∀ p ∈ s.vatPresses v, ∀ q : Plate, ((t.press p).plate q).epoch = 0
  others : ∀ p, p ∉ s.vatPresses v → t.press p = s.press p

theorem resetEnded_ended (v : Nat) (s : State) : VatResetEnded v s (resetEnded v s) := by
  obtain ⟨blanked, blank⟩ := blankEpochs_changed v (clearCounters v s)
  unfold resetEnded
  generalize blankEpochs v (clearCounters v s) = u at blanked blank ⊢
  have presses : u.vatPresses v = s.vatPresses v :=
    List.filter_congr fun q _ => by rw [State.pressVat, State.pressVat, blanked.vat]; rfl
  obtain ⟨resumed, plates⟩ := resumed (u.vatPresses v) u
  dsimp only
  generalize forL (u.vatPresses v) (fun p t => t.updPress p resumeRotation) u = w at resumed plates ⊢
  have vat : w.vat = s.vat := by rw [resumed.device, blanked.device]; rfl
  refine ⟨?_, ?_, fun i hi => ?_, fun p hp q => ?_, fun p hp => ?_⟩
  · rw [resumed.device, blanked.device]
    rfl
  · rw [State.vat_updVat, if_pos rfl]
    rfl
  · rw [State.vat_updVat, if_neg hi, vat]
  · show ((w.press p).plate q).epoch = 0
    rw [PressRec.plate, plates]
    exact blank p hp q
  · exact (resumed.others p (presses.symm ▸ hp)).trans (blanked.others p hp)

end Sys2Proof.Machine

namespace Sys2Proof.Settled
open Sys2Proof.Machine

/-- Settles O21: the reset clears presses whose jobs have ended with its mark, and writes zeros to staging pages alone; its end
changes nothing but the vat, its presses and its work counters. -/
theorem vatReset : Obligations.VatReset := by
  refine ⟨fun pr v s hs hpr => ?begins, fun v ms s h => execVatResetEnd_waits h, fun v ms s h hp hd => ?ends⟩
  case begins =>
    have write : exec (.vatReset pr v) s = .next ((resetVat v s).2.answer (resetVat v s).1) :=
      direct_vatCommand v 3 hs hpr (.inr rfl)
    refine ⟨fun h => by rw [write, resetVat, if_pos h], fun h => ?_⟩
    rw [write, resetVat_serving h]
    have entered := resetEntered_entered v s
    generalize resetEntered v s = m at entered ⊢
    have cleared := vatCleared_cleared v m
    generalize vatCleared v m = t at cleared ⊢
    have press : m.press = s.press := by rw [entered.device]; rfl
    have vats : t.vat = m.vat := (congrArg State.vat cleared.device :)
    have map : t.hubs.map = s.hubs.map :=
      (congrArg (fun x => x.hubs.map) cleared.device :).trans (congrArg (fun x : State => x.hubs.map) entered.device :)
    have serving : servingPresses m v = servingPresses s v :=
      servingPresses_congr (fun q => by rw [press]) (fun q => by rw [press]) v
    have staging : stagingOf v m = stagingOf v s := by rw [stagingOf, stagingOf, entered.device]
    obtain ⟨state, active, pending, swap, key⟩ := entered.vat
    refine ⟨t, rfl, by rw [vats, state], by rw [vats, active], by rw [vats, pending], by rw [vats, swap], by rw [vats, key],
      cleared.counters, fun p hp => ?presses, fun p => ?kept, fun w hw => ?others, pageEntry_congr map,
      fun f ho hv hu => ?zeros, fun quiet => ?quiet, ?device⟩
    case presses =>
      have serves : p.val ∈ servingPresses m v := serving ▸ List.contains_iff_mem.mp hp
      obtain ⟨scratch, felt, draws⟩ := cleared.cleared p serves
      exact ⟨scratch, felt, draws, fun k j hj => cleared.ended p serves k j (by rw [press]; exact hj)⟩
    case kept =>
      rw [cleared.state, cleared.vat, press]
      exact ⟨rfl, rfl⟩
    case others => rw [vats, entered.others w (Fin.val_ne_of_ne hw)]
    case zeros => exact cleared.zeros f (staging ▸ mem_stagingOf ho hv hu)
    case quiet =>
      obtain ⟨streams, memory, frames⟩ := cleared.silent fun q hq k j hj _ => by
        rw [press] at hj
        have serves : q ∈ servingPresses s v := serving ▸ hq
        obtain ⟨internal, -, host⟩ := quiet ⟨q, (mem_swapPresses serves).2⟩ (List.contains_iff_mem.mpr serves) k j hj
        exact .inr ⟨internal, (hostRanges_congr s ..).trans host⟩
      refine ⟨streams.trans (by rw [entered.device]), memory.trans (by rw [entered.device]), fun f i hi unstaged => ?_⟩
      refine (frames f i (fun listed => ?_) hi).trans (entered.kept f i hi unstaged)
      obtain ⟨e, mem, use⟩ := listed_of_stagingOf (staging ▸ listed)
      exact unstaged (f, e) mem rfl use
    case device =>
      refine ⟨(congrArg State.dev cleared.device :).trans ?_, (congrArg State.settings cleared.device :).trans ?_,
        (congrArg State.mgmt cleared.device :).trans ?_⟩
      all_goals
        rw [entered.device]
        rfl
  case ends =>
    have ended := resetEnded_ended v s
    have run := execVatResetEnd_ends (ms := ms) h hp hd
    generalize resetEnded v s = u at ended run
    have owns (p : Press) : p.val ∈ s.vatPresses v ↔ (s.press p).vat = some v := by
      rw [State.vatPresses, List.mem_filter, decide_eq_true_iff, State.pressVat, Option.map_eq_some_iff]
      refine ⟨fun ⟨_, w, hw, e⟩ => Fin.val_inj.mp e ▸ hw, fun h => ⟨List.mem_range.mpr p.isLt, v, h, rfl⟩⟩
    refine ⟨_, run, ended.vat, fun p hv q => ended.blank p ((owns p).mpr hv) q, fun p hv => ended.others p fun h => hv ((owns p).mp h),
      fun w hw => ended.vats w (Fin.val_ne_of_ne hw), (raise_logged ..).of_events ?_, ?_⟩
    · rw [ended.device]
    · rw [raiseResetDone, raise_frame, ended.device]

end Sys2Proof.Settled
end
